-- ==== Sys2Proof/Word.lean ====
section
/-! DEFINITION. The word types of the J9 and their plainest arithmetic (R3, R45, R69). -/

namespace Sys2Proof

/-- A scalar register's width (R43). -/
abbrev Word := BitVec 64

/-- One byte of any memory of the package. -/
abbrev Byte := BitVec 8

/-- A device virtual address (R310) and the program counter (R57). -/
abbrev Addr := BitVec 56

/-- The signed value of the low `w` bits of `x` (R56: a signed field is two's complement). -/
def sext64 {w : Nat} (x : BitVec w) : Word := x.signExtend 64

/-- `x` zero-extended to a scalar register. -/
def zext64 {w : Nat} (x : BitVec w) : Word := x.setWidth 64

end Sys2Proof
end

