-- ==== Sys2Proof/Syntax.lean ====
section
/-! DEFINITION. The syntax of the Jenon instruction set and of the machine's other steps: one
constructor of `Instr` per row of the opcode table (R61, and the steps of the table that no word
encodes). Register codes are read as R43 reads them; every other field has the type of its own
values (R56, R60, R62). -/

namespace Sys2Proof

/-- A 7-bit register code as R43 names it: a scalar, a ring (ka0-ka3 are 0-3, kb0-kb3 are 4-7) or a
vector register. Interval instructions read the code again under R44. -/
inductive Opd where
  | s (n : Fin 56)
  | ring (k : Fin 8)
  | v (n : Fin 64)
  deriving DecidableEq, Repr

/-- The element types of the T layout (R60). -/
inductive ElemTy where
  | i8 | i16 | i32 | i64 | bf16 | f16 | f32 | f64
  deriving DecidableEq, Repr

/-- The element widths of the M and W layouts (R60). -/
inductive Width where
  | w8 | w16 | w32 | w64
  deriving DecidableEq, Repr

/-- The widths vavg takes (R110). -/
inductive AvgWidth where
  | w8 | w16
  deriving DecidableEq, Repr

/-- The scalar floating-point types of fcmp (R91). -/
inductive FpTy where
  | f64 | f32
  deriving DecidableEq, Repr

/-- The source types of vcvt: 0-7 as the T layout, 8-11 for b8-b64 (R109). -/
inductive CvtSrc where
  | el (t : ElemTy)
  | un (w : Width)
  deriving DecidableEq, Repr

/-- The wide float types of vcvts and vdecb (R192, R196). -/
inductive WideTy where
  | bf16 | f16 | f32
  deriving DecidableEq, Repr

/-- The narrow formats of vcvts, in selector order (R196). -/
inductive NarrowFmt where
  | e4m3 | e5m2 | e2m3 | e3m2 | e2m1
  deriving DecidableEq, Repr

/-- The six-bit formats of vsplit6 and vjoin6 (R194). -/
inductive SixFmt where
  | e2m3 | e3m2
  deriving DecidableEq, Repr

/-- The packed pixel formats (R70, R110). -/
inductive PixFmt where
  | p10 | p12
  deriving DecidableEq, Repr

/-- The patterns of vprune, in selector order (R61, R195). -/
inductive PrunePat where
  | p1of2 | p2of4 | p4of8 | p1of4 | p2of8 | p4of16 | p8of16 | prcfg
  deriving DecidableEq, Repr

/-- The operand formats of mma and mmas, in fn order (R185). -/
inductive MmaTy where
  | bf16 | f16 | e4m3 | e5m2 | i8 | e2m3 | e3m2 | e2m1 | cb2
  deriving DecidableEq, Repr

/-- The two types of an accumulator (R51, R189). -/
inductive AccTy where
  | f32 | i32
  deriving DecidableEq, Repr

/-- The sizes of a scalar load (R239). -/
inductive LdSize where
  | b | h | w | d | bu | hu | wu
  deriving DecidableEq, Repr

/-- The sizes of a scalar store (R239). -/
inductive StSize where
  | b | h | w | d
  deriving DecidableEq, Repr

/-- The sizes of an atomic (R241). -/
inductive WordSize where
  | w | d
  deriving DecidableEq, Repr

/-- The fence scopes, narrowest first (R247). -/
inductive Scope where
  | crew | core | octet | die | domain | system
  deriving DecidableEq, Repr

/-- One leg of a route: a direction 0-5 with its hop count minus one, a null leg, or a hand-over to
the relay engine (R62). -/
inductive Leg where
  | hop (dir : Fin 6) (n : Fin 8)
  | null
  | relay
  deriving DecidableEq, Repr

/-- The three legs of an FR word (R56, R62). -/
structure Route where
  leg0 : Leg
  leg1 : Leg
  leg2 : Leg
  deriving DecidableEq, Repr

/-- A thread by its crew's number and its index in the crew: loader, computer, storer, or a context
by FCTX (R316). -/
structure TRef where
  crew : Nat
  idx : Nat
  deriving DecidableEq, Repr

/-- A message that another package sends here (R232-R234): the number of its context, its control word, the run or
queue it names, the offset and signal address of an xput, its bytes, and the timestamp of its task. -/
structure Inbound where
  ctx : BitVec 16
  ctl : BitVec 64
  handle : BitVec 64
  off : BitVec 64
  sig : BitVec 64
  data : List (BitVec 8)
  ts : BitVec 64
  deriving DecidableEq, Repr

/-- A fabric message that is delivered (R232): the number of one that this package sent, or one that another package
sends here. -/
inductive Arrival where
  | own (id : Nat)
  | inbound (x : Inbound)
  deriving DecidableEq, Repr

/-- A queue by the context and its Bureau index (R161). -/
structure QRef where
  ctx : BitVec 16
  idx : Nat
  deriving DecidableEq, Repr

/-- A crew slot of the package: die, core within the die, slot (R13, R333). -/
structure Place where
  die : BitVec 2
  core : BitVec 5
  slot : BitVec 2
  deriving DecidableEq, Repr

/-- The operands of a mailbox command: TAG, the reserved bits 47:16 of MBCMD and the eight argument
words (R332). -/
structure MbArgs where
  tag : BitVec 16
  rsv : BitVec 32
  a0 : Word
  a1 : Word
  a2 : Word
  a3 : Word
  a4 : Word
  a5 : Word
  a6 : Word
  a7 : Word
  deriving DecidableEq, Repr

/-- The instructions and steps of the J9, one constructor per row of the opcode table. -/
inductive Instr where
  /-- ADD (R86): Scalar d := a + b modulo 2^64. -/
  | add (d a b : Opd)
  /-- SUB (R86): Scalar d := a − b modulo 2^64. -/
  | sub (d a b : Opd)
  /-- AND (R86): Scalar bitwise AND. -/
  | and (d a b : Opd)
  /-- OR (R86): Scalar bitwise OR. -/
  | or (d a b : Opd)
  /-- XOR (R86): Scalar bitwise XOR. -/
  | xor (d a b : Opd)
  /-- ANDN (R86): Scalar a AND NOT b. -/
  | andn (d a b : Opd)
  /-- SLL (R86): Scalar shift left by b[5:0]. -/
  | sll (d a b : Opd)
  /-- SRL (R86): Scalar logical shift right by b[5:0]. -/
  | srl (d a b : Opd)
  /-- SRA (R86): Scalar arithmetic shift right by b[5:0]. -/
  | sra (d a b : Opd)
  /-- ROL (R86): Scalar rotate left by b[5:0]. -/
  | rol (d a b : Opd)
  /-- ROR (R86): Scalar rotate right by b[5:0]. -/
  | ror (d a b : Opd)
  /-- MIN (R86): Scalar signed minimum. -/
  | min (d a b : Opd)
  /-- MAX (R86): Scalar signed maximum. -/
  | max (d a b : Opd)
  /-- MINU (R86): Scalar unsigned minimum. -/
  | minu (d a b : Opd)
  /-- MAXU (R86): Scalar unsigned maximum. -/
  | maxu (d a b : Opd)
  /-- SEL (R86): d := a if old d is non-zero, else b. -/
  | sel (d a b : Opd)
  /-- MUL (R86): Low 64 bits of a × b. -/
  | mul (d a b : Opd)
  /-- MULH (R86): High 64 bits of the signed product. -/
  | mulh (d a b : Opd)
  /-- MULHU (R86): High 64 bits of the unsigned product. -/
  | mulhu (d a b : Opd)
  /-- DIV (R87): Signed division truncating toward zero, no trap. -/
  | div (d a b : Opd)
  /-- DIVU (R87): Unsigned division, no trap. -/
  | divu (d a b : Opd)
  /-- REM (R87): Signed remainder with the sign of the dividend. -/
  | rem (d a b : Opd)
  /-- REMU (R87): Unsigned remainder. -/
  | remu (d a b : Opd)
  /-- CLZ (R86): Count leading zeros of a. -/
  | clz (d a : Opd)
  /-- CTZ (R86): Count trailing zeros of a. -/
  | ctz (d a : Opd)
  /-- POPC (R86): Count one bits of a. -/
  | popc (d a : Opd)
  /-- SEQ (R86): d := 1 if a = b. -/
  | seq (d a b : Opd)
  /-- SLT (R86): d := 1 if a < b signed. -/
  | slt (d a b : Opd)
  /-- SLTU (R86): d := 1 if a < b unsigned. -/
  | sltu (d a b : Opd)
  /-- SLE (R86): d := 1 if a ≤ b signed. -/
  | sle (d a b : Opd)
  /-- SLEU (R86): d := 1 if a ≤ b unsigned. -/
  | sleu (d a b : Opd)
  /-- ADD_IMM (R88): d := a + sext(imm11). -/
  | addImm (d a : Opd) (i : BitVec 11)
  /-- AND_IMM (R88): d := a AND sext(imm11). -/
  | andImm (d a : Opd) (i : BitVec 11)
  /-- OR_IMM (R88): d := a OR sext(imm11). -/
  | orImm (d a : Opd) (i : BitVec 11)
  /-- XOR_IMM (R88): d := a XOR sext(imm11). -/
  | xorImm (d a : Opd) (i : BitVec 11)
  /-- SLL_IMM (R88): Shift left by an immediate amount. -/
  | sllImm (d a : Opd) (s : BitVec 6)
  /-- SRL_IMM (R88): Logical shift right by an immediate amount. -/
  | srlImm (d a : Opd) (s : BitVec 6)
  /-- SRA_IMM (R88): Arithmetic shift right by an immediate amount. -/
  | sraImm (d a : Opd) (s : BitVec 6)
  /-- ROL_IMM (R88): Rotate left by an immediate amount. -/
  | rolImm (d a : Opd) (s : BitVec 6)
  /-- SLT_IMM (R88): d := 1 if a < sext(imm11) signed. -/
  | sltImm (d a : Opd) (i : BitVec 11)
  /-- SLTU_IMM (R88): d := 1 if a < sext(imm11) unsigned. -/
  | sltuImm (d a : Opd) (i : BitVec 11)
  /-- LIMM (R89): d := sext(imm18). -/
  | limm (d : Opd) (i : BitVec 18)
  /-- LHI (R89): d := (d << 18) OR zext(imm18). -/
  | lhi (d : Opd) (i : BitVec 18)
  /-- FADD_F64 (R90): f64 add rounded under frm. -/
  | faddF64 (d a b : Opd)
  /-- FSUB_F64 (R90): f64 subtract. -/
  | fsubF64 (d a b : Opd)
  /-- FMUL_F64 (R90): f64 multiply. -/
  | fmulF64 (d a b : Opd)
  /-- FDIV_F64 (R90): f64 divide. -/
  | fdivF64 (d a b : Opd)
  /-- FMIN_F64 (R90): f64 minimumNumber. -/
  | fminF64 (d a b : Opd)
  /-- FMAX_F64 (R90): f64 maximumNumber. -/
  | fmaxF64 (d a b : Opd)
  /-- FSQRT_F64 (R90): f64 square root. -/
  | fsqrtF64 (d a : Opd)
  /-- FCLASS_F64 (R90): f64 class mask. -/
  | fclassF64 (d a : Opd)
  /-- FFMA_F64 (R90): f64 fused a × b + d. -/
  | ffmaF64 (d a b : Opd)
  /-- FADD_F32 (R90): f32 add. -/
  | faddF32 (d a b : Opd)
  /-- FSUB_F32 (R90): f32 subtract. -/
  | fsubF32 (d a b : Opd)
  /-- FMUL_F32 (R90): f32 multiply. -/
  | fmulF32 (d a b : Opd)
  /-- FDIV_F32 (R90): f32 divide. -/
  | fdivF32 (d a b : Opd)
  /-- FMIN_F32 (R90): f32 minimumNumber. -/
  | fminF32 (d a b : Opd)
  /-- FMAX_F32 (R90): f32 maximumNumber. -/
  | fmaxF32 (d a b : Opd)
  /-- FSQRT_F32 (R90): f32 square root. -/
  | fsqrtF32 (d a : Opd)
  /-- FCLASS_F32 (R90): f32 class mask. -/
  | fclassF32 (d a : Opd)
  /-- FFMA_F32 (R90): f32 fused a × b + d. -/
  | ffmaF32 (d a b : Opd)
  /-- FCMP_EQ (R91): Float compare equal, type in fn[3]. -/
  | fcmpEq (d a b : Opd) (t : FpTy)
  /-- FCMP_LT (R91): Float compare less than. -/
  | fcmpLt (d a b : Opd) (t : FpTy)
  /-- FCMP_LE (R91): Float compare less or equal. -/
  | fcmpLe (d a b : Opd) (t : FpTy)
  /-- FCMP_UNORD (R91): Float compare unordered. -/
  | fcmpUnord (d a b : Opd) (t : FpTy)
  /-- FCVT_F64_F32 (R92): Convert f32 to f64. -/
  | fcvtF64F32 (d a : Opd)
  /-- FCVT_F32_F64 (R92): Convert f64 to f32. -/
  | fcvtF32F64 (d a : Opd)
  /-- FCVT_F64_I64 (R92): Convert i64 to f64. -/
  | fcvtF64I64 (d a : Opd)
  /-- FCVT_F64_B64 (R92): Convert b64 to f64. -/
  | fcvtF64B64 (d a : Opd)
  /-- FCVT_F32_I64 (R92): Convert i64 to f32. -/
  | fcvtF32I64 (d a : Opd)
  /-- FCVT_F32_B64 (R92): Convert b64 to f32. -/
  | fcvtF32B64 (d a : Opd)
  /-- FCVT_I64_F64 (R92): Convert f64 to i64. -/
  | fcvtI64F64 (d a : Opd)
  /-- FCVT_B64_F64 (R92): Convert f64 to b64. -/
  | fcvtB64F64 (d a : Opd)
  /-- FCVT_I64_F32 (R92): Convert f32 to i64. -/
  | fcvtI64F32 (d a : Opd)
  /-- FCVT_B64_F32 (R92): Convert f32 to b64. -/
  | fcvtB64F32 (d a : Opd)
  /-- BEQ (R93): Branch if equal. -/
  | beq (r : BitVec 6) (a : Opd) (i : BitVec 11)
  /-- BNE (R93): Branch if not equal. -/
  | bne (r : BitVec 6) (a : Opd) (i : BitVec 11)
  /-- BLT (R93): Branch if less than, signed. -/
  | blt (r : BitVec 6) (a : Opd) (i : BitVec 11)
  /-- BGE (R93): Branch if not less than, signed. -/
  | bge (r : BitVec 6) (a : Opd) (i : BitVec 11)
  /-- BLTU (R93): Branch if less than, unsigned. -/
  | bltu (r : BitVec 6) (a : Opd) (i : BitVec 11)
  /-- BGEU (R93): Branch if not less than, unsigned. -/
  | bgeu (r : BitVec 6) (a : Opd) (i : BitVec 11)
  /-- STRIP (R99): Consume vl, advance pointers, take the next grant and branch while count is non-zero. -/
  | strip (c p : Opd) (n : BitVec 2) (x : BitVec 9)
  /-- BP_T (R94): Branch if predicate is true. -/
  | bpT (p : BitVec 3) (i : BitVec 18)
  /-- BP_F (R94): Branch if predicate is false. -/
  | bpF (p : BitVec 3) (i : BitVec 18)
  /-- BP_U (R94): Branch if predicate is unknown. -/
  | bpU (p : BitVec 3) (i : BitVec 18)
  /-- CALL (R95): Write link and jump pc-relative. -/
  | call (d : Opd) (i : BitVec 18)
  /-- JR (R95): Write link and jump to register address. -/
  | jr (d a : Opd)
  /-- CRD (R96): Read a control register into a scalar. -/
  | crd (d : Opd) (b : BitVec 7)
  /-- CWR (R96): Write a control register field by field, with the waits of R50 and R54. -/
  | cwr (a : Opd) (b : BitVec 7)
  /-- WBASE (R97): Move the register window relative to its position. -/
  | wbase (d a : Opd)
  /-- TRAP (R101): Raise FLT_TRAP with a code once earlier vector instructions commit. -/
  | trap (a : Opd) (b : BitVec 7)
  /-- ERET (R319): Handler resumes the trapped crew from the save area. -/
  | eret
  /-- YIELD (R41): Mark the thread ready for a pending pre-emption save. -/
  | yield
  /-- HALT (R102): Wait for commits and tokens, then retire the thread. -/
  | halt
  /-- SETVL (R100): Set vl and the current grant. -/
  | setvl (d a : Opd)
  /-- LD (R239): Scalar load of selected size and extension. -/
  | ld (d a : Opd) (x : BitVec 8) (s : LdSize)
  /-- ST (R239): Scalar store of selected size. -/
  | st (d a : Opd) (x : BitVec 8) (s : StSize)
  /-- AMO_ADD (R241): Atomic add returning the old value. -/
  | amoAdd (d a b : Opd) (z : WordSize)
  /-- AMO_AND (R241): Atomic AND. -/
  | amoAnd (d a b : Opd) (z : WordSize)
  /-- AMO_OR (R241): Atomic OR. -/
  | amoOr (d a b : Opd) (z : WordSize)
  /-- AMO_XOR (R241): Atomic XOR. -/
  | amoXor (d a b : Opd) (z : WordSize)
  /-- AMO_MIN (R241): Atomic signed minimum. -/
  | amoMin (d a b : Opd) (z : WordSize)
  /-- AMO_MAX (R241): Atomic signed maximum. -/
  | amoMax (d a b : Opd) (z : WordSize)
  /-- AMO_SWAP (R241): Atomic swap. -/
  | amoSwap (d a b : Opd) (z : WordSize)
  /-- CAS (R241): Compare and swap. -/
  | cas (d a b : Opd) (z : WordSize)
  /-- BINC (R241): Bounded atomic increment. -/
  | binc (d a b : Opd)
  /-- FENCE_SV (R247): Order earlier scalar accesses before later vector accesses at a scope. -/
  | fenceSv (s : Scope)
  /-- FENCE_VS (R247): Order earlier vector accesses before later scalar accesses at a scope. -/
  | fenceVs (s : Scope)
  /-- FENCE_EE (R247): Order engine transfers against each other at a scope. -/
  | fenceEe (s : Scope)
  /-- VDRAIN (R248): Wait until the vector queue is empty and its accesses performed. -/
  | vdrain
  /-- TFENCE (R249): Order page-table writes against later walks and drop cached translations. -/
  | tfence (s : Scope)
  /-- WAITC (R243): Sleep until a word reaches a value. -/
  | waitc (d a b : Opd)
  /-- GCSLEEP_ANY (R244): Sleep until any table entry is satisfied. -/
  | gcsleepAny (d a b : Opd)
  /-- GCSLEEP_ALL (R244): Sleep until every table entry has been satisfied. -/
  | gcsleepAll (d a b : Opd)
  /-- BQPUSH (R246): Loader appends a scalar to bq. -/
  | bqpush (a : Opd)
  /-- BQPOP (R246): Computer removes the oldest bq entry. -/
  | bqpop (d : Opd)
  /-- VADD (R106): Vector add. -/
  | vadd (d a b : Opd) (m : Bool) (t : ElemTy)
  /-- VSUB (R106): Vector subtract. -/
  | vsub (d a b : Opd) (m : Bool) (t : ElemTy)
  /-- VMUL (R106): Vector multiply. -/
  | vmul (d a b : Opd) (m : Bool) (t : ElemTy)
  /-- VFMA (R106): Vector fused multiply-add into d. -/
  | vfma (d a b : Opd) (m : Bool) (t : ElemTy)
  /-- VMIN (R106): Vector signed or float minimum. -/
  | vmin (d a b : Opd) (m : Bool) (t : ElemTy)
  /-- VMAX (R106): Vector signed or float maximum. -/
  | vmax (d a b : Opd) (m : Bool) (t : ElemTy)
  /-- VDIV (R106): Vector divide. -/
  | vdiv (d a b : Opd) (m : Bool) (t : ElemTy)
  /-- VABS (R106): Vector absolute value. -/
  | vabs (d a : Opd) (m : Bool) (t : ElemTy)
  /-- VNEG (R106): Vector negate. -/
  | vneg (d a : Opd) (m : Bool) (t : ElemTy)
  /-- VSQRT (R106): Vector float square root. -/
  | vsqrt (d a : Opd) (m : Bool) (t : ElemTy)
  /-- VCMPEQ (R108): Vector compare equal to a mask. -/
  | vcmpeq (d a b : Opd) (m : Bool) (t : ElemTy)
  /-- VCMPLT (R108): Vector compare less than to a mask. -/
  | vcmplt (d a b : Opd) (m : Bool) (t : ElemTy)
  /-- VCMPLE (R108): Vector compare less or equal to a mask. -/
  | vcmple (d a b : Opd) (m : Bool) (t : ElemTy)
  /-- VAND (R107): Vector bitwise AND. -/
  | vand (d a b : Opd) (w : Width)
  /-- VOR (R107): Vector bitwise OR. -/
  | vor (d a b : Opd) (w : Width)
  /-- VXOR (R107): Vector bitwise XOR. -/
  | vxor (d a b : Opd) (w : Width)
  /-- VANDN (R107): Vector a AND NOT b. -/
  | vandn (d a b : Opd) (w : Width)
  /-- VSLL (R107): Vector shift left. -/
  | vsll (d a b : Opd) (w : Width)
  /-- VSRL (R107): Vector logical shift right. -/
  | vsrl (d a b : Opd) (w : Width)
  /-- VSRA (R107): Vector arithmetic shift right. -/
  | vsra (d a b : Opd) (w : Width)
  /-- VSEL (R107): Vector select by v0. -/
  | vsel (d a b : Opd) (w : Width)
  /-- VMIN_UNSIGNED (R107): Vector unsigned minimum. -/
  | vminUnsigned (d a b : Opd) (w : Width)
  /-- VMAX_UNSIGNED (R107): Vector unsigned maximum. -/
  | vmaxUnsigned (d a b : Opd) (w : Width)
  /-- VCMPLT_UNSIGNED (R108): Vector unsigned compare less than. -/
  | vcmpltUnsigned (d a b : Opd) (w : Width)
  /-- VCMPLE_UNSIGNED (R108): Vector unsigned compare less or equal. -/
  | vcmpleUnsigned (d a b : Opd) (w : Width)
  /-- VDIV_UNSIGNED (R106): Vector unsigned divide. -/
  | vdivUnsigned (d a b : Opd) (m : Bool) (w : Width)
  /-- VCVT (R109): Vector element conversion. -/
  | vcvt (d a : Opd) (u : Bool) (s : CvtSrc) (m : Bool) (t : ElemTy)
  /-- VUNPIX (R110): Unpack p10 or p12 samples to b16. -/
  | vunpix (d a : Opd) (m : Bool) (p : PixFmt)
  /-- VPKPIX (R110): Pack b16 samples to p10 or p12. -/
  | vpkpix (d a : Opd) (m : Bool) (p : PixFmt)
  /-- VSATN (R110): Saturating rounding narrowing shift. -/
  | vsatn (d a b : Opd) (m g : Bool) (w : Width)
  /-- VMADD16 (R110): Pairwise 16-bit multiply-add into 32-bit. -/
  | vmadd16 (d a b : Opd) (m g : Bool)
  /-- VAVG (R110): Rounding average. -/
  | vavg (d a b : Opd) (m g : Bool) (w : AvgWidth)
  /-- VRED_ADD (R111): Reduce by add to a scalar. -/
  | vredAdd (d a : Opd) (m : Bool) (t : ElemTy)
  /-- VRED_MAX (R111): Reduce by maximum. -/
  | vredMax (d a : Opd) (m : Bool) (t : ElemTy)
  /-- VRED_MIN (R111): Reduce by minimum. -/
  | vredMin (d a : Opd) (m : Bool) (t : ElemTy)
  /-- VRED_AND (R111): Reduce by AND. -/
  | vredAnd (d a : Opd) (m : Bool) (t : ElemTy)
  /-- VRED_OR (R111): Reduce by OR. -/
  | vredOr (d a : Opd) (m : Bool) (t : ElemTy)
  /-- VRED_MAXU (R111): Reduce by unsigned maximum. -/
  | vredMaxu (d a : Opd) (m : Bool) (t : ElemTy)
  /-- VRED_MINU (R111): Reduce by unsigned minimum. -/
  | vredMinu (d a : Opd) (m : Bool) (t : ElemTy)
  /-- VSCAN_ADD (R111): Inclusive prefix add. -/
  | vscanAdd (d a : Opd) (m : Bool) (t : ElemTy)
  /-- VSCAN_MAX (R111): Inclusive prefix maximum. -/
  | vscanMax (d a : Opd) (m : Bool) (t : ElemTy)
  /-- VSCAN_MIN (R111): Inclusive prefix minimum. -/
  | vscanMin (d a : Opd) (m : Bool) (t : ElemTy)
  /-- VSCAN_AND (R111): Inclusive prefix AND. -/
  | vscanAnd (d a : Opd) (m : Bool) (t : ElemTy)
  /-- VSCAN_OR (R111): Inclusive prefix OR. -/
  | vscanOr (d a : Opd) (m : Bool) (t : ElemTy)
  /-- VSCAN_MAXU (R111): Inclusive prefix unsigned maximum. -/
  | vscanMaxu (d a : Opd) (m : Bool) (t : ElemTy)
  /-- VSCAN_MINU (R111): Inclusive prefix unsigned minimum. -/
  | vscanMinu (d a : Opd) (m : Bool) (t : ElemTy)
  /-- VCOMPRESS (R112): Pack elements selected by v0. -/
  | vcompress (d a : Opd) (t : ElemTy)
  /-- VEXPAND (R112): Spread elements to positions selected by v0. -/
  | vexpand (d a : Opd) (t : ElemTy)
  /-- VSLIDE (R112): Slide elements by a scalar offset. -/
  | vslide (d a b : Opd) (m : Bool) (t : ElemTy)
  /-- VBCAST (R112): Broadcast a scalar to every element. -/
  | vbcast (d a : Opd) (m : Bool) (t : ElemTy)
  /-- VIDX (R112): Write element indices. -/
  | vidx (d : Opd) (m : Bool) (t : ElemTy)
  /-- VEXTR (R112): Extract one element to a scalar. -/
  | vextr (d a b : Opd) (t : ElemTy)
  /-- VMPOP (R112): Count set mask bits to a scalar. -/
  | vmpop (d a : Opd)
  /-- VMFIRST (R112): Index of the first set mask bit. -/
  | vmfirst (d a : Opd)
  /-- VTOPK (R113): Top-k values and indices per row. -/
  | vtopk (d a b : Opd) (m : Bool) (t : ElemTy)
  /-- VLD (R115): Unit-stride vector load from scratchpad or run stream. -/
  | vld (d a b : Opd) (m : Bool) (t : ElemTy)
  /-- VST (R115): Unit-stride vector store to scratchpad or run. -/
  | vst (d a b : Opd) (m : Bool) (t : ElemTy)
  /-- VLDFF (R117): First-fault vector load that truncates vl. -/
  | vldff (d a b : Opd) (m : Bool) (t : ElemTy)
  /-- VLDS (R116): Strided scratchpad load. -/
  | vlds (d a b : Opd) (m : Bool) (t : ElemTy)
  /-- VSTS (R116): Strided scratchpad store. -/
  | vsts (d a b : Opd) (m : Bool) (t : ElemTy)
  /-- VGATHS (R119): Scratchpad gather by offsets. -/
  | vgaths (d a b : Opd) (m : Bool) (t : ElemTy)
  /-- VSCATS (R119): Scratchpad scatter by offsets. -/
  | vscats (d a b : Opd) (m : Bool) (t : ElemTy)
  /-- WBIND (R120): Probe then copy a run window into the scratchpad. -/
  | wbind (d a b : Opd)
  /-- VDECB (R192): Decode cb2 indices to weights. -/
  | vdecb (d a : Opd) (m : Bool) (t : WideTy)
  /-- CBLOAD (R193): Load the inactive code-table bank and flip it. -/
  | cbload (a : Opd)
  /-- VSPLIT6 (R194): Split six-bit codes into planes. -/
  | vsplit6 (d a b : Opd) (f : SixFmt)
  /-- VJOIN6 (R194): Join planes into six-bit codes. -/
  | vjoin6 (d a b : Opd) (f : SixFmt)
  /-- VPRUNE (R195): Keep the N largest of each group of M. -/
  | vprune (d a : Opd) (t : ElemTy) (p : PrunePat)
  /-- VCVTS_TO_NARROW (R196): Scaled conversion from a wide type to a narrow format. -/
  | vcvtsToNarrow (d a : Opd) (n : NarrowFmt) (m : Bool) (t : WideTy)
  /-- VCVTS_FROM_NARROW (R196): Scaled conversion from a narrow format to a wide type. -/
  | vcvtsFromNarrow (d a : Opd) (n : NarrowFmt) (m : Bool) (t : WideTy)
  /-- MMA (R187): Matrix multiply-accumulate into the working bank. -/
  | mma (c : BitVec 2) (g : BitVec 4) (a b : Opd) (f : MmaTy)
  /-- MMAS (R188): Block-scaled matrix multiply-accumulate. -/
  | mmas (c : BitVec 2) (g : BitVec 4) (a b : Opd) (f : MmaTy)
  /-- MZERO (R189): Zero the working bank. -/
  | mzero (c : BitVec 2)
  /-- MSWAP (R190): Exchange working and visible banks. -/
  | mswap (c : BitVec 2)
  /-- MRD (R189): Read a visible-bank row into a vector. -/
  | mrd (c : BitVec 2) (r : BitVec 4) (a : Opd)
  /-- MWR (R189): Write a vector into a working-bank row. -/
  | mwr (c : BitVec 2) (r : BitVec 4) (a : Opd)
  /-- MCFG (R189): Type and zero both banks of an accumulator. -/
  | mcfg (c : BitVec 2) (t : AccTy)
  /-- IADD (R201): Interval add. -/
  | iadd (d a b : Opd)
  /-- ISUB (R201): Interval subtract. -/
  | isub (d a b : Opd)
  /-- IMUL (R201): Interval multiply. -/
  | imul (d a b : Opd)
  /-- IDIV (R201): Interval divide. -/
  | idiv (d a b : Opd)
  /-- ISQR (R201): Interval square. -/
  | isqr (d a : Opd)
  /-- ISQRT (R201): Interval square root. -/
  | isqrt (d a : Opd)
  /-- INEG (R201): Interval negate. -/
  | ineg (d a : Opd)
  /-- CADD (R203): Contractor for c = a + b. -/
  | cadd (d a b : Opd)
  /-- CSUB (R203): Contractor for c = a − b. -/
  | csub (d a b : Opd)
  /-- CMUL (R203): Contractor for c = a × b. -/
  | cmul (d a b : Opd)
  /-- CDIV (R203): Contractor for c = a ÷ b. -/
  | cdiv (d a b : Opd)
  /-- CSQR (R203): Contractor for c = a². -/
  | csqr (d a : Opd)
  /-- CSQRT (R203): Contractor for c = √a. -/
  | csqrt (d a : Opd)
  /-- IINTER (R206): Interval intersection. -/
  | iinter (d a b : Opd)
  /-- IHULL (R206): Interval hull. -/
  | ihull (d a b : Opd)
  /-- ISPLIT (R206): Bisect an interval. -/
  | isplit (d a : Opd)
  /-- IWID (R206): Interval width to a scalar. -/
  | iwid (d a : Opd)
  /-- ICLRP (R206): Read and clear iflags.PROG after vector commits. -/
  | iclrp (d : Opd)
  /-- ICMP_LT (R207): Three-valued interval less than. -/
  | icmpLt (d a b : Opd)
  /-- ICMP_LE (R207): Three-valued interval less or equal. -/
  | icmpLe (d a b : Opd)
  /-- ICMP_SUB (R207): Interval subset test. -/
  | icmpSub (d a b : Opd)
  /-- ICMP_CZ (R207): Interval contains-zero test. -/
  | icmpCz (d a : Opd)
  /-- ISET (R200): Set an interval from two scalars. -/
  | iset (d a b : Opd)
  /-- IGET_LO (R200): Read the lower endpoint. -/
  | igetLo (d a : Opd)
  /-- IGET_HI (R200): Read the upper endpoint. -/
  | igetHi (d a : Opd)
  /-- VIADD (R208): Vector interval add. -/
  | viadd (d a b : Opd) (m : Bool)
  /-- VISUB (R208): Vector interval subtract. -/
  | visub (d a b : Opd) (m : Bool)
  /-- VIMUL (R208): Vector interval multiply. -/
  | vimul (d a b : Opd) (m : Bool)
  /-- VCADD (R208): Vector add contractor. -/
  | vcadd (d a b : Opd) (m : Bool)
  /-- VCSUB (R208): Vector subtract contractor. -/
  | vcsub (d a b : Opd) (m : Bool)
  /-- VCMUL (R208): Vector multiply contractor. -/
  | vcmul (d a b : Opd) (m : Bool)
  /-- ROPEN (R134): Create a run in the Cabinet. -/
  | ropen (d a b : Opd)
  /-- ROPEN_ACQ (R134): Attach to a published run as an acquire. -/
  | ropenAcq (d b : Opd)
  /-- RPUB (R135): Publish a run as a release. -/
  | rpub (a : Opd)
  /-- RCLOSE (R136): Close a run. -/
  | rclose (a : Opd)
  /-- RINFO (R137): Read a run's four descriptor words. -/
  | rinfo (d a : Opd)
  /-- RSPLICE (R141): Concatenate two runs. -/
  | rsplice (d a b : Opd)
  /-- RTAG (R138): Write or swap record tags. -/
  | rtag (d a b : Opd)
  /-- RSORT_K (R139): Stable sort by key. -/
  | rsortK (d a b : Opd)
  /-- RSORT_KT (R139): Stable sort by key then tag. -/
  | rsortKt (d a b : Opd)
  /-- RMERGE_NONE (R148): Merge sorted runs without combining. -/
  | rmergeNone (d a b : Opd)
  /-- RMERGE_ADD (R148): Merge and add equal-key lanes. -/
  | rmergeAdd (d a b : Opd)
  /-- RMERGE_WADD (R148): Merge with weighted add. -/
  | rmergeWadd (d a b : Opd)
  /-- RMERGE_MIN (R148): Merge keeping lane minima. -/
  | rmergeMin (d a b : Opd)
  /-- RMERGE_MAX (R148): Merge keeping lane maxima. -/
  | rmergeMax (d a b : Opd)
  /-- RMERGE_FIRST (R148): Merge keeping the first record of each group. -/
  | rmergeFirst (d a b : Opd)
  /-- RMERGE_LAST (R148): Merge keeping the last record of each group. -/
  | rmergeLast (d a b : Opd)
  /-- RMERGE_USER (R151): Merge with combine steps computed by the computer through lent rings. -/
  | rmergeUser (d a b : Opd)
  /-- RJOIN (R154): Join requests against a table, emitting misses. -/
  | rjoin (d a b : Opd)
  /-- RJOIN_DROP (R154): Join requests against a table, dropping misses. -/
  | rjoinDrop (d a b : Opd)
  /-- RSET_ISECT (R155): Sorted key-set intersection. -/
  | rsetIsect (d a b : Opd)
  /-- RSET_UNION (R155): Sorted key-set union. -/
  | rsetUnion (d a b : Opd)
  /-- RSET_DIFF (R155): Sorted key-set difference. -/
  | rsetDiff (d a b : Opd)
  /-- RPART (R140): Partition a run by splitters. -/
  | rpart (d a b : Opd)
  /-- RDEDUP (R157): Keep the first record per key. -/
  | rdedup (d a b : Opd)
  /-- RCOUNT (R158): Count records per distinct key. -/
  | rcount (d a b : Opd)
  /-- QOPEN (R169): Create a queue in the Bureau. -/
  | qopen (d a b : Opd)
  /-- QPUSH (R170): Push records to a queue, truncating when full. -/
  | qpush (d a : Opd)
  /-- QTAKE (R170): Take records from a queue head or own claim. -/
  | qtake (d a : Opd)
  /-- QARM (R172): Arm, rearm or disarm a Settle. -/
  | qarm (a b : Opd)
  /-- QDONE (R171): Close a queue's push side. -/
  | qdone (a : Opd)
  /-- QSTAT (R177): Snapshot queue status and descriptor. -/
  | qstat (d a : Opd)
  /-- TSPAWN (R178): Enqueue a timestamped task. -/
  | tspawn (d a b : Opd)
  /-- TEND (R181): End the thread, or cancel a timestamped task. -/
  | tend (a : Opd)
  /-- FORK (R182): Split lane groups and count to a child context. -/
  | fork (d a b : Opd)
  /-- JOIN (R183): End a child or reunite it with the parent. -/
  | join
  /-- XSEND (R234): Send buffer records as a push to a remote queue. -/
  | xsend (r : BitVec 6) (t : Route)
  /-- XPUT (R233): Copy buffer bytes into a remote run with optional signal add. -/
  | xput (r : BitVec 6) (t : Route)
  /-- CPY (R220): Copy between a run and a buffer. -/
  | cpy (d a b : Opd)
  /-- CPYD (R221): Decompressing fill of a buffer from a run. -/
  | cpyd (d a b : Opd)
  /-- SREAD (R230): NVMe read into a buffer. -/
  | sread (d a b : Opd)
  /-- SWRITE (R230): NVMe write from a buffer. -/
  | swrite (d a b : Opd)
  /-- BDECL (R214): Declare a scratchpad buffer. -/
  | bdecl (d a b : Opd)
  /-- BXFORM (R218): In-bank transform command. -/
  | bxform (d a b : Opd)
  /-- BREL_REL (R215): Return a FULL buffer to EMPTY. -/
  | brelRel (a : Opd)
  /-- BREL_FREE (R215): Free an EMPTY buffer. -/
  | brelFree (a : Opd)
  /-- BREL_SEAL (R216): Seal an EMPTY buffer to FULL after own stores commit. -/
  | brelSeal (a : Opd)
  /-- RMARK (R228): Set COMP and TOL attributes of an empty run. -/
  | rmark (a b : Opd)
  /-- ILLEGAL_INSTRUCTION (R63): A word that is not an instruction raises FLT_ILLEGAL_INSTR. -/
  | illegalInstruction (w : BitVec 32)
  /-- VECTOR_COMMIT (R290): A queued vector instruction completes its chunks and commits in queue order. -/
  | vectorCommit (t : TRef)
  /-- RUN_ENGINE_PUBLISH (R128): A run engine operation completes, atomically publishes its output and writes its
  token. -/
  | runEnginePublish (op : Nat)
  /-- CPY_COMPLETE (R220): A cpy finishes, updates buffer state or run LEN and writes its token. -/
  | cpyComplete (op : Nat)
  /-- CPYD_COMPLETE (R221): A decompressing fill finishes and writes its token. -/
  | cpydComplete (op : Nat)
  /-- BXFORM_COMPLETE (R218): An in-bank transform finishes and writes its token. -/
  | bxformComplete (op : Nat)
  /-- STORAGE_COMPLETE (R230): An NVMe completion is polled and the command's token is written. -/
  | storageComplete (op : Nat) (status : BitVec 16) (data : List (BitVec 8))
  /-- XPUT_DELIVER (R233): An xput arrives at its destination, writes the run and then adds the signal: a message of
  this package, or one that another package sends. -/
  | xputDeliver (msg : Arrival)
  /-- XSEND_DELIVER (R234): An xsend arrives and enters the destination queue as one push: a message of this package,
  or one that another package sends. -/
  | xsendDeliver (msg : Arrival)
  /-- RELAY_FORWARD (R235): A relay engine forwards a message by its relay table entry or discards it. -/
  | relayForward (msg : Nat)
  /-- FABRIC_TOKEN_RETURN (R236): The sender's token for a fabric message is written with the byte count or a
  negative code. -/
  | fabricTokenReturn (msg : Nat) (value : BitVec 64)
  /-- QPUSH_ARRIVAL (R165): Committed push records arrive at the home core and are stamped. -/
  | qpushArrival (push : Nat)
  /-- QUEUE_MISS_SERVICED (R309): Firmware evicts a segment, swaps the missing one in and releases the thread. -/
  | queueMissServiced (q : QRef)
  /-- SPILL_REFILL (R166): Spilled records move back into the segment as space frees. -/
  | spillRefill (q : QRef)
  /-- SETTLE_AGE_ELIGIBLE (R173): A Settle's head record reaches its age limit. -/
  | settleAgeEligible (q : QRef)
  /-- SETTLE_CLASS_PROMOTION (R173): A Settle's effective class becomes 0 at t0 + 2A. -/
  | settleClassPromotion (q : QRef)
  /-- SETTLE_FIRE (R173): The dispatcher fires one eligible Settle, claiming records and enqueuing a task. -/
  | settleFire (q : QRef)
  /-- TASK_DISPATCH (R178): The die dispatcher starts a ready timestamped task on a free crew slot. -/
  | taskDispatch (task : Nat) (place : Place)
  /-- TASK_BECOMES_OLDEST (R35): A task becomes oldest uncommitted and its provisional extents and Cabinet changes
  are published. -/
  | taskBecomesOldest (die : BitVec 2)
  /-- TASK_COMMIT (R34): A retired timestamped task commits in commit order and releases its claim. -/
  | taskCommit (die : BitVec 2)
  /-- WAITC_WAKE (R243): A waitc condition is seen satisfied and the thread resumes. -/
  | waitcWake (t : TRef)
  /-- GCSLEEP_WAKE (R244): A gcsleep condition is met and the thread resumes. -/
  | gcsleepWake (t : TRef)
  /-- HOST_WORD_POLL (R243): A host word under wait is re-read every 4,096 cycles. -/
  | hostWordPoll (t : TRef)
  /-- TAIL_WRITE (R306): Host doorbell write to a launch queue TAIL. -/
  | tailWrite (q : BitVec 12) (v : BitVec 64)
  /-- QCFG_WRITE (R306): Write to QCFG enabling, disabling or reconfiguring a launch queue. -/
  | qcfgWrite (q : BitVec 12) (v : BitVec 64)
  /-- REGISTER_WRITE (R306): Write to a host register with no behaviour of its own, such as QBASE. -/
  | registerWrite (off : BitVec 21) (v : BitVec 64)
  /-- LAUNCH_PACKET_READ (R306): The front end reads a packet at HEAD and advances HEAD. -/
  | launchPacketRead (q : BitVec 12)
  /-- LAUNCH_START (R307): A ready head whose prerequisites and slots are met starts and its tasks are split. -/
  | launchStart (q : BitVec 12)
  /-- PREEMPT_DEADLINE_EXPIRY (R41): ddl reaches zero and the crew is force-saved. -/
  | preemptDeadlineExpiry (crew : Nat)
  /-- CREW_SAVE (R321): A crew is saved to its save area once every thread is ready, retired or stalled. -/
  | crewSave (crew : Nat)
  /-- SAVE_TIMEOUT (R328): A save not complete within 200 µs kills the context with FLT_SAVE_TIMEOUT. -/
  | saveTimeout (crew : Nat)
  /-- HANG_WATCHDOG_EXPIRY (R328): A crew stalled for WDOG cycles is force-saved and FLT_HANG reported. -/
  | hangWatchdogExpiry (crew : Nat)
  /-- BREAKPOINT_STOP (R349): An execute or watch breakpoint stops and saves the crew with a STOP record. -/
  | breakpointStop (t : TRef)
  /-- STEP_COMPLETE (R350): A stepped instruction's effects drain and the crew is saved again. -/
  | stepComplete (crew : Nat)
  /-- COUNTER_WRAP (R341): A counter passes 2^32, reloads, bumps CARRY and may write a SAMPLE record. -/
  | counterWrap (unit : BitVec 8) (ev : BitVec 9) (inc : Nat)
  /-- COUNTER_SWEEP (R342): At each period the sweeper folds every counter into its TOTAL. -/
  | counterSweep
  /-- SRAM_SCRUB (R357): Background scrub round over every SRAM word every 4 s. -/
  | sramScrub (bad : List Nat)
  /-- DRAM_PATROL_SCRUB (R357): DRAM patrol scrub every 24 h, withdrawing frames with uncorrectable errors. -/
  | dramPatrolScrub (bad : List Nat)
  /-- POWER_GOOD (R335): Power-good starts stage 0 and zeroes tsclk. -/
  | powerGood
  /-- STAGE1_READY (R335): A die finishes DRAM training and enters stage 1. -/
  | stage1Ready (die : BitVec 2)
  /-- STAGE2_READY (R335): Phonelos trained and fabric map and relay tables written. -/
  | stage2Ready
  /-- STAGE3_READY (R335): Full function on every die and port in service. -/
  | stage3Ready
  /-- PORT_TRAINED (R359): A Phonelos port completes training at both ends. -/
  | portTrained (port : BitVec 5)
  /-- PORT_TRAINING_TIMEOUT (R359): A port not trained within 1 s is retired. -/
  | portTrainingTimeout (port : BitVec 5)
  /-- FLIT_RECEIVE (R360): A flit is received, FEC-corrected and CRC-checked, NAKing on failure. -/
  | flitReceive (port : BitVec 5) (seq : BitVec 12) (good : Bool)
  /-- FLIT_NAK (R360): A NAK makes the sender replay from the NAKed flit. -/
  | flitNak (port : BitVec 5) (seq : BitVec 12)
  /-- LINK_DOWN (R360): A flit failing 8 times in succession takes the link down. -/
  | linkDown (port : BitVec 5)
  /-- UNCORRECTED_CODEWORD_LIMIT (R361): More than 64 uncorrected codewords in 1 s retires the port. -/
  | uncorrectedCodewordLimit (port : BitVec 5)
  /-- POWER_THROTTLE (R364): Power over CAP or a die over 105 °C lowers issue rates and sets THROT. -/
  | powerThrottle (watts : BitVec 16) (temps : BitVec 48)
  /-- THERMAL_TRIP (R364): A die at 115 °C saves every context and holds the package in stage 0. -/
  | thermalTrip (temps : BitVec 48)
  /-- THERMAL_RECOVERY (R364): Every die falls below 95 °C and the hold ends. -/
  | thermalRecovery (temps : BitVec 48)
  /-- FIRMWARE_FAULT (R337): A firmware fault returns the package to stage 0 and kills every context. -/
  | firmwareFault
  /-- PEER_WINDOW_ACCESS (R331): A PCIe request to BAR2 reaches a core's scratchpad. -/
  | peerWindowAccess (off : BitVec 29) (len : Nat) (data : Option (List (BitVec 8)))
  /-- SPDM_REQUEST (R331): An SPDM request over MCTP is answered with measurements or signatures. -/
  | spdmRequest (req : List (BitVec 8))
  /-- UNKNOWN_OP (R333): A mailbox command with an unlisted OP returns BADOP. -/
  | unknownOp (op : BitVec 16) (tag : BitVec 16)
  /-- RESYNC (R336): Write a 4 KiB device summary to host memory. -/
  | resync (a : MbArgs)
  /-- FWLOAD (R337): Verify and load the firmware image and start stage 1. -/
  | fwload (a : MbArgs)
  /-- CTXNEW (R333): Create a context with empty Bureau and Cabinet. -/
  | ctxnew (a : MbArgs)
  /-- CTXKILL (R333): Kill a context and free its resources. -/
  | ctxkill (a : MbArgs)
  /-- XLATE (R310): Set a context's page-table root and xmode. -/
  | xlate (a : MbArgs)
  /-- KEYLOAD (R312): Install a DRAM key pair in a slot. -/
  | keyload (a : MbArgs)
  /-- PURGE (R313): Invalidate a slot's SRAM lines and replace its key. -/
  | purge (a : MbArgs)
  /-- TRAPSET (R318): Set a context's trap handler, pool and watchdog. -/
  | trapset (a : MbArgs)
  /-- SAVE (R321): Driver-requested save of one or all crews of a context. -/
  | save (a : MbArgs)
  /-- RESTORE (R327): Load a complete crew area onto a free slot. -/
  | restore (a : MbArgs)
  /-- BPOOL (R308): Give a context its backing pool. -/
  | bpool (a : MbArgs)
  /-- EVICT (R308): Write a saved context's pinned segments to backing. -/
  | evict (a : MbArgs)
  /-- SHARE (R308): Install a published run read-only in another context's Cabinet. -/
  | share (a : MbArgs)
  /-- QBIND (R308): Bind a launch queue to a context's Bureau. -/
  | qbind (a : MbArgs)
  /-- QUNBIND (R308): Unbind a drained launch queue. -/
  | qunbind (a : MbArgs)
  /-- NVMEQP (R334): Bind an NVMe queue pair to a context and core. -/
  | nvmeqp (a : MbArgs)
  /-- NVMEUNQP (R334): Drain and unbind an NVMe queue pair. -/
  | nvmeunqp (a : MbArgs)
  /-- NVMEERR (R334): Return a queue pair's last non-zero NVMe status. -/
  | nvmeerr (a : MbArgs)
  /-- CNTCFG (R342): Set the sweep period. -/
  | cntcfg (a : MbArgs)
  /-- CNTREAD (R343): Return a counter's COUNT, CARRY and TOTAL. -/
  | cntread (a : MbArgs)
  /-- CNTCLR (R343): Sweep and zero a counter. -/
  | cntclr (a : MbArgs)
  /-- CNTPROG (R343): Sweep and zero a counter then write its control word. -/
  | cntprog (a : MbArgs)
  /-- CNTDUMP (R344): Copy the last complete counter run to the host. -/
  | cntdump (a : MbArgs)
  /-- TRCCFG (R346): Configure a context's trace run. -/
  | trccfg (a : MbArgs)
  /-- DBGATTACH (R348): Attach the debugger to a context. -/
  | dbgattach (a : MbArgs)
  /-- BRKSET (R348): Set a breakpoint or watchpoint slot. -/
  | brkset (a : MbArgs)
  /-- STEP (R350): Restore a stopped crew and issue one instruction of one thread. -/
  | step (a : MbArgs)
  /-- DBGSTOP (R350): Stop a running or stepping crew. -/
  | dbgstop (a : MbArgs)
  /-- RPLCFG (R351): Set a context's replay log and mode. -/
  | rplcfg (a : MbArgs)
  /-- PWRREAD (R363): Return module power, cap and die temperatures. -/
  | pwrread (a : MbArgs)
  /-- PWRCAP (R363): Set the module power limit. -/
  | pwrcap (a : MbArgs)
  /-- RETIRE (R361): Driver retires a Phonelos port. -/
  | retire (a : MbArgs)
  /-- ACCESS_PERFORMED (R255): The accesses of a committed vector instruction, or of a held scalar store, perform at
  core scope and at their home. This releases their interlock entries and lets vdrain, fences and waiting interlock
  entries proceed. -/
  | accessPerformed (t : TRef)
  /-- SAVED_TASK_RESUME (R307): A task saved for a more urgent launch resumes on its own, on a free slot of its
  saved slot number, before any new launch of equal or less urgent priority starts on its die. -/
  | savedTaskResume (ctx : BitVec 16) (area : Nat) (place : Place)
  /-- THROTTLE_END (R364): Module power falls to CAP or below and every die falls to 105 °C or below, so the power
  manager restores issue rates and clears THROT. -/
  | throttleEnd (watts : BitVec 16) (temps : BitVec 48)
  deriving DecidableEq, Repr

end Sys2Proof
end

