-- ==== Sys2Proof/WellFormed.lean ====
section
/-! DEFINITION. Which terms of the syntax are instructions: the register codes each position accepts
(R44, R58, R132, R168, R199), the operand limits the word alone decides (R62, R97, R106, R109, R111,
R112, R184, R195) and the route patterns of R62. Whether a vector register lies within the configured
count and whether a ring may be named by the role (R25, R43) depends on the thread; the meanings check
that. -/

namespace Sys2Proof

/-- A scalar code 0-55. -/
def Opd.isS : Opd → Bool
  | .s _ => true
  | _ => false

/-- A scalar code 1-55, as a token, a handle output or a count register takes. -/
def Opd.isS1 : Opd → Bool
  | .s n => n.val != 0
  | _ => false

/-- A vector register. -/
def Opd.isV : Opd → Bool
  | .v _ => true
  | _ => false

/-- A vector register or a ring. -/
def Opd.isVR : Opd → Bool
  | .s _ => false
  | _ => true

/-- A vector register whose number is even. -/
def Opd.isVEven : Opd → Bool
  | .v n => n.val % 2 == 0
  | _ => false

/-- A scalar interval iv0-iv31 (R44: codes 0-31). -/
def Opd.isIv : Opd → Bool
  | .s n => n.val < 32
  | _ => false

/-- A predicate p0-p7 (R44). -/
def Opd.isP : Opd → Bool
  | .s n => n.val < 8
  | _ => false

/-- A block of `k` scalar registers from this code that does not pass s55 (R132). -/
def Opd.isBlock (k : Nat) : Opd → Bool
  | .s n => n.val + k ≤ 56
  | _ => false

/-- A float type of the T layout. -/
def ElemTy.isFloat : ElemTy → Bool
  | .bf16 | .f16 | .f32 | .f64 => true
  | _ => false

/-- R62: every leg after a null leg or a relay leg is null. -/
def Route.wf (r : Route) : Bool :=
  match r.leg0, r.leg1, r.leg2 with
  | .hop _ _, .hop _ _, _ => true
  | .hop _ _, _, .null => true
  | .null, .null, .null => true
  | .relay, .null, .null => true
  | _, _, _ => false

/-- R186: a B group's base is a multiple of 8 for every format but cb2. -/
def mmaBaseOk (b : Opd) (f : MmaTy) : Bool :=
  match b with
  | .v n => f == .cb2 || n.val % 8 == 0
  | _ => false

/-- Rows whose three fields are all scalar registers. -/
def wf3 (d a b : Opd) : Bool := d.isS && a.isS && b.isS

/-- Element-wise vector rows: destination, source, source or broadcast scalar (R58). -/
def wfV (d a : Opd) : Bool := d.isVR && a.isVR

/-- Whether the term is an instruction of R61 with operands its positions accept. -/
def Instr.wf : Instr → Bool
  | .add d a b => wf3 d a b
  | .sub d a b => wf3 d a b
  | .and d a b => wf3 d a b
  | .or d a b => wf3 d a b
  | .xor d a b => wf3 d a b
  | .andn d a b => wf3 d a b
  | .sll d a b => wf3 d a b
  | .srl d a b => wf3 d a b
  | .sra d a b => wf3 d a b
  | .rol d a b => wf3 d a b
  | .ror d a b => wf3 d a b
  | .min d a b => wf3 d a b
  | .max d a b => wf3 d a b
  | .minu d a b => wf3 d a b
  | .maxu d a b => wf3 d a b
  | .sel d a b => wf3 d a b
  | .mul d a b => wf3 d a b
  | .mulh d a b => wf3 d a b
  | .mulhu d a b => wf3 d a b
  | .div d a b => wf3 d a b
  | .divu d a b => wf3 d a b
  | .rem d a b => wf3 d a b
  | .remu d a b => wf3 d a b
  | .clz d a => d.isS && a.isS
  | .ctz d a => d.isS && a.isS
  | .popc d a => d.isS && a.isS
  | .seq d a b => wf3 d a b
  | .slt d a b => wf3 d a b
  | .sltu d a b => wf3 d a b
  | .sle d a b => wf3 d a b
  | .sleu d a b => wf3 d a b
  | .addImm d a _ => d.isS && a.isS
  | .andImm d a _ => d.isS && a.isS
  | .orImm d a _ => d.isS && a.isS
  | .xorImm d a _ => d.isS && a.isS
  | .sllImm d a _ => d.isS && a.isS
  | .srlImm d a _ => d.isS && a.isS
  | .sraImm d a _ => d.isS && a.isS
  | .rolImm d a _ => d.isS && a.isS
  | .sltImm d a _ => d.isS && a.isS
  | .sltuImm d a _ => d.isS && a.isS
  | .limm d _ => d.isS
  | .lhi d _ => d.isS
  | .faddF64 d a b => wf3 d a b
  | .fsubF64 d a b => wf3 d a b
  | .fmulF64 d a b => wf3 d a b
  | .fdivF64 d a b => wf3 d a b
  | .fminF64 d a b => wf3 d a b
  | .fmaxF64 d a b => wf3 d a b
  | .fsqrtF64 d a => d.isS && a.isS
  | .fclassF64 d a => d.isS && a.isS
  | .ffmaF64 d a b => wf3 d a b
  | .faddF32 d a b => wf3 d a b
  | .fsubF32 d a b => wf3 d a b
  | .fmulF32 d a b => wf3 d a b
  | .fdivF32 d a b => wf3 d a b
  | .fminF32 d a b => wf3 d a b
  | .fmaxF32 d a b => wf3 d a b
  | .fsqrtF32 d a => d.isS && a.isS
  | .fclassF32 d a => d.isS && a.isS
  | .ffmaF32 d a b => wf3 d a b
  | .fcmpEq d a b _ => wf3 d a b
  | .fcmpLt d a b _ => wf3 d a b
  | .fcmpLe d a b _ => wf3 d a b
  | .fcmpUnord d a b _ => wf3 d a b
  | .fcvtF64F32 d a => d.isS && a.isS
  | .fcvtF32F64 d a => d.isS && a.isS
  | .fcvtF64I64 d a => d.isS && a.isS
  | .fcvtF64B64 d a => d.isS && a.isS
  | .fcvtF32I64 d a => d.isS && a.isS
  | .fcvtF32B64 d a => d.isS && a.isS
  | .fcvtI64F64 d a => d.isS && a.isS
  | .fcvtB64F64 d a => d.isS && a.isS
  | .fcvtI64F32 d a => d.isS && a.isS
  | .fcvtB64F32 d a => d.isS && a.isS
  | .beq r a _ => decide (r.toNat < 56) && a.isS
  | .bne r a _ => decide (r.toNat < 56) && a.isS
  | .blt r a _ => decide (r.toNat < 56) && a.isS
  | .bge r a _ => decide (r.toNat < 56) && a.isS
  | .bltu r a _ => decide (r.toNat < 56) && a.isS
  | .bgeu r a _ => decide (r.toNat < 56) && a.isS
  | .strip c p n _ => c.isS1 && p.isBlock (n.toNat + 1) && (p.isS1 || n == 0#2)
  | .bpT _ _ => true
  | .bpF _ _ => true
  | .bpU _ _ => true
  | .call d _ => d.isS
  | .jr d a => d.isS && a.isS
  | .crd d b => d.isS && decide (b.toNat < 21)
  | .cwr a b => a.isS && decide (b.toNat < 21)
  | .wbase d a => d.isS && a.isS && (match d with | .s k => decide (k.val < 16) | _ => false)
  | .trap a b => a.isS && decide (b.toNat < 56)
  | .eret => true
  | .yield => true
  | .halt => true
  | .setvl d a => d.isS && a.isS
  | .ld d a _ _ => d.isS && a.isS
  | .st d a _ _ => d.isS && a.isS
  | .amoAdd d a b _ => wf3 d a b
  | .amoAnd d a b _ => wf3 d a b
  | .amoOr d a b _ => wf3 d a b
  | .amoXor d a b _ => wf3 d a b
  | .amoMin d a b _ => wf3 d a b
  | .amoMax d a b _ => wf3 d a b
  | .amoSwap d a b _ => wf3 d a b
  | .cas d a b _ => wf3 d a b
  | .binc d a b => wf3 d a b
  | .fenceSv _ => true
  | .fenceVs _ => true
  | .fenceEe _ => true
  | .vdrain => true
  | .tfence _ => true
  | .waitc d a b => wf3 d a b
  | .gcsleepAny d a b => wf3 d a b
  | .gcsleepAll d a b => wf3 d a b
  | .bqpush a => a.isS
  | .bqpop d => d.isS
  | .vadd d a _ _ _ => wfV d a
  | .vsub d a _ _ _ => wfV d a
  | .vmul d a _ _ _ => wfV d a
  | .vfma d a _ _ _ => d.isV && a.isVR
  | .vmin d a _ _ _ => wfV d a
  | .vmax d a _ _ _ => wfV d a
  | .vdiv d a _ _ _ => wfV d a
  | .vabs d a _ _ => wfV d a
  | .vneg d a _ _ => wfV d a
  | .vsqrt d a _ t => wfV d a && t.isFloat
  | .vcmpeq d a _ _ _ => d.isV && a.isVR
  | .vcmplt d a _ _ _ => d.isV && a.isVR
  | .vcmple d a _ _ _ => d.isV && a.isVR
  | .vand d a _ _ => wfV d a
  | .vor d a _ _ => wfV d a
  | .vxor d a _ _ => wfV d a
  | .vandn d a _ _ => wfV d a
  | .vsll d a _ _ => wfV d a
  | .vsrl d a _ _ => wfV d a
  | .vsra d a _ _ => wfV d a
  | .vsel d a _ _ => wfV d a
  | .vminUnsigned d a _ _ => wfV d a
  | .vmaxUnsigned d a _ _ => wfV d a
  | .vcmpltUnsigned d a _ _ => d.isV && a.isVR
  | .vcmpleUnsigned d a _ _ => d.isV && a.isVR
  | .vdivUnsigned d a _ _ _ => wfV d a
  | .vcvt d a u _ _ t => wfV d a && (!u || !t.isFloat)
  | .vunpix d a _ _ => wfV d a
  | .vpkpix d a _ _ => wfV d a
  | .vsatn d a _ _ _ _ => wfV d a
  | .vmadd16 d a _ _ _ => d.isV && a.isVR
  | .vavg d a _ _ _ _ => wfV d a
  | .vredAdd d a _ _ => d.isS && a.isVR
  | .vredMax d a _ _ => d.isS && a.isVR
  | .vredMin d a _ _ => d.isS && a.isVR
  | .vredAnd d a _ t => d.isS && a.isVR && !t.isFloat
  | .vredOr d a _ t => d.isS && a.isVR && !t.isFloat
  | .vredMaxu d a _ t => d.isS && a.isVR && !t.isFloat
  | .vredMinu d a _ t => d.isS && a.isVR && !t.isFloat
  | .vscanAdd d a _ _ => wfV d a
  | .vscanMax d a _ _ => wfV d a
  | .vscanMin d a _ _ => wfV d a
  | .vscanAnd d a _ t => wfV d a && !t.isFloat
  | .vscanOr d a _ t => wfV d a && !t.isFloat
  | .vscanMaxu d a _ t => wfV d a && !t.isFloat
  | .vscanMinu d a _ t => wfV d a && !t.isFloat
  | .vcompress d a _ => d.isV && a.isVR
  | .vexpand d a _ => d.isV && a.isVR
  | .vslide d a b _ _ => wfV d a && b.isS
  | .vbcast d a _ _ => d.isVR && a.isS
  | .vidx d _ t => d.isVR && !t.isFloat
  | .vextr d a b _ => d.isS && a.isVR && b.isS
  | .vmpop d a => d.isS && a.isVR
  | .vmfirst d a => d.isS && a.isVR
  | .vtopk d a b _ _ => d.isVEven && a.isVR && b.isS
  | .vld d a b _ _ => d.isVR && a.isS && b.isS
  | .vst d a b _ _ => d.isVR && a.isS && b.isS
  | .vldff d a b _ _ => d.isVR && a.isS && b.isS
  | .vlds d a b _ _ => d.isVR && a.isS && b.isS
  | .vsts d a b _ _ => d.isVR && a.isS && b.isS
  | .vgaths d a b _ _ => d.isVR && a.isS && b.isV
  | .vscats d a b _ _ => d.isVR && a.isS && b.isV
  | .wbind d a b => wf3 d a b
  | .vdecb d a _ _ => d.isVR && a.isV
  | .cbload a => a.isV
  | .vsplit6 d a b _ => d.isV && a.isVR && b.isV && d != b
  | .vjoin6 d a b _ => d.isVR && a.isV && b.isV
  | .vprune d a _ _ => d.isVEven && a.isVR
  | .vcvtsToNarrow d a _ _ _ => wfV d a
  | .vcvtsFromNarrow d a _ _ _ => wfV d a
  | .mma _ _ a b f => a.isV && mmaBaseOk b f
  | .mmas _ _ a b f => a.isV && mmaBaseOk b f && f != .i8
  | .mzero _ => true
  | .mswap _ => true
  | .mrd _ _ a => a.isV
  | .mwr _ _ a => a.isV
  | .mcfg _ _ => true
  | .iadd d a b => d.isIv && a.isIv && b.isIv
  | .isub d a b => d.isIv && a.isIv && b.isIv
  | .imul d a b => d.isIv && a.isIv && b.isIv
  | .idiv d a b => d.isIv && a.isIv && b.isIv
  | .isqr d a => d.isIv && a.isIv
  | .isqrt d a => d.isIv && a.isIv
  | .ineg d a => d.isIv && a.isIv
  | .cadd d a b => d.isIv && a.isIv && b.isIv
  | .csub d a b => d.isIv && a.isIv && b.isIv
  | .cmul d a b => d.isIv && a.isIv && b.isIv
  | .cdiv d a b => d.isIv && a.isIv && b.isIv
  | .csqr d a => d.isIv && a.isIv
  | .csqrt d a => d.isIv && a.isIv
  | .iinter d a b => d.isIv && a.isIv && b.isIv
  | .ihull d a b => d.isIv && a.isIv && b.isIv
  | .isplit d a => d.isIv && a.isIv && d != a
  | .iwid d a => d.isS && a.isIv
  | .iclrp d => d.isS
  | .icmpLt d a b => d.isP && a.isIv && b.isIv
  | .icmpLe d a b => d.isP && a.isIv && b.isIv
  | .icmpSub d a b => d.isP && a.isIv && b.isIv
  | .icmpCz d a => d.isP && a.isIv
  | .iset d a b => d.isIv && a.isS && b.isS
  | .igetLo d a => d.isS && a.isIv
  | .igetHi d a => d.isS && a.isIv
  | .viadd d a b _ => d.isVEven && a.isVEven && (b.isVEven || b.isIv)
  | .visub d a b _ => d.isVEven && a.isVEven && (b.isVEven || b.isIv)
  | .vimul d a b _ => d.isVEven && a.isVEven && (b.isVEven || b.isIv)
  | .vcadd d a b _ => d.isVEven && a.isVEven && (b.isVEven || b.isIv)
  | .vcsub d a b _ => d.isVEven && a.isVEven && (b.isVEven || b.isIv)
  | .vcmul d a b _ => d.isVEven && a.isVEven && (b.isVEven || b.isIv)
  | .ropen d a b => d.isS1 && a.isS1 && b.isS
  | .ropenAcq d b => d.isS1 && b.isS
  | .rpub a => a.isS
  | .rclose a => a.isS
  | .rinfo d a => d.isBlock 4 && a.isS
  | .rsplice d a b => d.isS1 && a.isS && b.isBlock 2
  | .rtag d a b => d.isS1 && a.isS && b.isBlock 2
  | .rsortK d a b => d.isS1 && a.isS && b.isS
  | .rsortKt d a b => d.isS1 && a.isS && b.isS
  | .rmergeNone d a b => d.isS1 && a.isS1 && b.isS
  | .rmergeAdd d a b => d.isS1 && a.isS1 && b.isS
  | .rmergeWadd d a b => d.isS1 && a.isS1 && b.isS
  | .rmergeMin d a b => d.isS1 && a.isS1 && b.isS
  | .rmergeMax d a b => d.isS1 && a.isS1 && b.isS
  | .rmergeFirst d a b => d.isS1 && a.isS1 && b.isS
  | .rmergeLast d a b => d.isS1 && a.isS1 && b.isS
  | .rmergeUser d a b => d.isS1 && a.isS1 && b.isS
  | .rjoin d a b => d.isS1 && a.isS1 && b.isBlock 3
  | .rjoinDrop d a b => d.isS1 && a.isS1 && b.isBlock 3
  | .rsetIsect d a b => d.isS1 && a.isS1 && b.isBlock 2
  | .rsetUnion d a b => d.isS1 && a.isS1 && b.isBlock 2
  | .rsetDiff d a b => d.isS1 && a.isS1 && b.isBlock 2
  | .rpart d a b => d.isS1 && a.isS && b.isBlock 3
  | .rdedup d a b => d.isS1 && a.isS1 && b.isBlock 2
  | .rcount d a b => d.isS1 && a.isS1 && b.isS
  | .qopen d a b => d.isS && a.isS && b.isS
  | .qpush d a => d.isVR && a.isS
  | .qtake d a => d.isVR && a.isS
  | .qarm a b => a.isS && b.isBlock 3
  | .qdone a => a.isS
  | .qstat d a => d.isBlock 2 && a.isS
  | .tspawn d a b => d.isS && a.isS && b.isBlock 4
  | .tend a => a.isS
  | .fork d a b => d.isS1 && a.isS1 && b.isS1 && d != a && d != b && a != b
  | .join => true
  | .xsend r t => decide (0 < r.toNat) && decide (r.toNat ≤ 52) && t.wf
  | .xput r t => decide (0 < r.toNat) && decide (r.toNat ≤ 50) && t.wf
  | .cpy d a b => d.isS1 && a.isS && b.isBlock 3
  | .cpyd d a b => d.isS1 && a.isS && b.isBlock 3
  | .sread d a b => d.isS1 && a.isS && b.isBlock 3
  | .swrite d a b => d.isS1 && a.isS && b.isBlock 3
  | .bdecl d a b => d.isS && a.isS && b.isS
  | .bxform d a b => d.isS1 && a.isS && b.isBlock 3
  | .brelRel a => a.isS
  | .brelFree a => a.isS
  | .brelSeal a => a.isS
  | .rmark a b => a.isS && b.isS
  | .illegalInstruction _ => true
  | .vectorCommit _ => true
  | .runEnginePublish _ => true
  | .cpyComplete _ => true
  | .cpydComplete _ => true
  | .bxformComplete _ => true
  | .storageComplete _ _ _ => true
  | .xputDeliver _ => true
  | .xsendDeliver _ => true
  | .relayForward _ => true
  | .fabricTokenReturn _ _ => true
  | .qpushArrival _ => true
  | .queueMissServiced _ => true
  | .spillRefill _ => true
  | .settleAgeEligible _ => true
  | .settleClassPromotion _ => true
  | .settleFire _ => true
  | .taskDispatch _ _ => true
  | .taskBecomesOldest _ => true
  | .taskCommit _ => true
  | .waitcWake _ => true
  | .gcsleepWake _ => true
  | .hostWordPoll _ => true
  | .tailWrite _ _ => true
  | .qcfgWrite _ _ => true
  | .registerWrite _ _ => true
  | .launchPacketRead _ => true
  | .launchStart _ => true
  | .preemptDeadlineExpiry _ => true
  | .crewSave _ => true
  | .saveTimeout _ => true
  | .hangWatchdogExpiry _ => true
  | .breakpointStop _ => true
  | .stepComplete _ => true
  | .counterWrap _ _ _ => true
  | .counterSweep => true
  | .sramScrub _ => true
  | .dramPatrolScrub _ => true
  | .powerGood => true
  | .stage1Ready _ => true
  | .stage2Ready => true
  | .stage3Ready => true
  | .portTrained _ => true
  | .portTrainingTimeout _ => true
  | .flitReceive _ _ _ => true
  | .flitNak _ _ => true
  | .linkDown _ => true
  | .uncorrectedCodewordLimit _ => true
  | .powerThrottle _ _ => true
  | .thermalTrip _ => true
  | .thermalRecovery _ => true
  | .firmwareFault => true
  | .peerWindowAccess _ _ _ => true
  | .spdmRequest _ => true
  | .unknownOp _ _ => true
  | .resync _ => true
  | .fwload _ => true
  | .ctxnew _ => true
  | .ctxkill _ => true
  | .xlate _ => true
  | .keyload _ => true
  | .purge _ => true
  | .trapset _ => true
  | .save _ => true
  | .restore _ => true
  | .bpool _ => true
  | .evict _ => true
  | .share _ => true
  | .qbind _ => true
  | .qunbind _ => true
  | .nvmeqp _ => true
  | .nvmeunqp _ => true
  | .nvmeerr _ => true
  | .cntcfg _ => true
  | .cntread _ => true
  | .cntclr _ => true
  | .cntprog _ => true
  | .cntdump _ => true
  | .trccfg _ => true
  | .dbgattach _ => true
  | .brkset _ => true
  | .step _ => true
  | .dbgstop _ => true
  | .rplcfg _ => true
  | .pwrread _ => true
  | .pwrcap _ => true
  | .retire _ => true
  | .accessPerformed _ => true
  | .savedTaskResume _ _ _ => true
  | .throttleEnd _ _ => true

end Sys2Proof
end

