-- ==== Sys2Proof/Decode.lean ====
section
/-! DEFINITION. Decoding and encoding of instruction words (R56, R58, R60, R61, R62). Reserved bits,
selectors, types and route patterns that R61 does not list are refused by name; which register codes
a position accepts (R58) is `Instr.wf`, and a word whose codes its position does not accept is an
illegal instruction when it is run (R63). -/

namespace Sys2Proof

/-- Why a word is not an instruction (R63). -/
inductive DecodeError where
  /-- a major opcode R61 leaves unassigned -/
  | unassignedOpcode
  /-- an fn value or selector R61 does not list, or a non-zero reserved field -/
  | unassignedSelector
  /-- a type, width, scope, format, accumulator or route code R61 and R62 do not list -/
  | unassignedField
  /-- fewer than four bytes -/
  | short
  deriving DecidableEq, Repr

/-- R43: codes 0-55 are scalars, 56-63 rings, 64-127 vector registers. -/
def Opd.ofCode (c : BitVec 7) : Opd :=
  if h : c.toNat < 56 then .s ⟨c.toNat, h⟩
  else if h2 : c.toNat < 64 then .ring ⟨c.toNat - 56, by omega⟩
  else .v ⟨c.toNat - 64, by have := c.isLt; omega⟩

/-- The 7-bit code of a register (R43). -/
def Opd.code : Opd → BitVec 7
  | .s n => BitVec.ofNat 7 n.val
  | .ring k => BitVec.ofNat 7 (56 + k.val)
  | .v n => BitVec.ofNat 7 (64 + n.val)

/-- One bit read as a flag. -/
def flagOfCode (c : BitVec 1) : Bool := c == 1#1

/-- A flag as one bit. -/
def flagCode (f : Bool) : BitVec 1 := if f then 1#1 else 0#1

/-- R60: the T layout's type codes. -/
def ElemTy.ofCode (c : BitVec 3) : ElemTy :=
  match c.toNat with
  | 0 => .i8 | 1 => .i16 | 2 => .i32 | 3 => .i64 | 4 => .bf16 | 5 => .f16 | 6 => .f32 | _ => .f64

/-- The T layout's code of a type. -/
def ElemTy.code : ElemTy → BitVec 3
  | .i8 => 0 | .i16 => 1 | .i32 => 2 | .i64 => 3 | .bf16 => 4 | .f16 => 5 | .f32 => 6 | .f64 => 7

/-- R60: width codes 0-3. -/
def Width.ofCode (c : BitVec 2) : Width :=
  match c.toNat with
  | 0 => .w8 | 1 => .w16 | 2 => .w32 | _ => .w64

/-- The code of a width. -/
def Width.code : Width → BitVec 2
  | .w8 => 0 | .w16 => 1 | .w32 => 2 | .w64 => 3

/-- R110: vsatn has no width of 64. -/
def satWidthOfCode (c : BitVec 2) : Option Width :=
  match c.toNat with
  | 0 => some .w8 | 1 => some .w16 | 2 => some .w32 | _ => none

/-- R110: the widths of vavg. -/
def AvgWidth.ofCode (c : BitVec 1) : AvgWidth := if c = 1#1 then .w16 else .w8

/-- The code of a vavg width. -/
def AvgWidth.code : AvgWidth → BitVec 1
  | .w8 => 0 | .w16 => 1

/-- R91: fn[3] is 0 for f64 and 1 for f32. -/
def FpTy.ofCode (c : BitVec 1) : FpTy := if c = 1#1 then .f32 else .f64

/-- The code of a scalar float type. -/
def FpTy.code : FpTy → BitVec 1
  | .f64 => 0 | .f32 => 1

/-- R109: 0-7 as the T layout, 8-11 for b8-b64; 12-15 are unassigned. -/
def CvtSrc.ofCode (c : BitVec 4) : Option CvtSrc :=
  if c.extractLsb' 3 1 = 0#1 then some (.el (ElemTy.ofCode (c.extractLsb' 0 3)))
  else if c.extractLsb' 2 1 = 0#1 then some (.un (Width.ofCode (c.extractLsb' 0 2)))
  else none

/-- The code of a vcvt source type. -/
def CvtSrc.code : CvtSrc → BitVec 4
  | .el t => 0#1 ++ t.code
  | .un w => 2#2 ++ w.code

/-- R192, R196: the wide types are codes 4, 5 and 6. -/
def WideTy.ofCode (c : BitVec 3) : Option WideTy :=
  match c.toNat with
  | 4 => some .bf16 | 5 => some .f16 | 6 => some .f32 | _ => none

/-- The code of a wide type. -/
def WideTy.code : WideTy → BitVec 3
  | .bf16 => 4 | .f16 => 5 | .f32 => 6

/-- R196: selectors 0-4 name the narrow formats. -/
def NarrowFmt.ofCode (c : BitVec 3) : Option NarrowFmt :=
  match c.toNat with
  | 0 => some .e4m3 | 1 => some .e5m2 | 2 => some .e2m3 | 3 => some .e3m2 | 4 => some .e2m1
  | _ => none

/-- The selector of a narrow format. -/
def NarrowFmt.code : NarrowFmt → BitVec 3
  | .e4m3 => 0 | .e5m2 => 1 | .e2m3 => 2 | .e3m2 => 3 | .e2m1 => 4

/-- R194: fn[0] is 0 for e2m3 and 1 for e3m2. -/
def SixFmt.ofCode (c : BitVec 1) : SixFmt := if c = 1#1 then .e3m2 else .e2m3

/-- The code of a six-bit format. -/
def SixFmt.code : SixFmt → BitVec 1
  | .e2m3 => 0 | .e3m2 => 1

/-- R110: fn[0] is 0 for p10 and 1 for p12. -/
def PixFmt.ofCode (c : BitVec 1) : PixFmt := if c = 1#1 then .p12 else .p10

/-- The code of a pixel format. -/
def PixFmt.code : PixFmt → BitVec 1
  | .p10 => 0 | .p12 => 1

/-- R61: pruning patterns 0-7; 8-15 are unassigned. -/
def PrunePat.ofCode (c : BitVec 4) : Option PrunePat :=
  match c.toNat with
  | 0 => some .p1of2 | 1 => some .p2of4 | 2 => some .p4of8 | 3 => some .p1of4
  | 4 => some .p2of8 | 5 => some .p4of16 | 6 => some .p8of16 | 7 => some .prcfg | _ => none

/-- The selector of a pruning pattern. -/
def PrunePat.code : PrunePat → BitVec 4
  | .p1of2 => 0 | .p2of4 => 1 | .p4of8 => 2 | .p1of4 => 3
  | .p2of8 => 4 | .p4of16 => 5 | .p8of16 => 6 | .prcfg => 7

/-- R185: fn 0-8; 9-15 are unassigned. -/
def MmaTy.ofCode (c : BitVec 4) : Option MmaTy :=
  match c.toNat with
  | 0 => some .bf16 | 1 => some .f16 | 2 => some .e4m3 | 3 => some .e5m2 | 4 => some .i8
  | 5 => some .e2m3 | 6 => some .e3m2 | 7 => some .e2m1 | 8 => some .cb2 | _ => none

/-- The fn value of an operand format. -/
def MmaTy.code : MmaTy → BitVec 4
  | .bf16 => 0 | .f16 => 1 | .e4m3 => 2 | .e5m2 => 3 | .i8 => 4
  | .e2m3 => 5 | .e3m2 => 6 | .e2m1 => 7 | .cb2 => 8

/-- R61: fn[0] is 0 for f32 and 1 for i32. -/
def AccTy.ofCode (c : BitVec 1) : AccTy := if c = 1#1 then .i32 else .f32

/-- The code of an accumulator type. -/
def AccTy.code : AccTy → BitVec 1
  | .f32 => 0 | .i32 => 1

/-- R62: accumulator codes 4-7 are unassigned. -/
def accOfCode (c : BitVec 3) : Option (BitVec 2) :=
  if c.extractLsb' 2 1 = 0#1 then some (c.extractLsb' 0 2) else none

/-- R239: load sizes 0-6; 7 is unassigned. -/
def LdSize.ofCode (c : BitVec 3) : Option LdSize :=
  match c.toNat with
  | 0 => some .b | 1 => some .h | 2 => some .w | 3 => some .d | 4 => some .bu | 5 => some .hu
  | 6 => some .wu | _ => none

/-- The code of a load size. -/
def LdSize.code : LdSize → BitVec 3
  | .b => 0 | .h => 1 | .w => 2 | .d => 3 | .bu => 4 | .hu => 5 | .wu => 6

/-- R239: store sizes 0-3; 4-7 are unassigned. -/
def StSize.ofCode (c : BitVec 3) : Option StSize :=
  match c.toNat with
  | 0 => some .b | 1 => some .h | 2 => some .w | 3 => some .d | _ => none

/-- The code of a store size. -/
def StSize.code : StSize → BitVec 3
  | .b => 0 | .h => 1 | .w => 2 | .d => 3

/-- R241: size 0 is .w and 1 is .d. -/
def WordSize.ofCode (c : BitVec 1) : WordSize := if c = 1#1 then .d else .w

/-- The code of an atomic's size. -/
def WordSize.code : WordSize → BitVec 1
  | .w => 0 | .d => 1

/-- R247: scopes 0-5; 6-127 are unassigned. -/
def Scope.ofCode (c : BitVec 7) : Option Scope :=
  match c.toNat with
  | 0 => some .crew | 1 => some .core | 2 => some .octet | 3 => some .die | 4 => some .domain
  | 5 => some .system | _ => none

/-- The code of a scope. -/
def Scope.code : Scope → BitVec 7
  | .crew => 0 | .core => 1 | .octet => 2 | .die => 3 | .domain => 4 | .system => 5

/-- R62: one leg, dir[5:3] and hops[2:0]; directions 6 and 7 take hops 0 only. -/
def Leg.ofCode (c : BitVec 6) : Option Leg :=
  let dir := (c.extractLsb' 3 3).toNat
  let hops := c.extractLsb' 0 3
  if h : dir < 6 then some (.hop ⟨dir, h⟩ ⟨hops.toNat, hops.isLt⟩)
  else if hops = 0#3 then (if dir = 6 then some .null else some .relay)
  else none

/-- The six bits of a leg. -/
def Leg.code : Leg → BitVec 6
  | .hop dir n => BitVec.ofNat 3 dir.val ++ BitVec.ofNat 3 n.val
  | .null => 0x30#6
  | .relay => 0x38#6

/-- R62: the 18 turns bits; the legs after a null or a relay leg must be null. -/
def Route.ofCode (t : BitVec 18) : Option Route :=
  match Leg.ofCode (t.extractLsb' 12 6), Leg.ofCode (t.extractLsb' 6 6),
        Leg.ofCode (t.extractLsb' 0 6) with
  | some l0, some l1, some l2 =>
    let r : Route := { leg0 := l0, leg1 := l1, leg2 := l2 }
    if r.wf then some r else none
  | _, _, _ => none

/-- The 18 turns bits of a route. -/
def Route.code (r : Route) : BitVec 18 := r.leg0.code ++ r.leg1.code ++ r.leg2.code

/-- The integer, immediate and floating-point opcodes 0x01-0x13, as R61 assigns them. -/
def decodeScalar (w : BitVec 32) (op : Nat) : Except DecodeError Instr :=
  let d := w.extractLsb' 18 7
  let a := w.extractLsb' 11 7
  let b := w.extractLsb' 4 7
  let fn := w.extractLsb' 0 4
  let i11 := w.extractLsb' 0 11
  let i18 := w.extractLsb' 0 18
  match op with
  | 0x01 =>
    if fn = 0#4 then .ok (.add (Opd.ofCode d) (Opd.ofCode a) (Opd.ofCode b))
    else if fn = 1#4 then .ok (.sub (Opd.ofCode d) (Opd.ofCode a) (Opd.ofCode b))
    else if fn = 2#4 then .ok (.and (Opd.ofCode d) (Opd.ofCode a) (Opd.ofCode b))
    else if fn = 3#4 then .ok (.or (Opd.ofCode d) (Opd.ofCode a) (Opd.ofCode b))
    else if fn = 4#4 then .ok (.xor (Opd.ofCode d) (Opd.ofCode a) (Opd.ofCode b))
    else if fn = 5#4 then .ok (.andn (Opd.ofCode d) (Opd.ofCode a) (Opd.ofCode b))
    else if fn = 6#4 then .ok (.sll (Opd.ofCode d) (Opd.ofCode a) (Opd.ofCode b))
    else if fn = 7#4 then .ok (.srl (Opd.ofCode d) (Opd.ofCode a) (Opd.ofCode b))
    else if fn = 8#4 then .ok (.sra (Opd.ofCode d) (Opd.ofCode a) (Opd.ofCode b))
    else if fn = 9#4 then .ok (.rol (Opd.ofCode d) (Opd.ofCode a) (Opd.ofCode b))
    else if fn = 10#4 then .ok (.ror (Opd.ofCode d) (Opd.ofCode a) (Opd.ofCode b))
    else if fn = 11#4 then .ok (.min (Opd.ofCode d) (Opd.ofCode a) (Opd.ofCode b))
    else if fn = 12#4 then .ok (.max (Opd.ofCode d) (Opd.ofCode a) (Opd.ofCode b))
    else if fn = 13#4 then .ok (.minu (Opd.ofCode d) (Opd.ofCode a) (Opd.ofCode b))
    else if fn = 14#4 then .ok (.maxu (Opd.ofCode d) (Opd.ofCode a) (Opd.ofCode b))
    else if fn = 15#4 then .ok (.sel (Opd.ofCode d) (Opd.ofCode a) (Opd.ofCode b))
    else .error .unassignedSelector
  | 0x02 =>
    if fn = 0#4 then .ok (.mul (Opd.ofCode d) (Opd.ofCode a) (Opd.ofCode b))
    else if fn = 1#4 then .ok (.mulh (Opd.ofCode d) (Opd.ofCode a) (Opd.ofCode b))
    else if fn = 2#4 then .ok (.mulhu (Opd.ofCode d) (Opd.ofCode a) (Opd.ofCode b))
    else if fn = 3#4 then .ok (.div (Opd.ofCode d) (Opd.ofCode a) (Opd.ofCode b))
    else if fn = 4#4 then .ok (.divu (Opd.ofCode d) (Opd.ofCode a) (Opd.ofCode b))
    else if fn = 5#4 then .ok (.rem (Opd.ofCode d) (Opd.ofCode a) (Opd.ofCode b))
    else if fn = 6#4 then .ok (.remu (Opd.ofCode d) (Opd.ofCode a) (Opd.ofCode b))
    else .error .unassignedSelector
  | 0x03 =>
    if b = 0#7 ∧ fn = 0#4 then .ok (.clz (Opd.ofCode d) (Opd.ofCode a))
    else if b = 0#7 ∧ fn = 1#4 then .ok (.ctz (Opd.ofCode d) (Opd.ofCode a))
    else if b = 0#7 ∧ fn = 2#4 then .ok (.popc (Opd.ofCode d) (Opd.ofCode a))
    else if fn = 3#4 then .ok (.seq (Opd.ofCode d) (Opd.ofCode a) (Opd.ofCode b))
    else if fn = 4#4 then .ok (.slt (Opd.ofCode d) (Opd.ofCode a) (Opd.ofCode b))
    else if fn = 5#4 then .ok (.sltu (Opd.ofCode d) (Opd.ofCode a) (Opd.ofCode b))
    else if fn = 6#4 then .ok (.sle (Opd.ofCode d) (Opd.ofCode a) (Opd.ofCode b))
    else if fn = 7#4 then .ok (.sleu (Opd.ofCode d) (Opd.ofCode a) (Opd.ofCode b))
    else .error .unassignedSelector
  | 0x04 =>
    .ok (.addImm (Opd.ofCode d) (Opd.ofCode a) i11)
  | 0x05 =>
    .ok (.andImm (Opd.ofCode d) (Opd.ofCode a) i11)
  | 0x06 =>
    .ok (.orImm (Opd.ofCode d) (Opd.ofCode a) i11)
  | 0x07 =>
    .ok (.xorImm (Opd.ofCode d) (Opd.ofCode a) i11)
  | 0x08 =>
    if (i11.extractLsb' 6 5) = 0#5 then .ok (.sllImm (Opd.ofCode d) (Opd.ofCode a) (i11.extractLsb' 0 6))
    else .error .unassignedSelector
  | 0x09 =>
    if (i11.extractLsb' 6 5) = 0#5 then .ok (.srlImm (Opd.ofCode d) (Opd.ofCode a) (i11.extractLsb' 0 6))
    else .error .unassignedSelector
  | 0x0A =>
    if (i11.extractLsb' 6 5) = 0#5 then .ok (.sraImm (Opd.ofCode d) (Opd.ofCode a) (i11.extractLsb' 0 6))
    else .error .unassignedSelector
  | 0x0B =>
    if (i11.extractLsb' 6 5) = 0#5 then .ok (.rolImm (Opd.ofCode d) (Opd.ofCode a) (i11.extractLsb' 0 6))
    else .error .unassignedSelector
  | 0x0C =>
    .ok (.sltImm (Opd.ofCode d) (Opd.ofCode a) i11)
  | 0x0D =>
    .ok (.sltuImm (Opd.ofCode d) (Opd.ofCode a) i11)
  | 0x0E =>
    .ok (.limm (Opd.ofCode d) i18)
  | 0x0F =>
    .ok (.lhi (Opd.ofCode d) i18)
  | 0x10 =>
    if b = 0#7 ∧ fn = 6#4 then .ok (.fsqrtF64 (Opd.ofCode d) (Opd.ofCode a))
    else if b = 0#7 ∧ fn = 7#4 then .ok (.fclassF64 (Opd.ofCode d) (Opd.ofCode a))
    else if fn = 0#4 then .ok (.faddF64 (Opd.ofCode d) (Opd.ofCode a) (Opd.ofCode b))
    else if fn = 1#4 then .ok (.fsubF64 (Opd.ofCode d) (Opd.ofCode a) (Opd.ofCode b))
    else if fn = 2#4 then .ok (.fmulF64 (Opd.ofCode d) (Opd.ofCode a) (Opd.ofCode b))
    else if fn = 3#4 then .ok (.fdivF64 (Opd.ofCode d) (Opd.ofCode a) (Opd.ofCode b))
    else if fn = 4#4 then .ok (.fminF64 (Opd.ofCode d) (Opd.ofCode a) (Opd.ofCode b))
    else if fn = 5#4 then .ok (.fmaxF64 (Opd.ofCode d) (Opd.ofCode a) (Opd.ofCode b))
    else if fn = 8#4 then .ok (.ffmaF64 (Opd.ofCode d) (Opd.ofCode a) (Opd.ofCode b))
    else .error .unassignedSelector
  | 0x11 =>
    if b = 0#7 ∧ fn = 6#4 then .ok (.fsqrtF32 (Opd.ofCode d) (Opd.ofCode a))
    else if b = 0#7 ∧ fn = 7#4 then .ok (.fclassF32 (Opd.ofCode d) (Opd.ofCode a))
    else if fn = 0#4 then .ok (.faddF32 (Opd.ofCode d) (Opd.ofCode a) (Opd.ofCode b))
    else if fn = 1#4 then .ok (.fsubF32 (Opd.ofCode d) (Opd.ofCode a) (Opd.ofCode b))
    else if fn = 2#4 then .ok (.fmulF32 (Opd.ofCode d) (Opd.ofCode a) (Opd.ofCode b))
    else if fn = 3#4 then .ok (.fdivF32 (Opd.ofCode d) (Opd.ofCode a) (Opd.ofCode b))
    else if fn = 4#4 then .ok (.fminF32 (Opd.ofCode d) (Opd.ofCode a) (Opd.ofCode b))
    else if fn = 5#4 then .ok (.fmaxF32 (Opd.ofCode d) (Opd.ofCode a) (Opd.ofCode b))
    else if fn = 8#4 then .ok (.ffmaF32 (Opd.ofCode d) (Opd.ofCode a) (Opd.ofCode b))
    else .error .unassignedSelector
  | 0x12 =>
    if (fn.extractLsb' 0 3) = 0#3 then .ok (.fcmpEq (Opd.ofCode d) (Opd.ofCode a) (Opd.ofCode b) (FpTy.ofCode (fn.extractLsb' 3 1)))
    else if (fn.extractLsb' 0 3) = 1#3 then .ok (.fcmpLt (Opd.ofCode d) (Opd.ofCode a) (Opd.ofCode b) (FpTy.ofCode (fn.extractLsb' 3 1)))
    else if (fn.extractLsb' 0 3) = 2#3 then .ok (.fcmpLe (Opd.ofCode d) (Opd.ofCode a) (Opd.ofCode b) (FpTy.ofCode (fn.extractLsb' 3 1)))
    else if (fn.extractLsb' 0 3) = 3#3 then .ok (.fcmpUnord (Opd.ofCode d) (Opd.ofCode a) (Opd.ofCode b) (FpTy.ofCode (fn.extractLsb' 3 1)))
    else .error .unassignedSelector
  | 0x13 =>
    if b = 0#7 ∧ fn = 0#4 then .ok (.fcvtF64F32 (Opd.ofCode d) (Opd.ofCode a))
    else if b = 0#7 ∧ fn = 1#4 then .ok (.fcvtF32F64 (Opd.ofCode d) (Opd.ofCode a))
    else if b = 0#7 ∧ fn = 2#4 then .ok (.fcvtF64I64 (Opd.ofCode d) (Opd.ofCode a))
    else if b = 0#7 ∧ fn = 3#4 then .ok (.fcvtF64B64 (Opd.ofCode d) (Opd.ofCode a))
    else if b = 0#7 ∧ fn = 4#4 then .ok (.fcvtF32I64 (Opd.ofCode d) (Opd.ofCode a))
    else if b = 0#7 ∧ fn = 5#4 then .ok (.fcvtF32B64 (Opd.ofCode d) (Opd.ofCode a))
    else if b = 0#7 ∧ fn = 6#4 then .ok (.fcvtI64F64 (Opd.ofCode d) (Opd.ofCode a))
    else if b = 0#7 ∧ fn = 7#4 then .ok (.fcvtB64F64 (Opd.ofCode d) (Opd.ofCode a))
    else if b = 0#7 ∧ fn = 8#4 then .ok (.fcvtI64F32 (Opd.ofCode d) (Opd.ofCode a))
    else if b = 0#7 ∧ fn = 9#4 then .ok (.fcvtB64F32 (Opd.ofCode d) (Opd.ofCode a))
    else .error .unassignedSelector
  | _ => .error .unassignedOpcode

/-- The branches, strip, calls and the system opcode 0x1F, as R61 assigns them. -/
def decodeControl (w : BitVec 32) (op : Nat) : Except DecodeError Instr :=
  let d := w.extractLsb' 18 7
  let a := w.extractLsb' 11 7
  let b := w.extractLsb' 4 7
  let fn := w.extractLsb' 0 4
  let i11 := w.extractLsb' 0 11
  let i18 := w.extractLsb' 0 18
  let np := w.extractLsb' 9 2
  let x9 := w.extractLsb' 0 9
  match op with
  | 0x18 =>
    if (d.extractLsb' 6 1) = 0#1 then .ok (.beq (d.extractLsb' 0 6) (Opd.ofCode a) i11)
    else if (d.extractLsb' 6 1) = 1#1 then .ok (.bne (d.extractLsb' 0 6) (Opd.ofCode a) i11)
    else .error .unassignedSelector
  | 0x19 =>
    if (d.extractLsb' 6 1) = 0#1 then .ok (.blt (d.extractLsb' 0 6) (Opd.ofCode a) i11)
    else if (d.extractLsb' 6 1) = 1#1 then .ok (.bge (d.extractLsb' 0 6) (Opd.ofCode a) i11)
    else .error .unassignedSelector
  | 0x1A =>
    if (d.extractLsb' 6 1) = 0#1 then .ok (.bltu (d.extractLsb' 0 6) (Opd.ofCode a) i11)
    else if (d.extractLsb' 6 1) = 1#1 then .ok (.bgeu (d.extractLsb' 0 6) (Opd.ofCode a) i11)
    else .error .unassignedSelector
  | 0x1C =>
    .ok (.strip (Opd.ofCode d) (Opd.ofCode a) np x9)
  | 0x1D =>
    if (d.extractLsb' 3 4) = 0#4 then .ok (.bpT (d.extractLsb' 0 3) i18)
    else if (d.extractLsb' 3 4) = 1#4 then .ok (.bpF (d.extractLsb' 0 3) i18)
    else if (d.extractLsb' 3 4) = 2#4 then .ok (.bpU (d.extractLsb' 0 3) i18)
    else .error .unassignedSelector
  | 0x1E =>
    .ok (.call (Opd.ofCode d) i18)
  | 0x1F =>
    if d = 0#7 ∧ a = 0#7 ∧ b = 0#7 ∧ fn = 5#4 then .ok .eret
    else if d = 0#7 ∧ a = 0#7 ∧ b = 0#7 ∧ fn = 6#4 then .ok .yield
    else if d = 0#7 ∧ a = 0#7 ∧ b = 0#7 ∧ fn = 7#4 then .ok .halt
    else if b = 0#7 ∧ fn = 0#4 then .ok (.jr (Opd.ofCode d) (Opd.ofCode a))
    else if a = 0#7 ∧ fn = 1#4 then .ok (.crd (Opd.ofCode d) b)
    else if d = 0#7 ∧ fn = 2#4 then .ok (.cwr (Opd.ofCode a) b)
    else if b = 0#7 ∧ fn = 3#4 then .ok (.wbase (Opd.ofCode d) (Opd.ofCode a))
    else if d = 0#7 ∧ fn = 4#4 then .ok (.trap (Opd.ofCode a) b)
    else if b = 0#7 ∧ fn = 8#4 then .ok (.setvl (Opd.ofCode d) (Opd.ofCode a))
    else .error .unassignedSelector
  | _ => .error .unassignedOpcode

/-- Scalar memory, atomics, fences, waits and bq (0x20-0x2E), as R61 assigns them. -/
def decodeMemory (w : BitVec 32) (op : Nat) : Except DecodeError Instr :=
  let d := w.extractLsb' 18 7
  let a := w.extractLsb' 11 7
  let b := w.extractLsb' 4 7
  let fn := w.extractLsb' 0 4
  let i11 := w.extractLsb' 0 11
  match op with
  | 0x20 =>
    match LdSize.ofCode (i11.extractLsb' 0 3) with
      | some x_s => .ok (.ld (Opd.ofCode d) (Opd.ofCode a) (i11.extractLsb' 3 8) x_s)
      | none => .error .unassignedField
  | 0x21 =>
    match StSize.ofCode (i11.extractLsb' 0 3) with
      | some x_s => .ok (.st (Opd.ofCode d) (Opd.ofCode a) (i11.extractLsb' 3 8) x_s)
      | none => .error .unassignedField
  | 0x22 =>
    if (fn.extractLsb' 0 3) = 0#3 then .ok (.amoAdd (Opd.ofCode d) (Opd.ofCode a) (Opd.ofCode b) (WordSize.ofCode (fn.extractLsb' 3 1)))
    else if (fn.extractLsb' 0 3) = 1#3 then .ok (.amoAnd (Opd.ofCode d) (Opd.ofCode a) (Opd.ofCode b) (WordSize.ofCode (fn.extractLsb' 3 1)))
    else if (fn.extractLsb' 0 3) = 2#3 then .ok (.amoOr (Opd.ofCode d) (Opd.ofCode a) (Opd.ofCode b) (WordSize.ofCode (fn.extractLsb' 3 1)))
    else if (fn.extractLsb' 0 3) = 3#3 then .ok (.amoXor (Opd.ofCode d) (Opd.ofCode a) (Opd.ofCode b) (WordSize.ofCode (fn.extractLsb' 3 1)))
    else if (fn.extractLsb' 0 3) = 4#3 then .ok (.amoMin (Opd.ofCode d) (Opd.ofCode a) (Opd.ofCode b) (WordSize.ofCode (fn.extractLsb' 3 1)))
    else if (fn.extractLsb' 0 3) = 5#3 then .ok (.amoMax (Opd.ofCode d) (Opd.ofCode a) (Opd.ofCode b) (WordSize.ofCode (fn.extractLsb' 3 1)))
    else if (fn.extractLsb' 0 3) = 6#3 then .ok (.amoSwap (Opd.ofCode d) (Opd.ofCode a) (Opd.ofCode b) (WordSize.ofCode (fn.extractLsb' 3 1)))
    else .error .unassignedSelector
  | 0x23 =>
    if (fn.extractLsb' 1 3) = 0#3 then .ok (.cas (Opd.ofCode d) (Opd.ofCode a) (Opd.ofCode b) (WordSize.ofCode (fn.extractLsb' 0 1)))
    else .error .unassignedSelector
  | 0x24 =>
    if fn = 0#4 then .ok (.binc (Opd.ofCode d) (Opd.ofCode a) (Opd.ofCode b))
    else .error .unassignedSelector
  | 0x28 =>
    if d = 0#7 ∧ a = 0#7 ∧ fn = 0#4 then (match Scope.ofCode b with
      | some x_s => .ok (.fenceSv x_s)
      | none => .error .unassignedField)
    else if d = 0#7 ∧ a = 0#7 ∧ fn = 1#4 then (match Scope.ofCode b with
      | some x_s => .ok (.fenceVs x_s)
      | none => .error .unassignedField)
    else if d = 0#7 ∧ a = 0#7 ∧ fn = 2#4 then (match Scope.ofCode b with
      | some x_s => .ok (.fenceEe x_s)
      | none => .error .unassignedField)
    else .error .unassignedSelector
  | 0x29 =>
    if d = 0#7 ∧ a = 0#7 ∧ b = 0#7 ∧ fn = 0#4 then .ok .vdrain
    else .error .unassignedSelector
  | 0x2A =>
    if d = 0#7 ∧ a = 0#7 ∧ fn = 0#4 then (match Scope.ofCode b with
      | some x_s => .ok (.tfence x_s)
      | none => .error .unassignedField)
    else .error .unassignedSelector
  | 0x2B =>
    if fn = 0#4 then .ok (.waitc (Opd.ofCode d) (Opd.ofCode a) (Opd.ofCode b))
    else .error .unassignedSelector
  | 0x2C =>
    if fn = 0#4 then .ok (.gcsleepAny (Opd.ofCode d) (Opd.ofCode a) (Opd.ofCode b))
    else if fn = 1#4 then .ok (.gcsleepAll (Opd.ofCode d) (Opd.ofCode a) (Opd.ofCode b))
    else .error .unassignedSelector
  | 0x2D =>
    if d = 0#7 ∧ b = 0#7 ∧ fn = 0#4 then .ok (.bqpush (Opd.ofCode a))
    else .error .unassignedSelector
  | 0x2E =>
    if a = 0#7 ∧ b = 0#7 ∧ fn = 0#4 then .ok (.bqpop (Opd.ofCode d))
    else .error .unassignedSelector
  | _ => .error .unassignedOpcode

/-- Vector arithmetic, bitwise, convert and pixel opcodes (0x30-0x44), as R61 assigns them. -/
def decodeVector (w : BitVec 32) (op : Nat) : Except DecodeError Instr :=
  let d := w.extractLsb' 18 7
  let a := w.extractLsb' 11 7
  let b := w.extractLsb' 4 7
  let fn := w.extractLsb' 0 4
  match op with
  | 0x30 =>
    .ok (.vadd (Opd.ofCode d) (Opd.ofCode a) (Opd.ofCode b) (flagOfCode (fn.extractLsb' 3 1)) (ElemTy.ofCode (fn.extractLsb' 0 3)))
  | 0x31 =>
    .ok (.vsub (Opd.ofCode d) (Opd.ofCode a) (Opd.ofCode b) (flagOfCode (fn.extractLsb' 3 1)) (ElemTy.ofCode (fn.extractLsb' 0 3)))
  | 0x32 =>
    .ok (.vmul (Opd.ofCode d) (Opd.ofCode a) (Opd.ofCode b) (flagOfCode (fn.extractLsb' 3 1)) (ElemTy.ofCode (fn.extractLsb' 0 3)))
  | 0x33 =>
    .ok (.vfma (Opd.ofCode d) (Opd.ofCode a) (Opd.ofCode b) (flagOfCode (fn.extractLsb' 3 1)) (ElemTy.ofCode (fn.extractLsb' 0 3)))
  | 0x34 =>
    .ok (.vmin (Opd.ofCode d) (Opd.ofCode a) (Opd.ofCode b) (flagOfCode (fn.extractLsb' 3 1)) (ElemTy.ofCode (fn.extractLsb' 0 3)))
  | 0x35 =>
    .ok (.vmax (Opd.ofCode d) (Opd.ofCode a) (Opd.ofCode b) (flagOfCode (fn.extractLsb' 3 1)) (ElemTy.ofCode (fn.extractLsb' 0 3)))
  | 0x36 =>
    .ok (.vdiv (Opd.ofCode d) (Opd.ofCode a) (Opd.ofCode b) (flagOfCode (fn.extractLsb' 3 1)) (ElemTy.ofCode (fn.extractLsb' 0 3)))
  | 0x37 =>
    if b = 0#7 then .ok (.vabs (Opd.ofCode d) (Opd.ofCode a) (flagOfCode (fn.extractLsb' 3 1)) (ElemTy.ofCode (fn.extractLsb' 0 3)))
    else if b = 1#7 then .ok (.vneg (Opd.ofCode d) (Opd.ofCode a) (flagOfCode (fn.extractLsb' 3 1)) (ElemTy.ofCode (fn.extractLsb' 0 3)))
    else if b = 2#7 then .ok (.vsqrt (Opd.ofCode d) (Opd.ofCode a) (flagOfCode (fn.extractLsb' 3 1)) (ElemTy.ofCode (fn.extractLsb' 0 3)))
    else .error .unassignedSelector
  | 0x38 =>
    .ok (.vcmpeq (Opd.ofCode d) (Opd.ofCode a) (Opd.ofCode b) (flagOfCode (fn.extractLsb' 3 1)) (ElemTy.ofCode (fn.extractLsb' 0 3)))
  | 0x39 =>
    .ok (.vcmplt (Opd.ofCode d) (Opd.ofCode a) (Opd.ofCode b) (flagOfCode (fn.extractLsb' 3 1)) (ElemTy.ofCode (fn.extractLsb' 0 3)))
  | 0x3A =>
    .ok (.vcmple (Opd.ofCode d) (Opd.ofCode a) (Opd.ofCode b) (flagOfCode (fn.extractLsb' 3 1)) (ElemTy.ofCode (fn.extractLsb' 0 3)))
  | 0x3B =>
    if (fn.extractLsb' 2 2) = 0#2 then .ok (.vand (Opd.ofCode d) (Opd.ofCode a) (Opd.ofCode b) (Width.ofCode (fn.extractLsb' 0 2)))
    else if (fn.extractLsb' 2 2) = 1#2 then .ok (.vor (Opd.ofCode d) (Opd.ofCode a) (Opd.ofCode b) (Width.ofCode (fn.extractLsb' 0 2)))
    else if (fn.extractLsb' 2 2) = 2#2 then .ok (.vxor (Opd.ofCode d) (Opd.ofCode a) (Opd.ofCode b) (Width.ofCode (fn.extractLsb' 0 2)))
    else if (fn.extractLsb' 2 2) = 3#2 then .ok (.vandn (Opd.ofCode d) (Opd.ofCode a) (Opd.ofCode b) (Width.ofCode (fn.extractLsb' 0 2)))
    else .error .unassignedSelector
  | 0x3C =>
    if (fn.extractLsb' 2 2) = 0#2 then .ok (.vsll (Opd.ofCode d) (Opd.ofCode a) (Opd.ofCode b) (Width.ofCode (fn.extractLsb' 0 2)))
    else if (fn.extractLsb' 2 2) = 1#2 then .ok (.vsrl (Opd.ofCode d) (Opd.ofCode a) (Opd.ofCode b) (Width.ofCode (fn.extractLsb' 0 2)))
    else if (fn.extractLsb' 2 2) = 2#2 then .ok (.vsra (Opd.ofCode d) (Opd.ofCode a) (Opd.ofCode b) (Width.ofCode (fn.extractLsb' 0 2)))
    else if (fn.extractLsb' 2 2) = 3#2 then .ok (.vsel (Opd.ofCode d) (Opd.ofCode a) (Opd.ofCode b) (Width.ofCode (fn.extractLsb' 0 2)))
    else .error .unassignedSelector
  | 0x3D =>
    if (fn.extractLsb' 2 2) = 0#2 then .ok (.vminUnsigned (Opd.ofCode d) (Opd.ofCode a) (Opd.ofCode b) (Width.ofCode (fn.extractLsb' 0 2)))
    else if (fn.extractLsb' 2 2) = 1#2 then .ok (.vmaxUnsigned (Opd.ofCode d) (Opd.ofCode a) (Opd.ofCode b) (Width.ofCode (fn.extractLsb' 0 2)))
    else if (fn.extractLsb' 2 2) = 2#2 then .ok (.vcmpltUnsigned (Opd.ofCode d) (Opd.ofCode a) (Opd.ofCode b) (Width.ofCode (fn.extractLsb' 0 2)))
    else if (fn.extractLsb' 2 2) = 3#2 then .ok (.vcmpleUnsigned (Opd.ofCode d) (Opd.ofCode a) (Opd.ofCode b) (Width.ofCode (fn.extractLsb' 0 2)))
    else .error .unassignedSelector
  | 0x3E =>
    if (fn.extractLsb' 2 1) = 0#1 then .ok (.vdivUnsigned (Opd.ofCode d) (Opd.ofCode a) (Opd.ofCode b) (flagOfCode (fn.extractLsb' 3 1)) (Width.ofCode (fn.extractLsb' 0 2)))
    else .error .unassignedSelector
  | 0x3F =>
    if (b.extractLsb' 5 2) = 0#2 then (match CvtSrc.ofCode (b.extractLsb' 0 4) with
      | some x_s => .ok (.vcvt (Opd.ofCode d) (Opd.ofCode a) (flagOfCode (b.extractLsb' 4 1)) x_s (flagOfCode (fn.extractLsb' 3 1)) (ElemTy.ofCode (fn.extractLsb' 0 3)))
      | none => .error .unassignedField)
    else .error .unassignedSelector
  | 0x40 =>
    if b = 0#7 ∧ (fn.extractLsb' 1 2) = 0#2 then .ok (.vunpix (Opd.ofCode d) (Opd.ofCode a) (flagOfCode (fn.extractLsb' 3 1)) (PixFmt.ofCode (fn.extractLsb' 0 1)))
    else .error .unassignedSelector
  | 0x41 =>
    if b = 0#7 ∧ (fn.extractLsb' 1 2) = 0#2 then .ok (.vpkpix (Opd.ofCode d) (Opd.ofCode a) (flagOfCode (fn.extractLsb' 3 1)) (PixFmt.ofCode (fn.extractLsb' 0 1)))
    else .error .unassignedSelector
  | 0x42 =>
    match satWidthOfCode (fn.extractLsb' 0 2) with
      | some x_w => .ok (.vsatn (Opd.ofCode d) (Opd.ofCode a) (Opd.ofCode b) (flagOfCode (fn.extractLsb' 3 1)) (flagOfCode (fn.extractLsb' 2 1)) x_w)
      | none => .error .unassignedField
  | 0x43 =>
    if (fn.extractLsb' 0 2) = 1#2 then .ok (.vmadd16 (Opd.ofCode d) (Opd.ofCode a) (Opd.ofCode b) (flagOfCode (fn.extractLsb' 3 1)) (flagOfCode (fn.extractLsb' 2 1)))
    else .error .unassignedSelector
  | 0x44 =>
    if (fn.extractLsb' 1 1) = 0#1 then .ok (.vavg (Opd.ofCode d) (Opd.ofCode a) (Opd.ofCode b) (flagOfCode (fn.extractLsb' 3 1)) (flagOfCode (fn.extractLsb' 2 1)) (AvgWidth.ofCode (fn.extractLsb' 0 1)))
    else .error .unassignedSelector
  | _ => .error .unassignedOpcode

/-- Reductions, permutes and vector memory (0x48-0x57), as R61 assigns them. -/
def decodePermute (w : BitVec 32) (op : Nat) : Except DecodeError Instr :=
  let d := w.extractLsb' 18 7
  let a := w.extractLsb' 11 7
  let b := w.extractLsb' 4 7
  let fn := w.extractLsb' 0 4
  match op with
  | 0x48 =>
    if b = 0#7 then .ok (.vredAdd (Opd.ofCode d) (Opd.ofCode a) (flagOfCode (fn.extractLsb' 3 1)) (ElemTy.ofCode (fn.extractLsb' 0 3)))
    else if b = 1#7 then .ok (.vredMax (Opd.ofCode d) (Opd.ofCode a) (flagOfCode (fn.extractLsb' 3 1)) (ElemTy.ofCode (fn.extractLsb' 0 3)))
    else if b = 2#7 then .ok (.vredMin (Opd.ofCode d) (Opd.ofCode a) (flagOfCode (fn.extractLsb' 3 1)) (ElemTy.ofCode (fn.extractLsb' 0 3)))
    else if b = 3#7 then .ok (.vredAnd (Opd.ofCode d) (Opd.ofCode a) (flagOfCode (fn.extractLsb' 3 1)) (ElemTy.ofCode (fn.extractLsb' 0 3)))
    else if b = 4#7 then .ok (.vredOr (Opd.ofCode d) (Opd.ofCode a) (flagOfCode (fn.extractLsb' 3 1)) (ElemTy.ofCode (fn.extractLsb' 0 3)))
    else if b = 5#7 then .ok (.vredMaxu (Opd.ofCode d) (Opd.ofCode a) (flagOfCode (fn.extractLsb' 3 1)) (ElemTy.ofCode (fn.extractLsb' 0 3)))
    else if b = 6#7 then .ok (.vredMinu (Opd.ofCode d) (Opd.ofCode a) (flagOfCode (fn.extractLsb' 3 1)) (ElemTy.ofCode (fn.extractLsb' 0 3)))
    else .error .unassignedSelector
  | 0x49 =>
    if b = 0#7 then .ok (.vscanAdd (Opd.ofCode d) (Opd.ofCode a) (flagOfCode (fn.extractLsb' 3 1)) (ElemTy.ofCode (fn.extractLsb' 0 3)))
    else if b = 1#7 then .ok (.vscanMax (Opd.ofCode d) (Opd.ofCode a) (flagOfCode (fn.extractLsb' 3 1)) (ElemTy.ofCode (fn.extractLsb' 0 3)))
    else if b = 2#7 then .ok (.vscanMin (Opd.ofCode d) (Opd.ofCode a) (flagOfCode (fn.extractLsb' 3 1)) (ElemTy.ofCode (fn.extractLsb' 0 3)))
    else if b = 3#7 then .ok (.vscanAnd (Opd.ofCode d) (Opd.ofCode a) (flagOfCode (fn.extractLsb' 3 1)) (ElemTy.ofCode (fn.extractLsb' 0 3)))
    else if b = 4#7 then .ok (.vscanOr (Opd.ofCode d) (Opd.ofCode a) (flagOfCode (fn.extractLsb' 3 1)) (ElemTy.ofCode (fn.extractLsb' 0 3)))
    else if b = 5#7 then .ok (.vscanMaxu (Opd.ofCode d) (Opd.ofCode a) (flagOfCode (fn.extractLsb' 3 1)) (ElemTy.ofCode (fn.extractLsb' 0 3)))
    else if b = 6#7 then .ok (.vscanMinu (Opd.ofCode d) (Opd.ofCode a) (flagOfCode (fn.extractLsb' 3 1)) (ElemTy.ofCode (fn.extractLsb' 0 3)))
    else .error .unassignedSelector
  | 0x4A =>
    if b = 0#7 ∧ (fn.extractLsb' 3 1) = 0#1 then .ok (.vcompress (Opd.ofCode d) (Opd.ofCode a) (ElemTy.ofCode (fn.extractLsb' 0 3)))
    else if b = 1#7 ∧ (fn.extractLsb' 3 1) = 0#1 then .ok (.vexpand (Opd.ofCode d) (Opd.ofCode a) (ElemTy.ofCode (fn.extractLsb' 0 3)))
    else .error .unassignedSelector
  | 0x4B =>
    .ok (.vslide (Opd.ofCode d) (Opd.ofCode a) (Opd.ofCode b) (flagOfCode (fn.extractLsb' 3 1)) (ElemTy.ofCode (fn.extractLsb' 0 3)))
  | 0x4C =>
    if a = 0#7 ∧ b = 1#7 then .ok (.vidx (Opd.ofCode d) (flagOfCode (fn.extractLsb' 3 1)) (ElemTy.ofCode (fn.extractLsb' 0 3)))
    else if b = 0#7 then .ok (.vbcast (Opd.ofCode d) (Opd.ofCode a) (flagOfCode (fn.extractLsb' 3 1)) (ElemTy.ofCode (fn.extractLsb' 0 3)))
    else .error .unassignedSelector
  | 0x4D =>
    if (fn.extractLsb' 3 1) = 0#1 then .ok (.vextr (Opd.ofCode d) (Opd.ofCode a) (Opd.ofCode b) (ElemTy.ofCode (fn.extractLsb' 0 3)))
    else .error .unassignedSelector
  | 0x4E =>
    if b = 0#7 ∧ fn = 0#4 then .ok (.vmpop (Opd.ofCode d) (Opd.ofCode a))
    else if b = 1#7 ∧ fn = 0#4 then .ok (.vmfirst (Opd.ofCode d) (Opd.ofCode a))
    else .error .unassignedSelector
  | 0x4F =>
    .ok (.vtopk (Opd.ofCode d) (Opd.ofCode a) (Opd.ofCode b) (flagOfCode (fn.extractLsb' 3 1)) (ElemTy.ofCode (fn.extractLsb' 0 3)))
  | 0x50 =>
    .ok (.vld (Opd.ofCode d) (Opd.ofCode a) (Opd.ofCode b) (flagOfCode (fn.extractLsb' 3 1)) (ElemTy.ofCode (fn.extractLsb' 0 3)))
  | 0x51 =>
    .ok (.vst (Opd.ofCode d) (Opd.ofCode a) (Opd.ofCode b) (flagOfCode (fn.extractLsb' 3 1)) (ElemTy.ofCode (fn.extractLsb' 0 3)))
  | 0x52 =>
    .ok (.vldff (Opd.ofCode d) (Opd.ofCode a) (Opd.ofCode b) (flagOfCode (fn.extractLsb' 3 1)) (ElemTy.ofCode (fn.extractLsb' 0 3)))
  | 0x53 =>
    .ok (.vlds (Opd.ofCode d) (Opd.ofCode a) (Opd.ofCode b) (flagOfCode (fn.extractLsb' 3 1)) (ElemTy.ofCode (fn.extractLsb' 0 3)))
  | 0x54 =>
    .ok (.vsts (Opd.ofCode d) (Opd.ofCode a) (Opd.ofCode b) (flagOfCode (fn.extractLsb' 3 1)) (ElemTy.ofCode (fn.extractLsb' 0 3)))
  | 0x55 =>
    .ok (.vgaths (Opd.ofCode d) (Opd.ofCode a) (Opd.ofCode b) (flagOfCode (fn.extractLsb' 3 1)) (ElemTy.ofCode (fn.extractLsb' 0 3)))
  | 0x56 =>
    .ok (.vscats (Opd.ofCode d) (Opd.ofCode a) (Opd.ofCode b) (flagOfCode (fn.extractLsb' 3 1)) (ElemTy.ofCode (fn.extractLsb' 0 3)))
  | 0x57 =>
    if fn = 0#4 then .ok (.wbind (Opd.ofCode d) (Opd.ofCode a) (Opd.ofCode b))
    else .error .unassignedSelector
  | _ => .error .unassignedOpcode

/-- Narrow formats (0x58-0x5D), as R61 assigns them. -/
def decodeNarrow (w : BitVec 32) (op : Nat) : Except DecodeError Instr :=
  let d := w.extractLsb' 18 7
  let a := w.extractLsb' 11 7
  let b := w.extractLsb' 4 7
  let fn := w.extractLsb' 0 4
  match op with
  | 0x58 =>
    if b = 0#7 then (match WideTy.ofCode (fn.extractLsb' 0 3) with
      | some x_t => .ok (.vdecb (Opd.ofCode d) (Opd.ofCode a) (flagOfCode (fn.extractLsb' 3 1)) x_t)
      | none => .error .unassignedField)
    else .error .unassignedSelector
  | 0x59 =>
    if d = 0#7 ∧ b = 0#7 ∧ fn = 0#4 then .ok (.cbload (Opd.ofCode a))
    else .error .unassignedSelector
  | 0x5A =>
    if (fn.extractLsb' 1 3) = 0#3 then .ok (.vsplit6 (Opd.ofCode d) (Opd.ofCode a) (Opd.ofCode b) (SixFmt.ofCode (fn.extractLsb' 0 1)))
    else .error .unassignedSelector
  | 0x5B =>
    if (fn.extractLsb' 1 3) = 0#3 then .ok (.vjoin6 (Opd.ofCode d) (Opd.ofCode a) (Opd.ofCode b) (SixFmt.ofCode (fn.extractLsb' 0 1)))
    else .error .unassignedSelector
  | 0x5C =>
    if (b.extractLsb' 3 4) = 0#4 then (match PrunePat.ofCode fn with
      | some x_p => .ok (.vprune (Opd.ofCode d) (Opd.ofCode a) (ElemTy.ofCode (b.extractLsb' 0 3)) x_p)
      | none => .error .unassignedField)
    else .error .unassignedSelector
  | 0x5D =>
    if (b.extractLsb' 3 4) = 0#4 then (match NarrowFmt.ofCode (b.extractLsb' 0 3) with
      | some x_n => (match WideTy.ofCode (fn.extractLsb' 0 3) with
      | some x_t => .ok (.vcvtsToNarrow (Opd.ofCode d) (Opd.ofCode a) x_n (flagOfCode (fn.extractLsb' 3 1)) x_t)
      | none => .error .unassignedField)
      | none => .error .unassignedField)
    else if (b.extractLsb' 3 4) = 1#4 then (match NarrowFmt.ofCode (b.extractLsb' 0 3) with
      | some x_n => (match WideTy.ofCode (fn.extractLsb' 0 3) with
      | some x_t => .ok (.vcvtsFromNarrow (Opd.ofCode d) (Opd.ofCode a) x_n (flagOfCode (fn.extractLsb' 3 1)) x_t)
      | none => .error .unassignedField)
      | none => .error .unassignedField)
    else .error .unassignedSelector
  | _ => .error .unassignedOpcode

/-- The FM opcodes (0x60-0x66), as R61 assigns them. -/
def decodeMatrix (w : BitVec 32) (op : Nat) : Except DecodeError Instr :=
  let a := w.extractLsb' 11 7
  let b := w.extractLsb' 4 7
  let fn := w.extractLsb' 0 4
  let c := w.extractLsb' 22 3
  let g := w.extractLsb' 18 4
  match op with
  | 0x60 =>
    (match accOfCode c with
      | some x_c => (match MmaTy.ofCode fn with
      | some x_f => .ok (.mma x_c g (Opd.ofCode a) (Opd.ofCode b) x_f)
      | none => .error .unassignedField)
      | none => .error .unassignedField)
  | 0x61 =>
    (match accOfCode c with
      | some x_c => (match MmaTy.ofCode fn with
      | some x_f => .ok (.mmas x_c g (Opd.ofCode a) (Opd.ofCode b) x_f)
      | none => .error .unassignedField)
      | none => .error .unassignedField)
  | 0x62 =>
    if g = 0#4 ∧ a = 0#7 ∧ b = 0#7 ∧ fn = 0#4 then (match accOfCode c with
      | some x_c => .ok (.mzero x_c)
      | none => .error .unassignedField)
    else .error .unassignedSelector
  | 0x63 =>
    if g = 0#4 ∧ a = 0#7 ∧ b = 0#7 ∧ fn = 0#4 then (match accOfCode c with
      | some x_c => .ok (.mswap x_c)
      | none => .error .unassignedField)
    else .error .unassignedSelector
  | 0x64 =>
    if b = 0#7 ∧ fn = 0#4 then (match accOfCode c with
      | some x_c => .ok (.mrd x_c g (Opd.ofCode a))
      | none => .error .unassignedField)
    else .error .unassignedSelector
  | 0x65 =>
    if b = 0#7 ∧ fn = 0#4 then (match accOfCode c with
      | some x_c => .ok (.mwr x_c g (Opd.ofCode a))
      | none => .error .unassignedField)
    else .error .unassignedSelector
  | 0x66 =>
    if g = 0#4 ∧ a = 0#7 ∧ b = 0#7 ∧ (fn.extractLsb' 1 3) = 0#3 then (match accOfCode c with
      | some x_c => .ok (.mcfg x_c (AccTy.ofCode (fn.extractLsb' 0 1)))
      | none => .error .unassignedField)
    else .error .unassignedSelector
  | _ => .error .unassignedOpcode

/-- Intervals (0x68-0x71), as R61 assigns them. -/
def decodeInterval (w : BitVec 32) (op : Nat) : Except DecodeError Instr :=
  let d := w.extractLsb' 18 7
  let a := w.extractLsb' 11 7
  let b := w.extractLsb' 4 7
  let fn := w.extractLsb' 0 4
  match op with
  | 0x68 =>
    if b = 0#7 ∧ fn = 4#4 then .ok (.isqr (Opd.ofCode d) (Opd.ofCode a))
    else if b = 0#7 ∧ fn = 5#4 then .ok (.isqrt (Opd.ofCode d) (Opd.ofCode a))
    else if b = 0#7 ∧ fn = 6#4 then .ok (.ineg (Opd.ofCode d) (Opd.ofCode a))
    else if fn = 0#4 then .ok (.iadd (Opd.ofCode d) (Opd.ofCode a) (Opd.ofCode b))
    else if fn = 1#4 then .ok (.isub (Opd.ofCode d) (Opd.ofCode a) (Opd.ofCode b))
    else if fn = 2#4 then .ok (.imul (Opd.ofCode d) (Opd.ofCode a) (Opd.ofCode b))
    else if fn = 3#4 then .ok (.idiv (Opd.ofCode d) (Opd.ofCode a) (Opd.ofCode b))
    else .error .unassignedSelector
  | 0x69 =>
    if b = 0#7 ∧ fn = 4#4 then .ok (.csqr (Opd.ofCode d) (Opd.ofCode a))
    else if b = 0#7 ∧ fn = 5#4 then .ok (.csqrt (Opd.ofCode d) (Opd.ofCode a))
    else if fn = 0#4 then .ok (.cadd (Opd.ofCode d) (Opd.ofCode a) (Opd.ofCode b))
    else if fn = 1#4 then .ok (.csub (Opd.ofCode d) (Opd.ofCode a) (Opd.ofCode b))
    else if fn = 2#4 then .ok (.cmul (Opd.ofCode d) (Opd.ofCode a) (Opd.ofCode b))
    else if fn = 3#4 then .ok (.cdiv (Opd.ofCode d) (Opd.ofCode a) (Opd.ofCode b))
    else .error .unassignedSelector
  | 0x6A =>
    if a = 0#7 ∧ b = 0#7 ∧ fn = 4#4 then .ok (.iclrp (Opd.ofCode d))
    else if b = 0#7 ∧ fn = 2#4 then .ok (.isplit (Opd.ofCode d) (Opd.ofCode a))
    else if b = 0#7 ∧ fn = 3#4 then .ok (.iwid (Opd.ofCode d) (Opd.ofCode a))
    else if fn = 0#4 then .ok (.iinter (Opd.ofCode d) (Opd.ofCode a) (Opd.ofCode b))
    else if fn = 1#4 then .ok (.ihull (Opd.ofCode d) (Opd.ofCode a) (Opd.ofCode b))
    else .error .unassignedSelector
  | 0x6B =>
    if b = 0#7 ∧ fn = 3#4 then .ok (.icmpCz (Opd.ofCode d) (Opd.ofCode a))
    else if fn = 0#4 then .ok (.icmpLt (Opd.ofCode d) (Opd.ofCode a) (Opd.ofCode b))
    else if fn = 1#4 then .ok (.icmpLe (Opd.ofCode d) (Opd.ofCode a) (Opd.ofCode b))
    else if fn = 2#4 then .ok (.icmpSub (Opd.ofCode d) (Opd.ofCode a) (Opd.ofCode b))
    else .error .unassignedSelector
  | 0x6C =>
    if fn = 0#4 then .ok (.iset (Opd.ofCode d) (Opd.ofCode a) (Opd.ofCode b))
    else .error .unassignedSelector
  | 0x6D =>
    if b = 0#7 ∧ fn = 0#4 then .ok (.igetLo (Opd.ofCode d) (Opd.ofCode a))
    else if b = 0#7 ∧ fn = 1#4 then .ok (.igetHi (Opd.ofCode d) (Opd.ofCode a))
    else .error .unassignedSelector
  | 0x70 =>
    if (fn.extractLsb' 0 3) = 0#3 then .ok (.viadd (Opd.ofCode d) (Opd.ofCode a) (Opd.ofCode b) (flagOfCode (fn.extractLsb' 3 1)))
    else if (fn.extractLsb' 0 3) = 1#3 then .ok (.visub (Opd.ofCode d) (Opd.ofCode a) (Opd.ofCode b) (flagOfCode (fn.extractLsb' 3 1)))
    else if (fn.extractLsb' 0 3) = 2#3 then .ok (.vimul (Opd.ofCode d) (Opd.ofCode a) (Opd.ofCode b) (flagOfCode (fn.extractLsb' 3 1)))
    else .error .unassignedSelector
  | 0x71 =>
    if (fn.extractLsb' 0 3) = 0#3 then .ok (.vcadd (Opd.ofCode d) (Opd.ofCode a) (Opd.ofCode b) (flagOfCode (fn.extractLsb' 3 1)))
    else if (fn.extractLsb' 0 3) = 1#3 then .ok (.vcsub (Opd.ofCode d) (Opd.ofCode a) (Opd.ofCode b) (flagOfCode (fn.extractLsb' 3 1)))
    else if (fn.extractLsb' 0 3) = 2#3 then .ok (.vcmul (Opd.ofCode d) (Opd.ofCode a) (Opd.ofCode b) (flagOfCode (fn.extractLsb' 3 1)))
    else .error .unassignedSelector
  | _ => .error .unassignedOpcode

/-- Runs, merging, joining and sets (0x74-0x7B), as R61 assigns them. -/
noncomputable def decodeRun (w : BitVec 32) (op : Nat) : Except DecodeError Instr :=
  let d := w.extractLsb' 18 7
  let a := w.extractLsb' 11 7
  let b := w.extractLsb' 4 7
  let fn := w.extractLsb' 0 4
  match op with
  | 0x74 =>
    if d = 0#7 ∧ b = 0#7 ∧ fn = 1#4 then .ok (.rpub (Opd.ofCode a))
    else if d = 0#7 ∧ b = 0#7 ∧ fn = 2#4 then .ok (.rclose (Opd.ofCode a))
    else if a = 0#7 ∧ fn = 0#4 then .ok (.ropenAcq (Opd.ofCode d) (Opd.ofCode b))
    else if b = 0#7 ∧ fn = 3#4 then .ok (.rinfo (Opd.ofCode d) (Opd.ofCode a))
    else if fn = 0#4 then .ok (.ropen (Opd.ofCode d) (Opd.ofCode a) (Opd.ofCode b))
    else if fn = 4#4 then .ok (.rsplice (Opd.ofCode d) (Opd.ofCode a) (Opd.ofCode b))
    else .error .unassignedSelector
  | 0x75 =>
    if fn = 0#4 then .ok (.rtag (Opd.ofCode d) (Opd.ofCode a) (Opd.ofCode b))
    else .error .unassignedSelector
  | 0x76 =>
    if fn = 0#4 then .ok (.rsortK (Opd.ofCode d) (Opd.ofCode a) (Opd.ofCode b))
    else if fn = 1#4 then .ok (.rsortKt (Opd.ofCode d) (Opd.ofCode a) (Opd.ofCode b))
    else .error .unassignedSelector
  | 0x77 =>
    if fn = 0#4 then .ok (.rmergeNone (Opd.ofCode d) (Opd.ofCode a) (Opd.ofCode b))
    else if fn = 1#4 then .ok (.rmergeAdd (Opd.ofCode d) (Opd.ofCode a) (Opd.ofCode b))
    else if fn = 2#4 then .ok (.rmergeWadd (Opd.ofCode d) (Opd.ofCode a) (Opd.ofCode b))
    else if fn = 3#4 then .ok (.rmergeMin (Opd.ofCode d) (Opd.ofCode a) (Opd.ofCode b))
    else if fn = 4#4 then .ok (.rmergeMax (Opd.ofCode d) (Opd.ofCode a) (Opd.ofCode b))
    else if fn = 5#4 then .ok (.rmergeFirst (Opd.ofCode d) (Opd.ofCode a) (Opd.ofCode b))
    else if fn = 6#4 then .ok (.rmergeLast (Opd.ofCode d) (Opd.ofCode a) (Opd.ofCode b))
    else if fn = 7#4 then .ok (.rmergeUser (Opd.ofCode d) (Opd.ofCode a) (Opd.ofCode b))
    else .error .unassignedSelector
  | 0x78 =>
    if fn = 0#4 then .ok (.rjoin (Opd.ofCode d) (Opd.ofCode a) (Opd.ofCode b))
    else if fn = 1#4 then .ok (.rjoinDrop (Opd.ofCode d) (Opd.ofCode a) (Opd.ofCode b))
    else .error .unassignedSelector
  | 0x79 =>
    if fn = 0#4 then .ok (.rsetIsect (Opd.ofCode d) (Opd.ofCode a) (Opd.ofCode b))
    else if fn = 1#4 then .ok (.rsetUnion (Opd.ofCode d) (Opd.ofCode a) (Opd.ofCode b))
    else if fn = 2#4 then .ok (.rsetDiff (Opd.ofCode d) (Opd.ofCode a) (Opd.ofCode b))
    else .error .unassignedSelector
  | 0x7A =>
    if fn = 0#4 then .ok (.rpart (Opd.ofCode d) (Opd.ofCode a) (Opd.ofCode b))
    else .error .unassignedSelector
  | 0x7B =>
    if fn = 0#4 then .ok (.rdedup (Opd.ofCode d) (Opd.ofCode a) (Opd.ofCode b))
    else if fn = 1#4 then .ok (.rcount (Opd.ofCode d) (Opd.ofCode a) (Opd.ofCode b))
    else .error .unassignedSelector
  | _ => .error .unassignedOpcode

/-- Queues, tasks, fork and join (0x7C), as R61 assigns them. -/
noncomputable def decodeQueue (w : BitVec 32) (op : Nat) : Except DecodeError Instr :=
  let d := w.extractLsb' 18 7
  let a := w.extractLsb' 11 7
  let b := w.extractLsb' 4 7
  let fn := w.extractLsb' 0 4
  match op with
  | 0x7C =>
    if d = 0#7 ∧ a = 0#7 ∧ b = 0#7 ∧ fn = 9#4 then .ok .join
    else if d = 0#7 ∧ b = 0#7 ∧ fn = 4#4 then .ok (.qdone (Opd.ofCode a))
    else if d = 0#7 ∧ b = 0#7 ∧ fn = 7#4 then .ok (.tend (Opd.ofCode a))
    else if b = 0#7 ∧ fn = 1#4 then .ok (.qpush (Opd.ofCode d) (Opd.ofCode a))
    else if b = 0#7 ∧ fn = 2#4 then .ok (.qtake (Opd.ofCode d) (Opd.ofCode a))
    else if d = 0#7 ∧ fn = 3#4 then .ok (.qarm (Opd.ofCode a) (Opd.ofCode b))
    else if b = 0#7 ∧ fn = 5#4 then .ok (.qstat (Opd.ofCode d) (Opd.ofCode a))
    else if fn = 0#4 then .ok (.qopen (Opd.ofCode d) (Opd.ofCode a) (Opd.ofCode b))
    else if fn = 6#4 then .ok (.tspawn (Opd.ofCode d) (Opd.ofCode a) (Opd.ofCode b))
    else if fn = 8#4 then .ok (.fork (Opd.ofCode d) (Opd.ofCode a) (Opd.ofCode b))
    else .error .unassignedSelector
  | _ => .error .unassignedOpcode

/-- xsend and xput (0x7D), as R61 assigns them. -/
noncomputable def decodeFabric (w : BitVec 32) (op : Nat) : Except DecodeError Instr :=
  let d := w.extractLsb' 18 7
  let i18 := w.extractLsb' 0 18
  match op with
  | 0x7D =>
    if (d.extractLsb' 6 1) = 0#1 then (match Route.ofCode i18 with
      | some x_t => .ok (.xsend (d.extractLsb' 0 6) x_t)
      | none => .error .unassignedField)
    else if (d.extractLsb' 6 1) = 1#1 then (match Route.ofCode i18 with
      | some x_t => .ok (.xput (d.extractLsb' 0 6) x_t)
      | none => .error .unassignedField)
    else .error .unassignedSelector
  | _ => .error .unassignedOpcode

/-- Engines and buffers (0x7E), as R61 assigns them. -/
noncomputable def decodeEngine (w : BitVec 32) (op : Nat) : Except DecodeError Instr :=
  let d := w.extractLsb' 18 7
  let a := w.extractLsb' 11 7
  let b := w.extractLsb' 4 7
  let fn := w.extractLsb' 0 4
  match op with
  | 0x7E =>
    if d = 0#7 ∧ b = 0#7 ∧ fn = 6#4 then .ok (.brelRel (Opd.ofCode a))
    else if d = 0#7 ∧ b = 1#7 ∧ fn = 6#4 then .ok (.brelFree (Opd.ofCode a))
    else if d = 0#7 ∧ b = 2#7 ∧ fn = 6#4 then .ok (.brelSeal (Opd.ofCode a))
    else if d = 0#7 ∧ fn = 7#4 then .ok (.rmark (Opd.ofCode a) (Opd.ofCode b))
    else if fn = 0#4 then .ok (.cpy (Opd.ofCode d) (Opd.ofCode a) (Opd.ofCode b))
    else if fn = 1#4 then .ok (.cpyd (Opd.ofCode d) (Opd.ofCode a) (Opd.ofCode b))
    else if fn = 2#4 then .ok (.sread (Opd.ofCode d) (Opd.ofCode a) (Opd.ofCode b))
    else if fn = 3#4 then .ok (.swrite (Opd.ofCode d) (Opd.ofCode a) (Opd.ofCode b))
    else if fn = 4#4 then .ok (.bdecl (Opd.ofCode d) (Opd.ofCode a) (Opd.ofCode b))
    else if fn = 5#4 then .ok (.bxform (Opd.ofCode d) (Opd.ofCode a) (Opd.ofCode b))
    else .error .unassignedSelector
  | _ => .error .unassignedOpcode

/-- The instruction a 32-bit word stands for (R56, R61): the top seven bits choose the group. -/
noncomputable def decodeWord (w : BitVec 32) : Except DecodeError Instr :=
  let op := (w.extractLsb' 25 7).toNat
  if op < 0x18 then decodeScalar w op
  else if op < 0x20 then decodeControl w op
  else if op < 0x30 then decodeMemory w op
  else if op < 0x48 then decodeVector w op
  else if op < 0x58 then decodePermute w op
  else if op < 0x60 then decodeNarrow w op
  else if op < 0x68 then decodeMatrix w op
  else if op < 0x74 then decodeInterval w op
  else if op < 0x7C then decodeRun w op
  else if op < 0x7D then decodeQueue w op
  else if op < 0x7E then decodeFabric w op
  else decodeEngine w op

/-- A word from four bytes, lowest address first (R56: little-endian). -/
def wordOfBytes (b0 b1 b2 b3 : Byte) : BitVec 32 := b3 ++ b2 ++ b1 ++ b0

/-- Decode the first instruction of a byte list, and the bytes after it. -/
noncomputable def decode : List Byte → Except DecodeError (Instr × List Byte)
  | b0 :: b1 :: b2 :: b3 :: rest =>
    match decodeWord (wordOfBytes b0 b1 b2 b3) with
    | .ok i => .ok (i, rest)
    | .error e => .error e
  | _ => .error .short

/-- The four bytes of a word in memory order (R56). -/
def bytesOfWord (w : BitVec 32) : List Byte :=
  [w.extractLsb' 0 8, w.extractLsb' 8 8, w.extractLsb' 16 8, w.extractLsb' 24 8]

/-- The instruction the decoder reads from a word given as a number. Every instruction is one 32-bit
word, so `nbits` plays no part beyond naming the low bits that `w` gives. -/
noncomputable def decodeTableWord (nbits w : Nat) : Option Instr :=
  match decode (bytesOfWord (BitVec.ofNat 32 (w % 2 ^ nbits))) with
  | .ok (i, _) => some i
  | .error _ => none

/-- The word of an instruction, from the same encoding tables (R56, R61); a step that no word
encodes has none. -/
def encode : Instr → Option (BitVec 32)
  | .add d a b => some (1#7 ++ d.code ++ a.code ++ b.code ++ 0#4 : BitVec 32)
  | .sub d a b => some (1#7 ++ d.code ++ a.code ++ b.code ++ 1#4 : BitVec 32)
  | .and d a b => some (1#7 ++ d.code ++ a.code ++ b.code ++ 2#4 : BitVec 32)
  | .or d a b => some (1#7 ++ d.code ++ a.code ++ b.code ++ 3#4 : BitVec 32)
  | .xor d a b => some (1#7 ++ d.code ++ a.code ++ b.code ++ 4#4 : BitVec 32)
  | .andn d a b => some (1#7 ++ d.code ++ a.code ++ b.code ++ 5#4 : BitVec 32)
  | .sll d a b => some (1#7 ++ d.code ++ a.code ++ b.code ++ 6#4 : BitVec 32)
  | .srl d a b => some (1#7 ++ d.code ++ a.code ++ b.code ++ 7#4 : BitVec 32)
  | .sra d a b => some (1#7 ++ d.code ++ a.code ++ b.code ++ 8#4 : BitVec 32)
  | .rol d a b => some (1#7 ++ d.code ++ a.code ++ b.code ++ 9#4 : BitVec 32)
  | .ror d a b => some (1#7 ++ d.code ++ a.code ++ b.code ++ 10#4 : BitVec 32)
  | .min d a b => some (1#7 ++ d.code ++ a.code ++ b.code ++ 11#4 : BitVec 32)
  | .max d a b => some (1#7 ++ d.code ++ a.code ++ b.code ++ 12#4 : BitVec 32)
  | .minu d a b => some (1#7 ++ d.code ++ a.code ++ b.code ++ 13#4 : BitVec 32)
  | .maxu d a b => some (1#7 ++ d.code ++ a.code ++ b.code ++ 14#4 : BitVec 32)
  | .sel d a b => some (1#7 ++ d.code ++ a.code ++ b.code ++ 15#4 : BitVec 32)
  | .mul d a b => some (2#7 ++ d.code ++ a.code ++ b.code ++ 0#4 : BitVec 32)
  | .mulh d a b => some (2#7 ++ d.code ++ a.code ++ b.code ++ 1#4 : BitVec 32)
  | .mulhu d a b => some (2#7 ++ d.code ++ a.code ++ b.code ++ 2#4 : BitVec 32)
  | .div d a b => some (2#7 ++ d.code ++ a.code ++ b.code ++ 3#4 : BitVec 32)
  | .divu d a b => some (2#7 ++ d.code ++ a.code ++ b.code ++ 4#4 : BitVec 32)
  | .rem d a b => some (2#7 ++ d.code ++ a.code ++ b.code ++ 5#4 : BitVec 32)
  | .remu d a b => some (2#7 ++ d.code ++ a.code ++ b.code ++ 6#4 : BitVec 32)
  | .clz d a => some (3#7 ++ d.code ++ a.code ++ 0#11 : BitVec 32)
  | .ctz d a => some (3#7 ++ d.code ++ a.code ++ 1#11 : BitVec 32)
  | .popc d a => some (3#7 ++ d.code ++ a.code ++ 2#11 : BitVec 32)
  | .seq d a b => some (3#7 ++ d.code ++ a.code ++ b.code ++ 3#4 : BitVec 32)
  | .slt d a b => some (3#7 ++ d.code ++ a.code ++ b.code ++ 4#4 : BitVec 32)
  | .sltu d a b => some (3#7 ++ d.code ++ a.code ++ b.code ++ 5#4 : BitVec 32)
  | .sle d a b => some (3#7 ++ d.code ++ a.code ++ b.code ++ 6#4 : BitVec 32)
  | .sleu d a b => some (3#7 ++ d.code ++ a.code ++ b.code ++ 7#4 : BitVec 32)
  | .addImm d a i => some (4#7 ++ d.code ++ a.code ++ i : BitVec 32)
  | .andImm d a i => some (5#7 ++ d.code ++ a.code ++ i : BitVec 32)
  | .orImm d a i => some (6#7 ++ d.code ++ a.code ++ i : BitVec 32)
  | .xorImm d a i => some (7#7 ++ d.code ++ a.code ++ i : BitVec 32)
  | .sllImm d a s => some (8#7 ++ d.code ++ a.code ++ 0#5 ++ s : BitVec 32)
  | .srlImm d a s => some (9#7 ++ d.code ++ a.code ++ 0#5 ++ s : BitVec 32)
  | .sraImm d a s => some (10#7 ++ d.code ++ a.code ++ 0#5 ++ s : BitVec 32)
  | .rolImm d a s => some (11#7 ++ d.code ++ a.code ++ 0#5 ++ s : BitVec 32)
  | .sltImm d a i => some (12#7 ++ d.code ++ a.code ++ i : BitVec 32)
  | .sltuImm d a i => some (13#7 ++ d.code ++ a.code ++ i : BitVec 32)
  | .limm d i => some (14#7 ++ d.code ++ i : BitVec 32)
  | .lhi d i => some (15#7 ++ d.code ++ i : BitVec 32)
  | .faddF64 d a b => some (16#7 ++ d.code ++ a.code ++ b.code ++ 0#4 : BitVec 32)
  | .fsubF64 d a b => some (16#7 ++ d.code ++ a.code ++ b.code ++ 1#4 : BitVec 32)
  | .fmulF64 d a b => some (16#7 ++ d.code ++ a.code ++ b.code ++ 2#4 : BitVec 32)
  | .fdivF64 d a b => some (16#7 ++ d.code ++ a.code ++ b.code ++ 3#4 : BitVec 32)
  | .fminF64 d a b => some (16#7 ++ d.code ++ a.code ++ b.code ++ 4#4 : BitVec 32)
  | .fmaxF64 d a b => some (16#7 ++ d.code ++ a.code ++ b.code ++ 5#4 : BitVec 32)
  | .fsqrtF64 d a => some (16#7 ++ d.code ++ a.code ++ 6#11 : BitVec 32)
  | .fclassF64 d a => some (16#7 ++ d.code ++ a.code ++ 7#11 : BitVec 32)
  | .ffmaF64 d a b => some (16#7 ++ d.code ++ a.code ++ b.code ++ 8#4 : BitVec 32)
  | .faddF32 d a b => some (17#7 ++ d.code ++ a.code ++ b.code ++ 0#4 : BitVec 32)
  | .fsubF32 d a b => some (17#7 ++ d.code ++ a.code ++ b.code ++ 1#4 : BitVec 32)
  | .fmulF32 d a b => some (17#7 ++ d.code ++ a.code ++ b.code ++ 2#4 : BitVec 32)
  | .fdivF32 d a b => some (17#7 ++ d.code ++ a.code ++ b.code ++ 3#4 : BitVec 32)
  | .fminF32 d a b => some (17#7 ++ d.code ++ a.code ++ b.code ++ 4#4 : BitVec 32)
  | .fmaxF32 d a b => some (17#7 ++ d.code ++ a.code ++ b.code ++ 5#4 : BitVec 32)
  | .fsqrtF32 d a => some (17#7 ++ d.code ++ a.code ++ 6#11 : BitVec 32)
  | .fclassF32 d a => some (17#7 ++ d.code ++ a.code ++ 7#11 : BitVec 32)
  | .ffmaF32 d a b => some (17#7 ++ d.code ++ a.code ++ b.code ++ 8#4 : BitVec 32)
  | .fcmpEq d a b t => some (18#7 ++ d.code ++ a.code ++ b.code ++ t.code ++ 0#3 : BitVec 32)
  | .fcmpLt d a b t => some (18#7 ++ d.code ++ a.code ++ b.code ++ t.code ++ 1#3 : BitVec 32)
  | .fcmpLe d a b t => some (18#7 ++ d.code ++ a.code ++ b.code ++ t.code ++ 2#3 : BitVec 32)
  | .fcmpUnord d a b t => some (18#7 ++ d.code ++ a.code ++ b.code ++ t.code ++ 3#3 : BitVec 32)
  | .fcvtF64F32 d a => some (19#7 ++ d.code ++ a.code ++ 0#11 : BitVec 32)
  | .fcvtF32F64 d a => some (19#7 ++ d.code ++ a.code ++ 1#11 : BitVec 32)
  | .fcvtF64I64 d a => some (19#7 ++ d.code ++ a.code ++ 2#11 : BitVec 32)
  | .fcvtF64B64 d a => some (19#7 ++ d.code ++ a.code ++ 3#11 : BitVec 32)
  | .fcvtF32I64 d a => some (19#7 ++ d.code ++ a.code ++ 4#11 : BitVec 32)
  | .fcvtF32B64 d a => some (19#7 ++ d.code ++ a.code ++ 5#11 : BitVec 32)
  | .fcvtI64F64 d a => some (19#7 ++ d.code ++ a.code ++ 6#11 : BitVec 32)
  | .fcvtB64F64 d a => some (19#7 ++ d.code ++ a.code ++ 7#11 : BitVec 32)
  | .fcvtI64F32 d a => some (19#7 ++ d.code ++ a.code ++ 8#11 : BitVec 32)
  | .fcvtB64F32 d a => some (19#7 ++ d.code ++ a.code ++ 9#11 : BitVec 32)
  | .beq r a i => some (24#7 ++ 0#1 ++ r ++ a.code ++ i : BitVec 32)
  | .bne r a i => some (24#7 ++ 1#1 ++ r ++ a.code ++ i : BitVec 32)
  | .blt r a i => some (25#7 ++ 0#1 ++ r ++ a.code ++ i : BitVec 32)
  | .bge r a i => some (25#7 ++ 1#1 ++ r ++ a.code ++ i : BitVec 32)
  | .bltu r a i => some (26#7 ++ 0#1 ++ r ++ a.code ++ i : BitVec 32)
  | .bgeu r a i => some (26#7 ++ 1#1 ++ r ++ a.code ++ i : BitVec 32)
  | .strip c p n x => some (28#7 ++ c.code ++ p.code ++ n ++ x : BitVec 32)
  | .bpT p i => some (29#7 ++ 0#4 ++ p ++ i : BitVec 32)
  | .bpF p i => some (29#7 ++ 1#4 ++ p ++ i : BitVec 32)
  | .bpU p i => some (29#7 ++ 2#4 ++ p ++ i : BitVec 32)
  | .call d i => some (30#7 ++ d.code ++ i : BitVec 32)
  | .jr d a => some (31#7 ++ d.code ++ a.code ++ 0#11 : BitVec 32)
  | .crd d b => some (31#7 ++ d.code ++ 0#7 ++ b ++ 1#4 : BitVec 32)
  | .cwr a b => some (31#7 ++ 0#7 ++ a.code ++ b ++ 2#4 : BitVec 32)
  | .wbase d a => some (31#7 ++ d.code ++ a.code ++ 3#11 : BitVec 32)
  | .trap a b => some (31#7 ++ 0#7 ++ a.code ++ b ++ 4#4 : BitVec 32)
  | .eret => some (31#7 ++ 5#25 : BitVec 32)
  | .yield => some (31#7 ++ 6#25 : BitVec 32)
  | .halt => some (31#7 ++ 7#25 : BitVec 32)
  | .setvl d a => some (31#7 ++ d.code ++ a.code ++ 8#11 : BitVec 32)
  | .ld d a x s => some (32#7 ++ d.code ++ a.code ++ x ++ s.code : BitVec 32)
  | .st d a x s => some (33#7 ++ d.code ++ a.code ++ x ++ s.code : BitVec 32)
  | .amoAdd d a b z => some (34#7 ++ d.code ++ a.code ++ b.code ++ z.code ++ 0#3 : BitVec 32)
  | .amoAnd d a b z => some (34#7 ++ d.code ++ a.code ++ b.code ++ z.code ++ 1#3 : BitVec 32)
  | .amoOr d a b z => some (34#7 ++ d.code ++ a.code ++ b.code ++ z.code ++ 2#3 : BitVec 32)
  | .amoXor d a b z => some (34#7 ++ d.code ++ a.code ++ b.code ++ z.code ++ 3#3 : BitVec 32)
  | .amoMin d a b z => some (34#7 ++ d.code ++ a.code ++ b.code ++ z.code ++ 4#3 : BitVec 32)
  | .amoMax d a b z => some (34#7 ++ d.code ++ a.code ++ b.code ++ z.code ++ 5#3 : BitVec 32)
  | .amoSwap d a b z => some (34#7 ++ d.code ++ a.code ++ b.code ++ z.code ++ 6#3 : BitVec 32)
  | .cas d a b z => some (35#7 ++ d.code ++ a.code ++ b.code ++ 0#3 ++ z.code : BitVec 32)
  | .binc d a b => some (36#7 ++ d.code ++ a.code ++ b.code ++ 0#4 : BitVec 32)
  | .fenceSv s => some (40#7 ++ 0#14 ++ s.code ++ 0#4 : BitVec 32)
  | .fenceVs s => some (40#7 ++ 0#14 ++ s.code ++ 1#4 : BitVec 32)
  | .fenceEe s => some (40#7 ++ 0#14 ++ s.code ++ 2#4 : BitVec 32)
  | .vdrain => some (41#7 ++ 0#25 : BitVec 32)
  | .tfence s => some (42#7 ++ 0#14 ++ s.code ++ 0#4 : BitVec 32)
  | .waitc d a b => some (43#7 ++ d.code ++ a.code ++ b.code ++ 0#4 : BitVec 32)
  | .gcsleepAny d a b => some (44#7 ++ d.code ++ a.code ++ b.code ++ 0#4 : BitVec 32)
  | .gcsleepAll d a b => some (44#7 ++ d.code ++ a.code ++ b.code ++ 1#4 : BitVec 32)
  | .bqpush a => some (45#7 ++ 0#7 ++ a.code ++ 0#11 : BitVec 32)
  | .bqpop d => some (46#7 ++ d.code ++ 0#18 : BitVec 32)
  | .vadd d a b m t => some (48#7 ++ d.code ++ a.code ++ b.code ++ flagCode m ++ t.code : BitVec 32)
  | .vsub d a b m t => some (49#7 ++ d.code ++ a.code ++ b.code ++ flagCode m ++ t.code : BitVec 32)
  | .vmul d a b m t => some (50#7 ++ d.code ++ a.code ++ b.code ++ flagCode m ++ t.code : BitVec 32)
  | .vfma d a b m t => some (51#7 ++ d.code ++ a.code ++ b.code ++ flagCode m ++ t.code : BitVec 32)
  | .vmin d a b m t => some (52#7 ++ d.code ++ a.code ++ b.code ++ flagCode m ++ t.code : BitVec 32)
  | .vmax d a b m t => some (53#7 ++ d.code ++ a.code ++ b.code ++ flagCode m ++ t.code : BitVec 32)
  | .vdiv d a b m t => some (54#7 ++ d.code ++ a.code ++ b.code ++ flagCode m ++ t.code : BitVec 32)
  | .vabs d a m t => some (55#7 ++ d.code ++ a.code ++ 0#7 ++ flagCode m ++ t.code : BitVec 32)
  | .vneg d a m t => some (55#7 ++ d.code ++ a.code ++ 1#7 ++ flagCode m ++ t.code : BitVec 32)
  | .vsqrt d a m t => some (55#7 ++ d.code ++ a.code ++ 2#7 ++ flagCode m ++ t.code : BitVec 32)
  | .vcmpeq d a b m t => some (56#7 ++ d.code ++ a.code ++ b.code ++ flagCode m ++ t.code : BitVec 32)
  | .vcmplt d a b m t => some (57#7 ++ d.code ++ a.code ++ b.code ++ flagCode m ++ t.code : BitVec 32)
  | .vcmple d a b m t => some (58#7 ++ d.code ++ a.code ++ b.code ++ flagCode m ++ t.code : BitVec 32)
  | .vand d a b w => some (59#7 ++ d.code ++ a.code ++ b.code ++ 0#2 ++ w.code : BitVec 32)
  | .vor d a b w => some (59#7 ++ d.code ++ a.code ++ b.code ++ 1#2 ++ w.code : BitVec 32)
  | .vxor d a b w => some (59#7 ++ d.code ++ a.code ++ b.code ++ 2#2 ++ w.code : BitVec 32)
  | .vandn d a b w => some (59#7 ++ d.code ++ a.code ++ b.code ++ 3#2 ++ w.code : BitVec 32)
  | .vsll d a b w => some (60#7 ++ d.code ++ a.code ++ b.code ++ 0#2 ++ w.code : BitVec 32)
  | .vsrl d a b w => some (60#7 ++ d.code ++ a.code ++ b.code ++ 1#2 ++ w.code : BitVec 32)
  | .vsra d a b w => some (60#7 ++ d.code ++ a.code ++ b.code ++ 2#2 ++ w.code : BitVec 32)
  | .vsel d a b w => some (60#7 ++ d.code ++ a.code ++ b.code ++ 3#2 ++ w.code : BitVec 32)
  | .vminUnsigned d a b w => some (61#7 ++ d.code ++ a.code ++ b.code ++ 0#2 ++ w.code : BitVec 32)
  | .vmaxUnsigned d a b w => some (61#7 ++ d.code ++ a.code ++ b.code ++ 1#2 ++ w.code : BitVec 32)
  | .vcmpltUnsigned d a b w => some (61#7 ++ d.code ++ a.code ++ b.code ++ 2#2 ++ w.code : BitVec 32)
  | .vcmpleUnsigned d a b w => some (61#7 ++ d.code ++ a.code ++ b.code ++ 3#2 ++ w.code : BitVec 32)
  | .vdivUnsigned d a b m w => some (62#7 ++ d.code ++ a.code ++ b.code ++ flagCode m ++ 0#1 ++ w.code : BitVec 32)
  | .vcvt d a u s m t => some (63#7 ++ d.code ++ a.code ++ 0#2 ++ flagCode u ++ s.code ++ flagCode m ++ t.code : BitVec 32)
  | .vunpix d a m p => some (64#7 ++ d.code ++ a.code ++ 0#7 ++ flagCode m ++ 0#2 ++ p.code : BitVec 32)
  | .vpkpix d a m p => some (65#7 ++ d.code ++ a.code ++ 0#7 ++ flagCode m ++ 0#2 ++ p.code : BitVec 32)
  | .vsatn d a b m g w => some (66#7 ++ d.code ++ a.code ++ b.code ++ flagCode m ++ flagCode g ++ w.code : BitVec 32)
  | .vmadd16 d a b m g => some (67#7 ++ d.code ++ a.code ++ b.code ++ flagCode m ++ flagCode g ++ 1#2 : BitVec 32)
  | .vavg d a b m g w => some (68#7 ++ d.code ++ a.code ++ b.code ++ flagCode m ++ flagCode g ++ 0#1 ++ w.code : BitVec 32)
  | .vredAdd d a m t => some (72#7 ++ d.code ++ a.code ++ 0#7 ++ flagCode m ++ t.code : BitVec 32)
  | .vredMax d a m t => some (72#7 ++ d.code ++ a.code ++ 1#7 ++ flagCode m ++ t.code : BitVec 32)
  | .vredMin d a m t => some (72#7 ++ d.code ++ a.code ++ 2#7 ++ flagCode m ++ t.code : BitVec 32)
  | .vredAnd d a m t => some (72#7 ++ d.code ++ a.code ++ 3#7 ++ flagCode m ++ t.code : BitVec 32)
  | .vredOr d a m t => some (72#7 ++ d.code ++ a.code ++ 4#7 ++ flagCode m ++ t.code : BitVec 32)
  | .vredMaxu d a m t => some (72#7 ++ d.code ++ a.code ++ 5#7 ++ flagCode m ++ t.code : BitVec 32)
  | .vredMinu d a m t => some (72#7 ++ d.code ++ a.code ++ 6#7 ++ flagCode m ++ t.code : BitVec 32)
  | .vscanAdd d a m t => some (73#7 ++ d.code ++ a.code ++ 0#7 ++ flagCode m ++ t.code : BitVec 32)
  | .vscanMax d a m t => some (73#7 ++ d.code ++ a.code ++ 1#7 ++ flagCode m ++ t.code : BitVec 32)
  | .vscanMin d a m t => some (73#7 ++ d.code ++ a.code ++ 2#7 ++ flagCode m ++ t.code : BitVec 32)
  | .vscanAnd d a m t => some (73#7 ++ d.code ++ a.code ++ 3#7 ++ flagCode m ++ t.code : BitVec 32)
  | .vscanOr d a m t => some (73#7 ++ d.code ++ a.code ++ 4#7 ++ flagCode m ++ t.code : BitVec 32)
  | .vscanMaxu d a m t => some (73#7 ++ d.code ++ a.code ++ 5#7 ++ flagCode m ++ t.code : BitVec 32)
  | .vscanMinu d a m t => some (73#7 ++ d.code ++ a.code ++ 6#7 ++ flagCode m ++ t.code : BitVec 32)
  | .vcompress d a t => some (74#7 ++ d.code ++ a.code ++ 0#8 ++ t.code : BitVec 32)
  | .vexpand d a t => some (74#7 ++ d.code ++ a.code ++ 2#8 ++ t.code : BitVec 32)
  | .vslide d a b m t => some (75#7 ++ d.code ++ a.code ++ b.code ++ flagCode m ++ t.code : BitVec 32)
  | .vbcast d a m t => some (76#7 ++ d.code ++ a.code ++ 0#7 ++ flagCode m ++ t.code : BitVec 32)
  | .vidx d m t => some (76#7 ++ d.code ++ 1#14 ++ flagCode m ++ t.code : BitVec 32)
  | .vextr d a b t => some (77#7 ++ d.code ++ a.code ++ b.code ++ 0#1 ++ t.code : BitVec 32)
  | .vmpop d a => some (78#7 ++ d.code ++ a.code ++ 0#11 : BitVec 32)
  | .vmfirst d a => some (78#7 ++ d.code ++ a.code ++ 16#11 : BitVec 32)
  | .vtopk d a b m t => some (79#7 ++ d.code ++ a.code ++ b.code ++ flagCode m ++ t.code : BitVec 32)
  | .vld d a b m t => some (80#7 ++ d.code ++ a.code ++ b.code ++ flagCode m ++ t.code : BitVec 32)
  | .vst d a b m t => some (81#7 ++ d.code ++ a.code ++ b.code ++ flagCode m ++ t.code : BitVec 32)
  | .vldff d a b m t => some (82#7 ++ d.code ++ a.code ++ b.code ++ flagCode m ++ t.code : BitVec 32)
  | .vlds d a b m t => some (83#7 ++ d.code ++ a.code ++ b.code ++ flagCode m ++ t.code : BitVec 32)
  | .vsts d a b m t => some (84#7 ++ d.code ++ a.code ++ b.code ++ flagCode m ++ t.code : BitVec 32)
  | .vgaths d a b m t => some (85#7 ++ d.code ++ a.code ++ b.code ++ flagCode m ++ t.code : BitVec 32)
  | .vscats d a b m t => some (86#7 ++ d.code ++ a.code ++ b.code ++ flagCode m ++ t.code : BitVec 32)
  | .wbind d a b => some (87#7 ++ d.code ++ a.code ++ b.code ++ 0#4 : BitVec 32)
  | .vdecb d a m t => some (88#7 ++ d.code ++ a.code ++ 0#7 ++ flagCode m ++ t.code : BitVec 32)
  | .cbload a => some (89#7 ++ 0#7 ++ a.code ++ 0#11 : BitVec 32)
  | .vsplit6 d a b f => some (90#7 ++ d.code ++ a.code ++ b.code ++ 0#3 ++ f.code : BitVec 32)
  | .vjoin6 d a b f => some (91#7 ++ d.code ++ a.code ++ b.code ++ 0#3 ++ f.code : BitVec 32)
  | .vprune d a t p => some (92#7 ++ d.code ++ a.code ++ 0#4 ++ t.code ++ p.code : BitVec 32)
  | .vcvtsToNarrow d a n m t => some (93#7 ++ d.code ++ a.code ++ 0#4 ++ n.code ++ flagCode m ++ t.code : BitVec 32)
  | .vcvtsFromNarrow d a n m t => some (93#7 ++ d.code ++ a.code ++ 1#4 ++ n.code ++ flagCode m ++ t.code : BitVec 32)
  | .mma c g a b f => some (96#7 ++ (0#1 ++ c) ++ g ++ a.code ++ b.code ++ f.code : BitVec 32)
  | .mmas c g a b f => some (97#7 ++ (0#1 ++ c) ++ g ++ a.code ++ b.code ++ f.code : BitVec 32)
  | .mzero c => some (98#7 ++ (0#1 ++ c) ++ 0#22 : BitVec 32)
  | .mswap c => some (99#7 ++ (0#1 ++ c) ++ 0#22 : BitVec 32)
  | .mrd c r a => some (100#7 ++ (0#1 ++ c) ++ r ++ a.code ++ 0#11 : BitVec 32)
  | .mwr c r a => some (101#7 ++ (0#1 ++ c) ++ r ++ a.code ++ 0#11 : BitVec 32)
  | .mcfg c t => some (102#7 ++ (0#1 ++ c) ++ 0#21 ++ t.code : BitVec 32)
  | .iadd d a b => some (104#7 ++ d.code ++ a.code ++ b.code ++ 0#4 : BitVec 32)
  | .isub d a b => some (104#7 ++ d.code ++ a.code ++ b.code ++ 1#4 : BitVec 32)
  | .imul d a b => some (104#7 ++ d.code ++ a.code ++ b.code ++ 2#4 : BitVec 32)
  | .idiv d a b => some (104#7 ++ d.code ++ a.code ++ b.code ++ 3#4 : BitVec 32)
  | .isqr d a => some (104#7 ++ d.code ++ a.code ++ 4#11 : BitVec 32)
  | .isqrt d a => some (104#7 ++ d.code ++ a.code ++ 5#11 : BitVec 32)
  | .ineg d a => some (104#7 ++ d.code ++ a.code ++ 6#11 : BitVec 32)
  | .cadd d a b => some (105#7 ++ d.code ++ a.code ++ b.code ++ 0#4 : BitVec 32)
  | .csub d a b => some (105#7 ++ d.code ++ a.code ++ b.code ++ 1#4 : BitVec 32)
  | .cmul d a b => some (105#7 ++ d.code ++ a.code ++ b.code ++ 2#4 : BitVec 32)
  | .cdiv d a b => some (105#7 ++ d.code ++ a.code ++ b.code ++ 3#4 : BitVec 32)
  | .csqr d a => some (105#7 ++ d.code ++ a.code ++ 4#11 : BitVec 32)
  | .csqrt d a => some (105#7 ++ d.code ++ a.code ++ 5#11 : BitVec 32)
  | .iinter d a b => some (106#7 ++ d.code ++ a.code ++ b.code ++ 0#4 : BitVec 32)
  | .ihull d a b => some (106#7 ++ d.code ++ a.code ++ b.code ++ 1#4 : BitVec 32)
  | .isplit d a => some (106#7 ++ d.code ++ a.code ++ 2#11 : BitVec 32)
  | .iwid d a => some (106#7 ++ d.code ++ a.code ++ 3#11 : BitVec 32)
  | .iclrp d => some (106#7 ++ d.code ++ 4#18 : BitVec 32)
  | .icmpLt d a b => some (107#7 ++ d.code ++ a.code ++ b.code ++ 0#4 : BitVec 32)
  | .icmpLe d a b => some (107#7 ++ d.code ++ a.code ++ b.code ++ 1#4 : BitVec 32)
  | .icmpSub d a b => some (107#7 ++ d.code ++ a.code ++ b.code ++ 2#4 : BitVec 32)
  | .icmpCz d a => some (107#7 ++ d.code ++ a.code ++ 3#11 : BitVec 32)
  | .iset d a b => some (108#7 ++ d.code ++ a.code ++ b.code ++ 0#4 : BitVec 32)
  | .igetLo d a => some (109#7 ++ d.code ++ a.code ++ 0#11 : BitVec 32)
  | .igetHi d a => some (109#7 ++ d.code ++ a.code ++ 1#11 : BitVec 32)
  | .viadd d a b m => some (112#7 ++ d.code ++ a.code ++ b.code ++ flagCode m ++ 0#3 : BitVec 32)
  | .visub d a b m => some (112#7 ++ d.code ++ a.code ++ b.code ++ flagCode m ++ 1#3 : BitVec 32)
  | .vimul d a b m => some (112#7 ++ d.code ++ a.code ++ b.code ++ flagCode m ++ 2#3 : BitVec 32)
  | .vcadd d a b m => some (113#7 ++ d.code ++ a.code ++ b.code ++ flagCode m ++ 0#3 : BitVec 32)
  | .vcsub d a b m => some (113#7 ++ d.code ++ a.code ++ b.code ++ flagCode m ++ 1#3 : BitVec 32)
  | .vcmul d a b m => some (113#7 ++ d.code ++ a.code ++ b.code ++ flagCode m ++ 2#3 : BitVec 32)
  | .ropen d a b => some (116#7 ++ d.code ++ a.code ++ b.code ++ 0#4 : BitVec 32)
  | .ropenAcq d b => some (116#7 ++ d.code ++ 0#7 ++ b.code ++ 0#4 : BitVec 32)
  | .rpub a => some (116#7 ++ 0#7 ++ a.code ++ 1#11 : BitVec 32)
  | .rclose a => some (116#7 ++ 0#7 ++ a.code ++ 2#11 : BitVec 32)
  | .rinfo d a => some (116#7 ++ d.code ++ a.code ++ 3#11 : BitVec 32)
  | .rsplice d a b => some (116#7 ++ d.code ++ a.code ++ b.code ++ 4#4 : BitVec 32)
  | .rtag d a b => some (117#7 ++ d.code ++ a.code ++ b.code ++ 0#4 : BitVec 32)
  | .rsortK d a b => some (118#7 ++ d.code ++ a.code ++ b.code ++ 0#4 : BitVec 32)
  | .rsortKt d a b => some (118#7 ++ d.code ++ a.code ++ b.code ++ 1#4 : BitVec 32)
  | .rmergeNone d a b => some (119#7 ++ d.code ++ a.code ++ b.code ++ 0#4 : BitVec 32)
  | .rmergeAdd d a b => some (119#7 ++ d.code ++ a.code ++ b.code ++ 1#4 : BitVec 32)
  | .rmergeWadd d a b => some (119#7 ++ d.code ++ a.code ++ b.code ++ 2#4 : BitVec 32)
  | .rmergeMin d a b => some (119#7 ++ d.code ++ a.code ++ b.code ++ 3#4 : BitVec 32)
  | .rmergeMax d a b => some (119#7 ++ d.code ++ a.code ++ b.code ++ 4#4 : BitVec 32)
  | .rmergeFirst d a b => some (119#7 ++ d.code ++ a.code ++ b.code ++ 5#4 : BitVec 32)
  | .rmergeLast d a b => some (119#7 ++ d.code ++ a.code ++ b.code ++ 6#4 : BitVec 32)
  | .rmergeUser d a b => some (119#7 ++ d.code ++ a.code ++ b.code ++ 7#4 : BitVec 32)
  | .rjoin d a b => some (120#7 ++ d.code ++ a.code ++ b.code ++ 0#4 : BitVec 32)
  | .rjoinDrop d a b => some (120#7 ++ d.code ++ a.code ++ b.code ++ 1#4 : BitVec 32)
  | .rsetIsect d a b => some (121#7 ++ d.code ++ a.code ++ b.code ++ 0#4 : BitVec 32)
  | .rsetUnion d a b => some (121#7 ++ d.code ++ a.code ++ b.code ++ 1#4 : BitVec 32)
  | .rsetDiff d a b => some (121#7 ++ d.code ++ a.code ++ b.code ++ 2#4 : BitVec 32)
  | .rpart d a b => some (122#7 ++ d.code ++ a.code ++ b.code ++ 0#4 : BitVec 32)
  | .rdedup d a b => some (123#7 ++ d.code ++ a.code ++ b.code ++ 0#4 : BitVec 32)
  | .rcount d a b => some (123#7 ++ d.code ++ a.code ++ b.code ++ 1#4 : BitVec 32)
  | .qopen d a b => some (124#7 ++ d.code ++ a.code ++ b.code ++ 0#4 : BitVec 32)
  | .qpush d a => some (124#7 ++ d.code ++ a.code ++ 1#11 : BitVec 32)
  | .qtake d a => some (124#7 ++ d.code ++ a.code ++ 2#11 : BitVec 32)
  | .qarm a b => some (124#7 ++ 0#7 ++ a.code ++ b.code ++ 3#4 : BitVec 32)
  | .qdone a => some (124#7 ++ 0#7 ++ a.code ++ 4#11 : BitVec 32)
  | .qstat d a => some (124#7 ++ d.code ++ a.code ++ 5#11 : BitVec 32)
  | .tspawn d a b => some (124#7 ++ d.code ++ a.code ++ b.code ++ 6#4 : BitVec 32)
  | .tend a => some (124#7 ++ 0#7 ++ a.code ++ 7#11 : BitVec 32)
  | .fork d a b => some (124#7 ++ d.code ++ a.code ++ b.code ++ 8#4 : BitVec 32)
  | .join => some (124#7 ++ 9#25 : BitVec 32)
  | .xsend r t => some (125#7 ++ 0#1 ++ r ++ t.code : BitVec 32)
  | .xput r t => some (125#7 ++ 1#1 ++ r ++ t.code : BitVec 32)
  | .cpy d a b => some (126#7 ++ d.code ++ a.code ++ b.code ++ 0#4 : BitVec 32)
  | .cpyd d a b => some (126#7 ++ d.code ++ a.code ++ b.code ++ 1#4 : BitVec 32)
  | .sread d a b => some (126#7 ++ d.code ++ a.code ++ b.code ++ 2#4 : BitVec 32)
  | .swrite d a b => some (126#7 ++ d.code ++ a.code ++ b.code ++ 3#4 : BitVec 32)
  | .bdecl d a b => some (126#7 ++ d.code ++ a.code ++ b.code ++ 4#4 : BitVec 32)
  | .bxform d a b => some (126#7 ++ d.code ++ a.code ++ b.code ++ 5#4 : BitVec 32)
  | .brelRel a => some (126#7 ++ 0#7 ++ a.code ++ 6#11 : BitVec 32)
  | .brelFree a => some (126#7 ++ 0#7 ++ a.code ++ 22#11 : BitVec 32)
  | .brelSeal a => some (126#7 ++ 0#7 ++ a.code ++ 38#11 : BitVec 32)
  | .rmark a b => some (126#7 ++ 0#7 ++ a.code ++ b.code ++ 7#4 : BitVec 32)
  | .illegalInstruction _ => none
  | .vectorCommit _ => none
  | .runEnginePublish _ => none
  | .cpyComplete _ => none
  | .cpydComplete _ => none
  | .bxformComplete _ => none
  | .storageComplete _ _ _ => none
  | .xputDeliver _ => none
  | .xsendDeliver _ => none
  | .relayForward _ => none
  | .fabricTokenReturn _ _ => none
  | .qpushArrival _ => none
  | .queueMissServiced _ => none
  | .spillRefill _ => none
  | .settleAgeEligible _ => none
  | .settleClassPromotion _ => none
  | .settleFire _ => none
  | .taskDispatch _ _ => none
  | .taskBecomesOldest _ => none
  | .taskCommit _ => none
  | .waitcWake _ => none
  | .gcsleepWake _ => none
  | .hostWordPoll _ => none
  | .tailWrite _ _ => none
  | .qcfgWrite _ _ => none
  | .registerWrite _ _ => none
  | .launchPacketRead _ => none
  | .launchStart _ => none
  | .preemptDeadlineExpiry _ => none
  | .crewSave _ => none
  | .saveTimeout _ => none
  | .hangWatchdogExpiry _ => none
  | .breakpointStop _ => none
  | .stepComplete _ => none
  | .counterWrap _ _ _ => none
  | .counterSweep => none
  | .sramScrub _ => none
  | .dramPatrolScrub _ => none
  | .powerGood => none
  | .stage1Ready _ => none
  | .stage2Ready => none
  | .stage3Ready => none
  | .portTrained _ => none
  | .portTrainingTimeout _ => none
  | .flitReceive _ _ _ => none
  | .flitNak _ _ => none
  | .linkDown _ => none
  | .uncorrectedCodewordLimit _ => none
  | .powerThrottle _ _ => none
  | .thermalTrip _ => none
  | .thermalRecovery _ => none
  | .firmwareFault => none
  | .peerWindowAccess _ _ _ => none
  | .spdmRequest _ => none
  | .unknownOp _ _ => none
  | .resync _ => none
  | .fwload _ => none
  | .ctxnew _ => none
  | .ctxkill _ => none
  | .xlate _ => none
  | .keyload _ => none
  | .purge _ => none
  | .trapset _ => none
  | .save _ => none
  | .restore _ => none
  | .bpool _ => none
  | .evict _ => none
  | .share _ => none
  | .qbind _ => none
  | .qunbind _ => none
  | .nvmeqp _ => none
  | .nvmeunqp _ => none
  | .nvmeerr _ => none
  | .cntcfg _ => none
  | .cntread _ => none
  | .cntclr _ => none
  | .cntprog _ => none
  | .cntdump _ => none
  | .trccfg _ => none
  | .dbgattach _ => none
  | .brkset _ => none
  | .step _ => none
  | .dbgstop _ => none
  | .rplcfg _ => none
  | .pwrread _ => none
  | .pwrcap _ => none
  | .retire _ => none
  | .accessPerformed _ => none
  | .savedTaskResume _ _ _ => none
  | .throttleEnd _ _ => none

end Sys2Proof
end

