-- ==== Sys2Proof/Config.lean ====
section
/-! DEFINITION. What the model does not fix: constants of the package and the free values, which have
no body, so that no proof can see what they are. Every one has a row in the assumption log. -/

namespace Sys2Proof.Config

/-- Free (log 2): the cycles a step takes beyond one, by the step's number. -/
opaque extraCycles : Nat → Nat

/-- Free (log 9): the device virtual address of the extents created `n`th (R124, word BASE). -/
opaque extentVa : Nat → BitVec 40

/-- Free (log 9): the device physical address of the extents created `n`th, in 64 KiB frames. -/
opaque extentPa : Nat → BitVec 36

/-- Free (log 10): what a byte reads as under a DRAM key that did not write it (R312), by the draw and
the byte. -/
opaque unrelatedByte : Nat → Nat → Byte

/-- Free (log 11): whether, and with which root, a qualifying block of a tolerant run is shared
(R229), by the draw; the answer is an index into the qualifying roots, none when out of range. -/
opaque rootChoice : Nat → Option Nat

/-- Free (log 12): the SHA-384 digest of the given bytes (R331, R336). -/
opaque sha384 : List Byte → BitVec 384

/-- Free (log 12): whether an image's signature verifies against the fused key (R337). -/
opaque signatureOk : List Byte → Bool

/-- Free (log 12): the version an image carries (R336). -/
opaque imageVersion : List Byte → Word

/-- Free (log 12): the answer to an SPDM request (R331), by the request and the three measurements. -/
opaque spdmAnswer : List Byte → List (BitVec 384) → List Byte

/-- Free (log 12): the fresh random key PURGE installs (R313), by the draw. -/
opaque randomKey : Nat → BitVec 512

/-- Free (log 23): what a ring reader finds beyond the bytes its entry's writer wrote (R104), by the draw
and the byte. -/
opaque beyondEntry : Nat → Nat → Byte

/-- Free (log 14): which aligned 8 bytes of a failed transfer were written (R215, R220, R250), by the draw. -/
opaque failedWrote : Nat → Nat → Bool

/-- Free (log 14): the PCIe bus address of BAR2 (R331), and where the PRP list of a storage command stands, by the
draw (R230). -/
opaque windowBase : BitVec 64
opaque prpList : Nat → BitVec 64

/-- Free (log 13): whether a pending transfer has bound a page of its run before a tfence drops the cached
translations (R274), by the draw and the page. -/
opaque boundEarly : Nat → Nat → Bool

/-- Free (log 1): whether a signal line of another package is allocated there to a context of an owner, by the
step's number, the owner and the address (R238). -/
opaque remoteLine : Nat → BitVec 10 → BitVec 64 → Bool

/-- Free (log 71): whether an access to host memory in a step meets a PCIe error (R237). -/
opaque pcieError : Nat → Bool

/-- Free (log 1): what a scalar access to a word of another package returns, by the draw. -/
opaque remoteWord : Nat → BitVec 64

/-- Free (log 8): which of the agents that can move moves next, by the step's number. -/
opaque pick : Nat → Nat

/-- Free (log 6): how long a vector instruction that issues in a step waits to commit, and a committed store to
perform, by the step's number: 0 means in the same step. -/
opaque lagAt : Nat → Nat
opaque slackAt : Nat → Nat

/-- Free (log 6): which of the unperformed stores of an interval performs next, and which of its
elements, by the draw (R255). -/
opaque performPick : Nat → Nat
opaque performElem : Nat → Nat → Bool

/-- Free (log 18): which elements of a stopped gather or scatter have performed (R119, R320). -/
opaque gatherDone : Nat → BitVec 32768

/-- Free (log 12): the boot ROM (R331). -/
opaque bootRom : List Byte

/-- Free (log 1): the packages of the domain that the fabric map shows in service, and the links of other packages
that are retired, by package and direction, as the firmware learns them (R236, R335, R361), by the draw. -/
opaque fabricMap : Nat → List (BitVec 9)
opaque linkMap : Nat → List (BitVec 9 × Nat)

/-- Free (log 1): the package at a coordinate of the torus, and, by the firmware image and the entry, the coordinate
that a relay table entry leads to with the RIDX it carries onward (R235, R302). -/
opaque pkgAt : BitVec 9 → BitVec 9
opaque relayGoal : BitVec 64 → Nat → Option (BitVec 9 × BitVec 6)

/-- Free (log 1): whether a message that has left over a port had a flit undelivered when the port was retired (R361),
by the draw and the message. -/
opaque flitsLost : Nat → Nat → Bool

/-- Free (log 1): whether both ends of a port advertise compression once it has trained (R225), by the draw. -/
opaque portCompresses : Nat → Bool

/-- Free (log 48): the dies with a core that fails its self-test at power-good (R361), by the draw. -/
opaque selfTest : Nat → BitVec 4

/-- Free (log 48): the DRAM sub-beat and the SRAM word that a step finds with an uncorrectable error, as a program or
an engine reads it (R356, R358), by the step's number. -/
opaque dramFault : Nat → Option Nat
opaque sramFault : Nat → Option Nat

/-- Free (log 73): the signal lines that the driver allocates to a new context (R238), by the draw. -/
opaque signalLines : Nat → List Nat

/-- Free (log 9): the device address of the counter run (R336, R344). -/
opaque counterRunAddr : BitVec 64

/-- The bytes of one core's scratchpad (R15): 48 banks of 64 KiB. -/
def spadBytes : Nat := 0x300000

/-- The stride of one core's scratchpad in the package's scratchpad memory, as BAR2 lays it (R331). -/
def spadStride : Nat := 0x400000

/-- Bytes of bonded DRAM (R10, R16): four stacks of 32 channels of 3 GiB. -/
def dramBytes : Nat := 384 * 2 ^ 30

/-- Entries of a thread's vector queue (R290). -/
def vqEntries : Nat := 64

/-- Entries of a thread's history buffer (R291). -/
def histEntries : Nat := 64

/-- Entries of a crew's interlock table (R256). -/
def ilockEntries : Nat := 32

/-- Pending engine tokens a thread may hold (R210). -/
def maxTokens : Nat := 32

/-- Operations a core's run engine holds (R133). -/
def runEngineOps : Nat := 16

/-- Queue SRAM of one core in KiB (R15, R163). -/
def queueSramKiB : Nat := 256

/-- Uncommitted timestamped tasks that may run on one die (R34). -/
def maxSpecTasks : Nat := 64

end Sys2Proof.Config
end

