-- ==== Sys2Proof/Machine/State.lean ====
section
/-! DEFINITION. The state of a Melot J9 package as plain data: threads, crews, contexts, the memories,
the pending asynchronous operations, the die dispatcher, the front end, the mailbox, the counters, the
links and the power manager. The thread that issues next and its crew stand in fields of their own
(`thr`, `crew`); every other thread stands in `mates` and `others`. -/

namespace Sys2Proof.Machine

/-- A sparse map in one canonical form: keys strictly rising, no entry equal to zero; an unlisted key
reads as zero. -/
abbrev SMap (n : Nat) := List (Nat × BitVec n)

/-- A byte memory: a list of (address, byte) cells; an unlisted address reads as zero (log 7). -/
abbrev Mem := List Host.Cell

/-- R24, R55: the role of a thread. -/
inductive Role where
  | solo | loader | computer | storer
  deriving DecidableEq, Repr

/-- What a thread is waiting for when its next instruction cannot issue (R41, R345); `queue` is a qtake's
wait on a Bureau entry and `queueMiss` the wait for its segment. -/
inductive Why where
  | ring | ringFull | bq | token | interlock | grant | joinChild | runEngine | tokens | history
  | vectorQueue | buffer | commit | performed | oldest | storage | release | lend
  | queue (idx : Nat)
  | queueMiss (idx : Nat)
  deriving DecidableEq, Repr

/-- A thread's life: running, stalled at issue, marked ready by yield, a child that has reached join,
stopped at a saved point, or retired (R38, R41, R183). -/
inductive Life where
  | run
  | stalled (w : Why)
  | ready
  | atJoin
  | retired
  deriving DecidableEq, Repr

/-- An interval register: f64 bounds (R52, R197). -/
structure Ival where
  lo : Word
  hi : Word
  deriving DecidableEq, Repr

/-- The thread-scope control registers without their reserved bits (R53, R55), and the current grant
that bounds vl. -/
structure Csrs where
  vl : BitVec 18
  grant : BitVec 18
  sdesc : BitVec 10
  wb : BitVec 5
  frm : BitVec 5
  icfg : BitVec 8
  deriving DecidableEq, Repr

/-- One entry of the history buffer's content: what a scalar write replaced (R85, R291). `strip`
takes back a consumed strip and `vl` the length a computer or storer received; `la`, `prcfg` and `act` take
back a cwr of rmode, prcfg or cbsel and `vlw` a cwr of vl; `ff` and `fi` name the flag bits a scalar instruction newly set. -/
inductive Undo where
  | reg (p : Fin 272) (old : Word)
  | iv (k : Fin 32) (old : Ival)
  | pr (k : Fin 8) (old : BitVec 2)
  | csr (old : Csrs)
  | vl (old : Csrs)
  | vlw (old : Csrs)
  | la (old : Bool)
  | prcfg (m n : BitVec 5)
  | act (old : Bool)
  | strip (needVl : Bool)
  | ff (bits : BitVec 7)
  | fi (bits : BitVec 3)
  deriving DecidableEq, Repr

/-- A history entry: the number of the youngest vector instruction queued before the write. -/
structure Hist where
  seq : Nat
  undo : Undo
  deriving DecidableEq, Repr

/-- What stands in the vector queue: a vector instruction of the table, or one of the queue-chapter
instructions that enter the queue too (R170). -/
inductive VIns where
  | ins (i : Instr)
  | qpush (d a : Opd)
  | qtake (d a : Opd)
  deriving DecidableEq, Repr

/-- R215: the state of a buffer id. -/
inductive BufSt where
  | empty | filling | full | draining
  deriving DecidableEq, Repr

/-- A declared scratchpad buffer of one core (R214, R215): its context, id, range, C bit, state, the
copy-outs outstanding, and whether every one of them had KEEP. -/
structure Buf where
  core : Nat
  ctx : BitVec 16
  id : Nat
  base : Nat
  size : Nat
  comp : Bool
  st : BufSt
  outs : Nat
  keep : Bool
  deriving DecidableEq, Repr

/-- A vector instruction in the queue with what it captured at entry (R54, R59, R98, R105, R114); `seed0` is S
before it and `seed` S as it draws (R75), `rin` and `rout` the rings it reads and writes, `named` every ring it
names; `interval` and `strip` are the ordering interval (R255) and the strip (R30) it belongs to, `gen` the
cbloads that entered the crew's queues before it (R193), `bufs` its context's buffers on the core (R215, R216), and
`runBad` the fault that the handle or the state of the run it streams had at entry (R126, R290). -/
structure VEntry where
  ins : VIns
  pc : Addr
  seq : Nat
  vl : Nat
  frm : BitVec 5
  la : Bool
  prM : BitVec 5
  prN : BitVec 5
  icfg : BitVec 8
  bank : Bool
  seed0 : BitVec 32
  seed : BitVec 32
  sD : Word
  sA : Word
  sB : Word
  ivB : Ival
  dst : Option (Fin 272)
  rin : List (Fin 8)
  rout : Option (Fin 8)
  named : List (Fin 8)
  xmode : Bool
  interval : Nat
  strip : Nat
  gen : Nat
  bufs : List Buf
  runBad : Option (BitVec 8)
  deriving DecidableEq, Repr

/-- The target of an interlock entry: a core's scratchpad, or a run by its context and Cabinet index
(R256). -/
inductive IlTarget where
  | spad (core : Nat)
  | run (ctx : BitVec 16) (idx : Nat)
  deriving DecidableEq, Repr

/-- A byte range [lo, hi) read or written, with the thread index that owns it and the asynchronous
operation it belongs to, if any (R256). -/
structure ILock where
  target : IlTarget
  lo : Nat
  hi : Nat
  write : Bool
  owner : Nat
  op : Option Nat
  deriving DecidableEq, Repr

/-- A committed vector store whose elements have not all performed yet (R255): each element's place
and bytes, in the scratchpad or in the extents the store bound (R129), through the pages bound at `va` where
`pages` lists any (R310). It is the interlock entry [lo, hi) of its instruction, numbered `seq` (R256). -/
structure Unperf where
  target : IlTarget
  ext : Option Nat
  va : Nat
  pages : List (Nat × Nat)
  lo : Nat
  hi : Nat
  cells : List (Nat × List Byte)
  interval : Nat
  seq : Nat
  deriving DecidableEq, Repr

/-- A scalar store held behind earlier vector instructions or accesses (R254): its address, its bytes
and the youngest vector instruction queued before it; `fenced` says that a fence.sv has followed it (R247). -/
structure Held where
  addr : Word
  bytes : List Byte
  seq : Nat
  fenced : Bool
  deriving DecidableEq, Repr

/-- A sleeping wait (R243, R244): its operands as copied at issue, the value that has satisfied a waitc, and for
gcsleep the entries seen satisfied. -/
inductive Sleep where
  | waitc (addr target : Word) (d : Fin 56) (met : Option Word)
  | gc (all : Bool) (ents : List (Word × Word)) (seen : BitVec 64) (d : Fin 56)
  deriving DecidableEq, Repr

/-- What a tfence under way waits for (R249): transfers by their numbers, and run stores by crew, thread and number. -/
structure TfWait where
  ops : List Nat
  stores : List (Nat × Nat × Nat)
  deriving DecidableEq, Repr

/-- A thread (R45, R52, R53, R325). `regs` holds s1-s15 at 1-15 and backing register k at 16 + k; slot 0 is never
read or written. `cover` says that the gather or scatter at pc has stopped once with its completion mask. `vsFence`
is the youngest vector instruction that the last fence.vs orders before later scalar accesses (R247). `eeWait` are
the transfers that a fence.ee orders before the next one, and `tfWait` what a tfence under way waits for.
`lockSeq` is the last vector instruction whose wait for the interlock table has been counted (R339), and `skipBrk` says
that the next issue is the first after a resume, which no execute breakpoint stops (R349). -/
structure Thread where
  idx : Nat
  role : Role
  parent : Option Nat
  pc : Addr
  regs : Vector Word 272
  csr : Csrs
  needVl : Bool
  fflags : BitVec 7
  iflags : BitVec 3
  seed : BitVec 32
  scaleLen : BitVec 18
  scaleSz : BitVec 2
  lgBase : BitVec 4
  lgCnt : BitVec 5
  depth : BitVec 2
  iv : Vector Ival 32
  pr : Vector (BitVec 2) 8
  vq : List VEntry
  hist : List Hist
  unperf : List Unperf
  held : Option Held
  interval : Nat
  need : Nat
  strips : Nat
  pushes : Nat
  vseq : Nat
  cmask : BitVec 32768
  sleep : Option Sleep
  cover : Bool
  vsFence : Nat
  eeWait : List Nat
  tfWait : Option TfWait
  lockSeq : Nat
  skipBrk : Bool
  life : Life
  deriving DecidableEq, Repr

/-- A ring entry: its count, its writer's element size and strip, its bytes, and the groups they come in: `unit` bytes
for `per` elements (R25, R30, R70, R104, R324). -/
structure RingEntry where
  count : Nat
  esz : Nat
  unit : Nat
  per : Nat
  strip : Nat
  bytes : List Byte
  deriving DecidableEq, Repr

/-- The fault record (R317). -/
structure FaultRec where
  code : BitVec 8
  role : Role
  fctx : Nat
  elem : Option Nat
  pc : Addr
  addr : Word
  obj : Word
  value : Word
  deriving DecidableEq, Repr

/-- A poisoned 32-bit word of a vector register: physical register and element (R330). -/
structure Poison where
  reg : Nat
  elem : Nat
  deriving DecidableEq, Repr

/-- R124: the SORT field. -/
inductive SortSt where
  | unsorted | key | keyTag
  deriving DecidableEq, Repr

/-- R126: the STATE field of a run. -/
inductive RunSt where
  | opened | published | closed
  deriving DecidableEq, Repr

/-- A Cabinet entry (R124, R228). `ext` names its extents, `ver` changes at every publish (R129);
`spillOf` is the queue that owns a spill run (R166) and `shared` the source of a shared entry (R308). -/
structure CabEntry where
  live : Bool
  gen : BitVec 16
  len : Nat
  cap : Nat
  ext : Option Nat
  ver : Nat
  owner : BitVec 10
  pgsz : BitVec 2
  die : BitVec 2
  home : BitVec 5
  place : Bool
  tol : Bool
  comp : Bool
  sort : SortSt
  st : RunSt
  kmode : BitVec 2
  ksz : Bool
  rsz : BitVec 2
  tval : BitVec 32
  tabs : Bool
  etype : ElemTy
  esz : BitVec 2
  roots : SMap 32
  spillOf : Option Nat
  shared : Option (BitVec 16 × Nat)
  deriving DecidableEq, Repr

/-- The extents of one version of a run: the context whose pool holds them, the key slot and key
epoch they were created under and the key tag of each 256-byte beat written under another (R312), the device
virtual address, the physical ranges in the order of the run's bytes, the size, the placement and the logical
bytes (R125, R128). -/
structure Extent where
  id : Nat
  ctx : BitVec 16
  slot : BitVec 10
  epoch : Nat
  beats : SMap 48
  va : BitVec 56
  parts : List (Nat × Nat)
  bytes : Nat
  die : BitVec 2
  home : BitVec 5
  place : Bool
  data : Mem
  deriving DecidableEq, Repr

/-- What an instruction makes of a Cabinet entry: rpub and rclose its state, rmark its attributes, qopen its
queue (R126, R166, R228). -/
inductive REdit where
  | state (st : RunSt)
  | mark (comp tol tabs : Bool) (etype : ElemTy) (esz : BitVec 2) (tval : BitVec 32)
  | spill (q : Nat)
  deriving DecidableEq, Repr

/-- A change to the runs of a context or to its core's scratchpad that a speculative task holds back (R35,
R131, R259): `ext` names the extents that a store is bound to, with the pages bound at `va` where there are any
(R311), or that a publish or a creation has taken; `gen` is the generation of the entry that the task named. -/
inductive WOp where
  | spad (addr : Nat) (bytes : List Byte)
  | store (idx : Nat) (ext : Option Nat) (va : Nat) (pages : List (Nat × Nat)) (off : Nat) (bytes : List Byte)
  | publish (idx : Nat) (gen : BitVec 16) (len : Nat) (ext : Option Nat) (sort : SortSt)
  | edit (idx : Nat) (gen : BitVec 16) (x : REdit)
  | newRun (idx : Nat) (e : CabEntry)
  deriving DecidableEq, Repr

/-- The speculative side of a timestamped task (R34-R37): its number, whether it has become the
oldest, the changes held back, and the recorded ranges. -/
structure Spec where
  task : Nat
  ts : Word
  oldest : Bool
  journal : List WOp
  reads : List ILock
  writes : List ILock
  bufs : List Nat
  deriving DecidableEq, Repr

/-- How a stopped crew is to be saved: REASON (R324), the fault, if any, whether the debugger gets it, and the
save area whose header has been written (R321). -/
structure StopInfo where
  reason : BitVec 4
  fault : Option FaultRec
  dbg : Bool
  area : Option Nat
  deriving DecidableEq, Repr

/-- What a privileged handler task works on (R318, R319). -/
structure HandlerOf where
  ctx : BitVec 16
  area : Nat
  fault : FaultRec
  deriving DecidableEq, Repr

/-- The rings ka3 and kb3 while they are lent to a user merge (R151): the operation and VU. -/
structure Lend where
  op : Nat
  vu : Nat
  deriving DecidableEq, Repr

/-- A crew: its place, its launch configuration, the state its threads share (R24-R27, R53). `stepping` is
the thread that a STEP lets issue, plus 4 once it has issued, plus 8 if what it issued was a strip or setvl
(R350); `stallCycles` counts for the watchdog, and while the crew is stopped for its save deadline (R321,
R328). `maxclass` is its code object's MAXCLASS (R298) and `cbGen` the cbloads that have entered its queues
(R193). -/
structure Crew where
  id : Nat
  die : BitVec 2
  core : BitVec 5
  slot : BitVec 2
  ctx : BitVec 16
  priv : Bool
  handler : Option HandlerOf
  trio : Bool
  crews : BitVec 2
  count : BitVec 2
  maxclass : BitVec 2
  ldn : BitVec 7
  stn : BitVec 7
  mvl : BitVec 16
  la : Bool
  prM : BitVec 5
  prN : BitVec 5
  act : Bool
  pend : Bool
  cbGen : Nat
  cb0 : Mem
  cb1 : Mem
  prq : Bool
  ddl : BitVec 32
  ddlInit : BitVec 32
  vregs : Mem
  rings : Vector (List RingEntry) 8
  bq : List Word
  consumed : List (BitVec 18)
  lend : Option Lend
  ilock : List ILock
  poison : List Poison
  launch : Option Nat
  task : Nat
  ts : Word
  spec : Option Spec
  stop : Option StopInfo
  stepping : Option Nat
  stallCycles : Nat
  prio : BitVec 3
  deriving DecidableEq, Repr

/-- Where a token goes: a live register, or the slot of a saved thread block (R322). -/
inductive TokDest where
  | live (crew idx : Nat) (p : Fin 272)
  | saved (ctx : BitVec 16) (area block : Nat) (p : Fin 272)
  | dropped
  deriving DecidableEq, Repr

/-- The run engine operations (R133, R144). -/
inductive RunFn where
  | splice | tag | sort (kt : Bool) | part | merge (combine : Fin 8) | join (drop : Bool)
  | set (which : Fin 3) | dedup | count
  deriving DecidableEq, Repr

/-- A source of an operation: the Cabinet index and the version bound (R129). -/
structure Bound where
  idx : Nat
  ver : Nat
  ext : Option Nat
  len : Nat
  deriving DecidableEq, Repr

/-- A user merge under way (R152): whether the engine has read its sources, each group as its accumulator
and the records left to fold, the groups of the round under way, the entries still to be written to ka3, the
result entries received, and whether the last control entry has been made. -/
structure UserMerge where
  started : Bool
  groups : List (List Byte × List (List Byte))
  round : List Nat
  out : List (List Nat)
  results : List (List Nat)
  last : Bool
  deriving DecidableEq, Repr

/-- How far a bxform has come (R219): the destination lines still to write, the source line that the other line of
a half-written tile replaced, and the flags so far. -/
structure XformAt where
  todo : List Nat
  kept : List (Nat × List Byte)
  fl : BitVec 7
  deriving DecidableEq, Repr

/-- What an asynchronous operation is doing (R133, R212, R232). -/
inductive OpKind where
  | run (f : RunFn) (dsts : List Nat) (srcs : List Bound) (ctl : Word) (extra : List Word)
      (user : Option UserMerge)
  | cpy (ctl : Word) (b : Bound) (off buf : Nat)
  | cpyd (ctl : Word) (b : Bound) (off buf : Nat)
  | sread (ctl target lba : Word) (buf : Nat)
  | swrite (ctl target lba : Word) (buf : Nat)
  | bxform (cmd : Word) (src dst : Nat) (param : Word) (at_ : XformAt)
  | xput (ctl : Word) (route : Route) (buf : Option Nat) (handle off sig : Word)
  | xsend (ctl : Word) (route : Route) (buf : Nat) (handle : Word)
  deriving DecidableEq, Repr

/-- A pending asynchronous operation (R210, R211), with the timestamp and thread slot of its task; `pages` are
the translations that it has bound (R274) and `pc` the instruction that issued it. -/
structure Op where
  id : Nat
  kind : OpKind
  tok : TokDest
  crew : Nat
  thread : Nat
  ctx : BitVec 16
  owner : BitVec 10
  core : Nat
  translate : Bool
  pages : List (Nat × Nat)
  ts : Word
  slot : Nat
  pc : Addr
  deriving DecidableEq, Repr

/-- A fabric message in flight (R232-R236): the operation it came from, the legs left, the relay index, the relays
crossed, the port over which its flits have left (R360), the bytes it carries, the token value once it is known, and
the number of its push within its thread (R351). -/
structure Msg where
  id : Nat
  op : Nat
  route : Route
  ridx : BitVec 6
  relays : Nat
  link : Option Nat
  data : List Byte
  delivered : Option Word
  ordinal : Nat
  deriving DecidableEq, Repr

/-- A queue record: its bytes, its arrival, its origin stamp and whether it stands in the spill run
(R165, R166). -/
structure QRec where
  data : List Byte
  arrival : Nat
  origin : Word
  spilled : Bool
  deriving DecidableEq, Repr

/-- An outstanding claim (R173, R175): the firing count, its records and the take position. -/
structure Claim where
  fire : Nat
  recs : List QRec
  pos : Nat
  deriving DecidableEq, Repr

/-- The arming of a Settle (R172), with the DDL its fired tasks carry (R307). -/
structure Arm where
  age : BitVec 32
  cls : BitVec 2
  thr : BitVec 10
  entry : Word
  arg : Word
  ddl : BitVec 32
  deriving DecidableEq, Repr

/-- R162: the kinds of queue. -/
inductive QKind where
  | launch | task | expert | stream
  deriving DecidableEq, Repr

/-- A Bureau entry (R161-R171). -/
structure BEntry where
  live : Bool
  gen : BitVec 16
  kind : QKind
  rsz : BitVec 2
  res : Bool
  home : BitVec 5
  die : BitVec 2
  quota : BitVec 8
  inSram : Bool
  spill : Option Nat
  closed : Bool
  recs : List QRec
  arm : Option Arm
  eligible : Bool
  promoted : Bool
  claims : List Claim
  fired : Nat
  seq : Nat
  touched : Nat
  launchQ : Option (BitVec 12)
  deriving DecidableEq, Repr

/-- Committed push records on their way to the home core (R165, R170): `thread` names the pushing thread,
`slot` and `ordinal` are its thread slot and the number of the push within it (R351). -/
structure Push where
  id : Nat
  q : QRef
  recs : List (List Byte)
  origin : Word
  thread : Nat
  slot : Nat
  ordinal : Nat
  deriving DecidableEq, Repr

/-- A timestamped task's progress (R34). -/
inductive TaskSt where
  | waiting | running | retired | cancelled
  deriving DecidableEq, Repr

/-- A timestamped task (R34, R173, R178): its key, entry, element count, starting registers, claim and spawner, and
the core and thread slot that it runs or ran on; `placed` marks a task put directly behind an irrevocable one, and
`kept` is the crew of a task that has retired before it became the oldest, with the changes and ranges that stay
until then (R35, R36). -/
structure TTask where
  id : Nat
  ctx : BitVec 16
  die : BitVec 2
  ts : Word
  qno : Nat
  seq : Nat
  entry : Word
  count : Nat
  regs : List (Fin 56 × Word)
  claim : Option Nat
  spawner : Option Nat
  core : Nat
  slot : Nat
  ddl : BitVec 32
  placed : Bool
  oldest : Bool
  kept : Option Crew
  st : TaskSt
  deriving DecidableEq, Repr

/-- A launch packet (R304), with the CFG of its code object. -/
structure Packet where
  slot : BitVec 16
  ctx : BitVec 16
  entry : Word
  n : Nat
  ddl : Nat
  ts : Word
  done : Word
  args : List Word
  prqs : List (Word × Word)
  dies : BitVec 4
  prio : BitVec 3
  crews : BitVec 2
  trio : Bool
  count : BitVec 2
  cfg : Word
  deriving DecidableEq, Repr

/-- A running launch (R38): the tasks not yet retired, the dies it names and the crew slots it holds. -/
structure Launch where
  id : Nat
  queue : Option (BitVec 12)
  ctx : BitVec 16
  done : Word
  left : Nat
  dies : BitVec 4
  idle : List (Nat × BitVec 2)
  cfg : Word
  prio : BitVec 3
  deriving DecidableEq, Repr

/-- A host-visible launch queue (R306); `pending` is the packet read and waiting at the head, and `chosen`
says that the front end reserves slots for it (R307). -/
structure LQueue where
  q : BitVec 12
  base : Word
  ctx : BitVec 16
  priocap : BitVec 3
  log2sz : BitVec 4
  en : Bool
  tail : BitVec 32
  head : BitVec 32
  errSlot : BitVec 16
  errReason : BitVec 8
  pending : Option Packet
  chosen : Bool
  served : Nat
  deriving DecidableEq, Repr

/-- R318: a context's trap handling. -/
structure TrapCfg where
  entry : Word
  drv : BitVec 16
  pool : Word
  wdog : Nat
  deriving DecidableEq, Repr

/-- R348: a breakpoint slot: KIND, address, watch length. -/
structure Brk where
  slot : BitVec 3
  kind : BitVec 3
  addr : Word
  len : Word
  deriving DecidableEq, Repr

/-- R346: a context's trace configuration. -/
structure TrcCfg where
  mask : Word
  drv : BitVec 16
  run : Word
  stopMode : Bool
  deriving DecidableEq, Repr

/-- R351: a context's replay configuration: mode 1 record, 2 replay, and the log entries that a replay has
used. -/
structure RplCfg where
  mode : BitVec 2
  drv : BitVec 16
  run : Word
  used : List Nat
  deriving DecidableEq, Repr

/-- A cached translation (R310): the core whose units hold it, the page size code, the number of the page at that
size, its frame and W. -/
structure TlbEntry where
  core : Nat
  page : Nat
  pgsz : BitVec 2
  frame : Nat
  w : Bool
  deriving DecidableEq, Repr

/-- R336: the state of a context. -/
inductive CtxSt where
  | running | saved | killed
  deriving DecidableEq, Repr

/-- A crew saved in the pool: its offset, its place and what the scheduler keeps of it (R326, R327). -/
structure SavedCrew where
  area : Nat
  die : BitVec 2
  core : BitVec 5
  slot : BitVec 2
  crewId : Nat
  resume : Bool
  kept : Crew
  threads : List Thread
  need : Nat
  complete : Bool
  deriving DecidableEq, Repr

/-- A core image (R326): the core it was taken on, its offset in the pool, which of the scratchpad's lines the
context's owner held, the crews saved with it, and the core it was loaded on, once one restore loaded it. -/
structure CoreImage where
  core : Nat
  off : Nat
  lines : List Nat
  areas : List Nat
  loaded : Option Nat
  deriving DecidableEq, Repr

/-- A context (R53, R123, R161, R308, R310, R318). -/
structure Ctx where
  ctx : BitVec 16
  owner : BitVec 10
  translate : Bool
  root : Option Nat
  cab : List (Nat × CabEntry)
  bureau : List (Nat × BEntry)
  pools : List (Nat × Nat)
  trap : Option TrapCfg
  st : CtxSt
  faults : List FaultRec
  dbg : Option Bool
  brks : List Brk
  trc : Option TrcCfg
  rpl : Option RplCfg
  tlb : List TlbEntry
  saved : List SavedCrew
  images : List CoreImage
  deriving DecidableEq, Repr

/-- The mailbox registers (R332), and the number and operands of the command that executes; `mctp` says that it came
over MCTP, where its reply goes. -/
structure Mbox where
  cmd : Word
  args : List Word
  res : List Word
  run : Bool
  tag : BitVec 16
  status : BitVec 8
  op : BitVec 16
  held : List Word
  mctp : Bool
  deriving DecidableEq, Repr

/-- One event counter (R340). -/
structure Counter where
  unit : BitVec 8
  ev : BitVec 9
  cnt : BitVec 32
  base : BitVec 32
  carry : BitVec 16
  reload : BitVec 32
  ctx : BitVec 16
  filt : Bool
  sample : Bool
  total : Word
  deriving DecidableEq, Repr

/-- R360: a flit in a sender's retry buffer: its sequence number, the message it belongs to, none for a scalar access,
and its payload. -/
structure Flit where
  seq : BitVec 12
  msg : Option Nat
  bytes : List Byte
  deriving DecidableEq, Repr

/-- A Phonelos port (R359-R361): `tx` and `rx` are the sequence numbers it sends and expects next, `nak` says that
it discards flits until `rx` arrives, `sent` is its retry buffer, `replayFrom` names the flit last NAKed to it, and
the two counts are the failures in succession of one flit received and sent. -/
structure Port where
  trained : Bool
  retired : Bool
  tx : BitVec 12
  rx : BitVec 12
  nak : Bool
  sent : List Flit
  replayFrom : Option (BitVec 12)
  fails : Nat
  txFails : Nat
  comp : Bool
  deriving DecidableEq, Repr

/-- An NVMe queue pair handed to the J9 (R334): the tail of its submission ring, the head of its completion ring
and the phase tag that marks a new entry there, the commands outstanding and the last non-zero status. -/
structure NvmeQp where
  drive : BitVec 5
  qp : BitVec 8
  ctx : BitVec 16
  die : BitVec 2
  core : BitVec 5
  depth : Nat
  sq : Nat
  nsid : BitVec 32
  lba : Nat
  sqDb : Word
  cqDb : Word
  tail : Nat
  head : Nat
  phase : Bool
  out : List Nat
  err : BitVec 16
  deriving DecidableEq, Repr

/-- A DRAM key slot (R312, R313): the key, the key's epoch, and whether its context ended with no
PURGE since. -/
structure KeySlot where
  slot : BitVec 10
  key : BitVec 512
  epoch : Nat
  retired : Bool
  deriving DecidableEq, Repr

/-- The firmware image that is loaded (R336, R337). -/
structure Firmware where
  version : Word
  digest : BitVec 384
  deriving DecidableEq, Repr

/-- A trace record on its way to a context's trace run (R346, R347). -/
structure TraceRec where
  ctx : BitVec 16
  w0 : Word
  w1 : Word
  w2 : Word
  w3 : Word
  deriving DecidableEq, Repr

/-- The whole machine. -/
structure State where
  thr : Thread
  crew : Crew
  mates : List Thread
  others : List (Crew × List Thread)
  live : Bool
  clk : Nat
  stepNo : Nat
  fresh : Nat
  draw : Nat
  lag : Nat
  slack : Nat
  inputs : List Instr
  spad : Mem
  spadTag : SMap 10
  bufs : List Buf
  acc : Mem
  accInt : SMap 1
  sig : Mem
  sigOwn : List (Nat × BitVec 16)
  host : Mem
  hostDenied : List (Nat × Nat)
  dram : Mem
  dramKey : SMap 48
  dramBad : List Nat
  exts : List Extent
  withdrawn : List Nat
  ctxs : List Ctx
  ops : List Op
  msgs : List Msg
  pushes : List Push
  tasks : List TTask
  misses : List (BitVec 16 × Nat)
  launches : List Launch
  queues : List LQueue
  mbox : Mbox
  stage : BitVec 2
  dieRdy : BitVec 4
  phRdy : BitVec 24
  pkg : BitVec 9
  xyz : BitVec 9
  fabric : List (BitVec 9)
  badLinks : List (BitVec 9 × Nat)
  fw : Option Firmware
  capclass : SMap 2
  deadDies : BitVec 4
  regErrs : SMap 8
  ports : Vector Port 24
  relay : Vector Word 64
  nvme : List NvmeQp
  keys : List KeySlot
  counters : List Counter
  cntPeriod : Nat
  cntSeq : Nat
  cntRun : Mem
  slipClk : SMap 64
  trace : List TraceRec
  latent : List (BitVec 16 × Poison)
  power : BitVec 16
  cap : BitVec 16
  throt : Bool
  temps : BitVec 48
  hold : Bool
  spdm : List Byte
  mctp : List Word
  hostOut : List Byte
  deriving DecidableEq, Repr

/-- Why a step stops for good: never. The spec describes an effect for every event of the package, and
a package with nothing to do lets time pass. -/
inductive Fault where
  deriving DecidableEq, Repr

/-- Why an instruction is refused. -/
inductive Refusal where
  /-- raised by an arm of `exec` that has no meaning yet. Safe: nothing is claimed of it. -/
  | notModelled (mnemonic : String)
  deriving DecidableEq, Repr

/-- A thread at reset: no crew holds it (R23, R55). -/
def Thread.init : Thread :=
  { idx := 0, role := .solo, parent := none, pc := 0, regs := Vector.replicate 272 0,
    csr := { vl := 0, grant := 0, sdesc := 0x2AA, wb := 0, frm := 0, icfg := 0x1A },
    needVl := false, fflags := 0, iflags := 0, seed := 1, scaleLen := 0, scaleSz := 0,
    lgBase := 0, lgCnt := 16, depth := 0,
    iv := Vector.replicate 32 { lo := 0x7FF0000000000000, hi := 0xFFF0000000000000 },
    pr := Vector.replicate 8 3, vq := [], hist := [], unperf := [], held := none, interval := 0, need := 0,
    strips := 0, pushes := 0, vseq := 0, cmask := 0, sleep := none, cover := false, vsFence := 0, eeWait := [], tfWait := none,
    lockSeq := 0, skipBrk := false, life := .retired }

/-- A crew slot that holds no crew: the reset values of R55, and the configuration a launch gives. -/
def Crew.init : Crew :=
  { id := 0, die := 0, core := 0, slot := 0, ctx := 0, priv := false, handler := none,
    trio := false, crews := 0, count := 0, maxclass := 0, ldn := 0, stn := 0, mvl := 0, la := false, prM := 4,
    prN := 2, act := false, pend := false, cbGen := 0, cb0 := [], cb1 := [], prq := false, ddl := 0,
    ddlInit := 0, vregs := [], rings := Vector.replicate 8 [], bq := [], consumed := [],
    lend := none, ilock := [], poison := [], launch := none, task := 0, ts := 0, spec := none,
    stop := none, stepping := none, stallCycles := 0, prio := 0 }

/-- A Phonelos port before it trains (R359). -/
def Port.init : Port :=
  { trained := false, retired := false, tx := 0, rx := 0, nak := false, sent := [], replayFrom := none,
    fails := 0, txFails := 0, comp := false }

/-- The package right after power-good: stage 0, no firmware, no context, no crew (R335). -/
def State.reset : State :=
  { thr := Thread.init, crew := Crew.init, mates := [], others := [], live := false, clk := 0,
    stepNo := 0, fresh := 1, draw := 0, lag := 0, slack := 0, inputs := [], spad := [], spadTag := [],
    bufs := [], acc := [], accInt := [], sig := [], sigOwn := [], host := [],
    hostDenied := [], dram := [], dramKey := [], dramBad := [], exts := [], withdrawn := [], ctxs := [], ops := [], msgs := [],
    pushes := [], tasks := [], misses := [], launches := [], queues := [],
    mbox := { cmd := 0, args := List.replicate 8 0, res := List.replicate 8 0, run := false,
              tag := 0, status := 0, op := 0, held := [], mctp := false },
    stage := 0, dieRdy := 0, phRdy := 0, pkg := 0, xyz := 0, fabric := [0], badLinks := [], fw := none,
    capclass := [], deadDies := 0, regErrs := [], ports := Vector.replicate 24 Port.init,
    relay := Vector.replicate 64 0, nvme := [], keys := [], counters := [],
    cntPeriod := 50, cntSeq := 0, cntRun := [], slipClk := [], trace := [], latent := [], power := 0, cap := 3000,
    throt := false, temps := 0, hold := false, spdm := [], mctp := [], hostOut := [] }

end Sys2Proof.Machine
end

