-- ==== Sys2Proof/Machine/Flags.lean ====
section
/-! DEFINITION. The flag bits of fflags and iflags (R55) and how they merge (R82). -/

namespace Sys2Proof.Machine

/-- The flags one operation raises, in the layout of fflags (R55). -/
abbrev FF := BitVec 7

/-- R55: NX, inexact. -/
def fNX : FF := 0x01
/-- R55: UF, underflow. -/
def fUF : FF := 0x02
/-- R55: OF, overflow. -/
def fOF : FF := 0x04
/-- R55: DZ, division by zero. -/
def fDZ : FF := 0x08
/-- R55: NV, invalid operation. -/
def fNV : FF := 0x10
/-- R55: FF, first-fault truncation shortened vl. -/
def fFF : FF := 0x20
/-- R55: SAT, a result saturated. -/
def fSAT : FF := 0x40

/-- R55: NAI, a NaN endpoint. -/
def iNAI : BitVec 3 := 0b001
/-- R55: EMP, an empty result or operand. -/
def iEMP : BitVec 3 := 0b010
/-- R55: PROG, narrowing progress. -/
def iPROG : BitVec 3 := 0b100

/-- The OR of a list of flags (R82). -/
def orFlags (l : List FF) : FF := l.foldl (· ||| ·) 0

/-- R82: a scalar instruction merges its flags at issue. While a vector instruction is uncommitted
the newly set bits are recorded, so that a late fault can take them back (R85, R291). -/
def Thread.mergeF (t : Thread) (f : FF) : Thread :=
  { t with
    fflags := t.fflags ||| f
    hist := match t.vq.getLast? with
      | none => t.hist
      | some e =>
        if f &&& ~~~t.fflags = 0 then t.hist
        else { seq := e.seq, undo := .ff (f &&& ~~~t.fflags) } :: t.hist }

/-- As `mergeF`, for iflags (R209). -/
def Thread.mergeI (t : Thread) (f : BitVec 3) : Thread :=
  { t with
    iflags := t.iflags ||| f
    hist := match t.vq.getLast? with
      | none => t.hist
      | some e =>
        if f &&& ~~~t.iflags = 0 then t.hist
        else { seq := e.seq, undo := .fi (f &&& ~~~t.iflags) } :: t.hist }

/-- A flag bit set by a committed instruction is no longer one that unwinding takes back. -/
def Undo.keep (f : FF) (i : BitVec 3) : Undo → Undo
  | .ff b => .ff (b &&& ~~~f)
  | .fi b => .fi (b &&& ~~~i)
  | u => u

/-- R82, R209: a vector instruction merges its flags at commit. -/
def Thread.commitFlags (t : Thread) (f : FF) (i : BitVec 3) : Thread :=
  { t with
    fflags := t.fflags ||| f
    iflags := t.iflags ||| i
    hist := t.hist.map fun h => { h with undo := h.undo.keep f i } }

end Sys2Proof.Machine
end

