-- ==== Sys2Proof/Machine/Float.lean ====
section
/-! DEFINITION. The binary floating-point formats, exact arithmetic on their values, rounding,
special values and conversions (R67, R68, R71, R74, R75, R77, R78). A finite value is a sign, a
natural mantissa and a power of two, so that every operation is computed exactly and rounded once. -/

namespace Sys2Proof.Machine

/-- R67: which codes a format reserves. -/
inductive Special where
  /-- E all ones is infinity or NaN -/
  | ieee
  /-- e4m3: only 0x7F and 0xFF are NaN, and there is no infinity -/
  | nanOnly
  /-- no special code -/
  | none
  deriving DecidableEq, Repr

/-- R67: a binary floating-point format. -/
structure Fmt where
  e : Nat
  m : Nat
  bias : Nat
  sp : Special
  deriving DecidableEq, Repr

/-- R67: f64. -/
def fmt64 : Fmt := { e := 11, m := 52, bias := 1023, sp := .ieee }
/-- R67: f32. -/
def fmt32 : Fmt := { e := 8, m := 23, bias := 127, sp := .ieee }
/-- R67: bf16. -/
def fmtBf : Fmt := { e := 8, m := 7, bias := 127, sp := .ieee }
/-- R67: f16. -/
def fmt16 : Fmt := { e := 5, m := 10, bias := 15, sp := .ieee }
/-- R67: e5m2. -/
def fmtE5m2 : Fmt := { e := 5, m := 2, bias := 15, sp := .ieee }
/-- R67: e4m3. -/
def fmtE4m3 : Fmt := { e := 4, m := 3, bias := 7, sp := .nanOnly }
/-- R67: e3m2. -/
def fmtE3m2 : Fmt := { e := 3, m := 2, bias := 3, sp := .none }
/-- R67: e2m3. -/
def fmtE2m3 : Fmt := { e := 2, m := 3, bias := 1, sp := .none }
/-- R67: e2m1. -/
def fmtE2m1 : Fmt := { e := 2, m := 1, bias := 1, sp := .none }

/-- The bits of a format. -/
def Fmt.bits (f : Fmt) : Nat := 1 + f.e + f.m

/-- The exponent of the unit of the smallest subnormal. -/
def Fmt.qmin (f : Fmt) : Int := 1 - (f.bias : Int) - f.m

/-- The mantissa and unit exponent of the largest finite magnitude (R67). -/
def Fmt.maxFin (f : Fmt) : Nat × Int :=
  match f.sp with
  | .ieee => (2 ^ (f.m + 1) - 1, (2 ^ f.e - 2 : Int) - f.bias - f.m)
  | .nanOnly => (2 ^ (f.m + 1) - 2, (2 ^ f.e - 1 : Int) - f.bias - f.m)
  | .none => (2 ^ (f.m + 1) - 1, (2 ^ f.e - 1 : Int) - f.bias - f.m)

/-- A decoded value: the sign of a NaN is kept for conversions (R68). -/
inductive FVal where
  | nan (neg : Bool)
  | inf (neg : Bool)
  | fin (neg : Bool) (m : Nat) (e : Int)
  deriving DecidableEq, Repr

/-- R67: the value of a code. -/
def Fmt.decode (f : Fmt) (x : Nat) : FVal :=
  let neg := x / 2 ^ (f.e + f.m) % 2 == 1
  let ex := x / 2 ^ f.m % 2 ^ f.e
  let man := x % 2 ^ f.m
  match f.sp with
  | .ieee =>
    if ex = 2 ^ f.e - 1 then (if man = 0 then .inf neg else .nan neg)
    else if ex = 0 then .fin neg man f.qmin
    else .fin neg (2 ^ f.m + man) ((ex : Int) - f.bias - f.m)
  | .nanOnly =>
    if ex = 2 ^ f.e - 1 ∧ man = 2 ^ f.m - 1 then .nan neg
    else if ex = 0 then .fin neg man f.qmin
    else .fin neg (2 ^ f.m + man) ((ex : Int) - f.bias - f.m)
  | .none =>
    if ex = 0 then .fin neg man f.qmin
    else .fin neg (2 ^ f.m + man) ((ex : Int) - f.bias - f.m)

/-- The sign bit in place. -/
def Fmt.signBit (f : Fmt) (neg : Bool) : Nat := if neg then 2 ^ (f.e + f.m) else 0

/-- R68: the canonical NaN of a sign; a format with no NaN writes +0 (R78). -/
def Fmt.nan (f : Fmt) (neg : Bool) : Nat :=
  match f.sp with
  | .ieee => f.signBit neg + (2 ^ f.e - 1) * 2 ^ f.m + 2 ^ (f.m - 1)
  | .nanOnly => f.signBit neg + 2 ^ (f.e + f.m) - 1
  | .none => 0

/-- Infinity of a sign; only for formats that have it. -/
def Fmt.inf (f : Fmt) (neg : Bool) : Nat := f.signBit neg + (2 ^ f.e - 1) * 2 ^ f.m

/-- Zero of a sign. -/
def Fmt.zero (f : Fmt) (neg : Bool) : Nat := f.signBit neg

/-- The largest finite magnitude with a sign. -/
def Fmt.max (f : Fmt) (neg : Bool) : Nat :=
  match f.sp with
  | .ieee => f.signBit neg + (2 ^ f.e - 1) * 2 ^ f.m - 1
  | .nanOnly => f.signBit neg + 2 ^ (f.e + f.m) - 2
  | .none => f.signBit neg + 2 ^ (f.e + f.m) - 1

/-- R74: the rounding modes; a stochastic one carries its 32-bit draw (R75). -/
inductive Rm where
  | rne | rtz | rdn | rup
  | sr (u : Nat)
  deriving DecidableEq, Repr

/-- A code with the flags of producing it. -/
structure FRes where
  bits : Nat
  fl : FF
  deriving DecidableEq, Repr

/-- Number of bits of a natural number. -/
def bitLen (m : Nat) : Nat := if m = 0 then 0 else m.log2 + 1

/-- Whether a magnitude rounds up, given the kept part, the dropped part `rem` of `2 ^ d` (d ≥ 1) and
whether more non-zero bits lie below (R74, R75). -/
def roundsUp (rm : Rm) (neg : Bool) (kept rem d : Nat) (sticky : Bool) : Bool :=
  match rm with
  | .rne => rem > 2 ^ (d - 1) || (rem == 2 ^ (d - 1) && (sticky || kept % 2 == 1))
  | .rtz => false
  | .rdn => neg && (rem != 0 || sticky)
  | .rup => !neg && (rem != 0 || sticky)
  | .sr u => rem * 2 ^ 32 / 2 ^ d + u ≥ 2 ^ 32

/-- Whether `m * 2 ^ e` exceeds the largest finite magnitude of the format: the leading bits decide
unless they stand at the same place. -/
def Fmt.exceeds (f : Fmt) (m : Nat) (e : Int) : Bool :=
  let mx := f.maxFin
  let top : Int := e + bitLen m
  let lim : Int := mx.2 + bitLen mx.1
  if m = 0 then false
  else if top ≠ lim then decide (lim < top)
  else if e ≥ mx.2 then m * 2 ^ (e - mx.2).toNat > mx.1 else m > mx.1 * 2 ^ (mx.2 - e).toNat

/-- A magnitude rounded with an unbounded exponent: the mantissa, its unit and whether it is inexact.
The true value is `m * 2 ^ e`, or lies strictly between `m` and `m + 1` units when `sticky`. -/
def Fmt.roundMag (f : Fmt) (rm : Rm) (neg : Bool) (m : Nat) (e : Int) (sticky : Bool) :
    Nat × Int × Bool :=
  let top : Int := e + bitLen m - 1
  let q := Max.max f.qmin (top - f.m)
  if q ≤ e then (m * 2 ^ (e - q).toNat, q, sticky)
  else
    let d := (q - e).toNat
    let kept := m / 2 ^ d
    let rem := m % 2 ^ d
    ((if roundsUp rm neg kept rem d sticky then kept + 1 else kept), q, rem != 0 || sticky)

/-- The code of a finite magnitude `m * 2 ^ q` that the format holds exactly. -/
def Fmt.pack (f : Fmt) (neg : Bool) (m : Nat) (q : Int) : Nat :=
  if m < 2 ^ f.m then f.signBit neg + m
  else
    let m' := if m = 2 ^ (f.m + 1) then 2 ^ f.m else m
    let q' := if m = 2 ^ (f.m + 1) then q + 1 else q
    f.signBit neg + (q' + f.m + f.bias).toNat * 2 ^ f.m + (m' - 2 ^ f.m)

/-- R77, R78: what an overflowing arithmetic result becomes under IEEE rules, in a format with
infinities. -/
def Fmt.overflow (f : Fmt) (rm : Rm) (neg : Bool) : Nat :=
  match rm with
  | .rne | .sr _ => f.inf neg
  | .rtz => f.max neg
  | .rdn => if neg then f.inf neg else f.max neg
  | .rup => if neg then f.max neg else f.inf neg

/-- Whether an overflow under the mode rounds away from zero (to infinity or its stand-in). -/
def overflowsAway (rm : Rm) (neg : Bool) : Bool :=
  match rm with
  | .rne | .sr _ => true
  | .rtz => false
  | .rdn => neg
  | .rup => !neg

/-- A rounded finite magnitude: the result of R74 with UF and NX (R77), or `none` when it overflows.
Under SR overflow is decided as under RNE, and a draw that would carry past the largest finite
magnitude stays there (R75). -/
def Fmt.roundFin (f : Fmt) (rm : Rm) (neg : Bool) (m : Nat) (e : Int) (sticky : Bool) :
    Option FRes :=
  if m = 0 ∧ sticky = false then some { bits := f.zero neg, fl := 0 }
  else
    let r := f.roundMag rm neg m e sticky
    let o := match rm with
      | .sr _ => f.roundMag .rne neg m e sticky
      | _ => r
    if f.exceeds o.1 o.2.1 then none
    else if f.exceeds r.1 r.2.1 then some { bits := f.max neg, fl := fNX }
    else
      let tiny := r.1 != 0 && decide (r.1 < 2 ^ f.m)
      some { bits := f.pack neg r.1 r.2.1,
             fl := if r.2.2 then (if tiny then fUF ||| fNX else fNX) else 0 }

/-- R74, R77: an exact non-zero magnitude rounded to a format with infinities. -/
def Fmt.round (f : Fmt) (rm : Rm) (neg : Bool) (m : Nat) (e : Int) (sticky : Bool) : FRes :=
  match f.roundFin rm neg m e sticky with
  | some r => r
  | none => { bits := f.overflow rm neg, fl := fOF ||| fNX }

/-- The exact sum of signed dyadics: a common exponent and the signed mantissa. -/
def sumExact : List (Bool × Nat × Int) → Int × Int
  | [] => (0, 0)
  | (neg, m, e) :: rest =>
    let s := sumExact rest
    let v : Int := if neg then -(m : Int) else m
    if s.1 = 0 then (v, e)
    else if e ≤ s.2 then (v + s.1 * 2 ^ (s.2 - e).toNat, e)
    else (v * 2 ^ (e - s.2).toNat + s.1, s.2)

/-- R74: the sign of an exact zero sum: kept when every addend is a zero of one sign, else plus, and
minus under RDN. -/
def zeroSumNeg (rm : Rm) (ts : List (Bool × Nat × Int)) : Bool :=
  if ts.all (fun t => t.2.1 == 0) && ts.all (fun t => t.1) && !ts.isEmpty then true
  else if ts.all (fun t => t.2.1 == 0) && ts.all (fun t => !t.1) && !ts.isEmpty then false
  else rm == .rdn

/-- R74: an exact sum of finite terms, rounded once. -/
def Fmt.sum (f : Fmt) (rm : Rm) (ts : List (Bool × Nat × Int)) : FRes :=
  let s := sumExact ts
  if s.1 = 0 then { bits := f.zero (zeroSumNeg rm ts), fl := 0 }
  else f.round rm (decide (s.1 < 0)) s.1.natAbs s.2 false

/-- The product of two values: a special result, or an exact finite term (R77). NV marks 0 times
infinity. -/
def mulExact (a b : FVal) : FVal × FF :=
  match a, b with
  | .nan _, _ => (.nan false, 0)
  | _, .nan _ => (.nan false, 0)
  | .inf s, .inf t => (.inf (s != t), 0)
  | .inf s, .fin t m _ => if m = 0 then (.nan false, fNV) else (.inf (s != t), 0)
  | .fin s m _, .inf t => if m = 0 then (.nan false, fNV) else (.inf (s != t), 0)
  | .fin s m e, .fin t n k => (.fin (s != t) (m * n) (e + k), 0)

/-- The finite terms of a sum. -/
def finTerms : List FVal → List (Bool × Nat × Int)
  | [] => []
  | .fin s m e :: r => (s, m, e) :: finTerms r
  | _ :: r => finTerms r

/-- R68, R74, R77: the sum of any values, rounded once: a NaN gives the canonical NaN, infinities of
both signs give NV, and otherwise an infinity wins. Where a sum of more than two terms holds a NaN and infinities of
both signs, the NaN comes first and NV is not raised (DESIGN CHOICE, log 30). -/
def Fmt.sumVals (f : Fmt) (rm : Rm) (vs : List FVal) : FRes :=
  if vs.any (fun v => match v with | .nan _ => true | _ => false) then { bits := f.nan false, fl := 0 }
  else if vs.any (· == .inf false) && vs.any (· == .inf true) then { bits := f.nan false, fl := fNV }
  else if vs.any (· == .inf false) then { bits := f.inf false, fl := 0 }
  else if vs.any (· == .inf true) then { bits := f.inf true, fl := 0 }
  else f.sum rm (finTerms vs)

/-- The value with its sign flipped. -/
def FVal.negate : FVal → FVal
  | .nan s => .nan (!s)
  | .inf s => .inf (!s)
  | .fin s m e => .fin (!s) m e

/-- R74, R77: addition. -/
def Fmt.add (f : Fmt) (rm : Rm) (a b : Nat) : FRes := f.sumVals rm [f.decode a, f.decode b]

/-- R74, R77: subtraction. -/
def Fmt.sub (f : Fmt) (rm : Rm) (a b : Nat) : FRes := f.sumVals rm [f.decode a, (f.decode b).negate]

/-- R74, R77: multiplication. -/
def Fmt.mul (f : Fmt) (rm : Rm) (a b : Nat) : FRes :=
  match mulExact (f.decode a) (f.decode b) with
  | (.nan _, fl) => { bits := f.nan false, fl := fl }
  | (.inf s, _) => { bits := f.inf s, fl := 0 }
  | (.fin s m e, _) => if m = 0 then { bits := f.zero s, fl := 0 } else f.round rm s m e false

/-- R74, R77: a × b + d, rounded once. -/
def Fmt.fma (f : Fmt) (rm : Rm) (a b d : Nat) : FRes :=
  let p := mulExact (f.decode a) (f.decode b)
  let r := f.sumVals rm [p.1, f.decode d]
  { bits := r.bits, fl := r.fl ||| p.2 }

/-- A quotient of non-zero magnitudes with at least `p` bits: mantissa, exponent, sticky. -/
def divMag (p m : Nat) (e : Int) (n : Nat) (k : Int) : Nat × Int × Bool :=
  let sh := p + bitLen n
  (m * 2 ^ sh / n, e - k - sh, m * 2 ^ sh % n != 0)

/-- R74, R77: division. -/
def Fmt.div (f : Fmt) (rm : Rm) (a b : Nat) : FRes :=
  match f.decode a, f.decode b with
  | .nan _, _ => { bits := f.nan false, fl := 0 }
  | _, .nan _ => { bits := f.nan false, fl := 0 }
  | .inf _, .inf _ => { bits := f.nan false, fl := fNV }
  | .inf s, .fin t _ _ => { bits := f.inf (s != t), fl := 0 }
  | .fin s _ _, .inf t => { bits := f.zero (s != t), fl := 0 }
  | .fin s m e, .fin t n k =>
    if n = 0 then
      (if m = 0 then { bits := f.nan false, fl := fNV } else { bits := f.inf (s != t), fl := fDZ })
    else if m = 0 then { bits := f.zero (s != t), fl := 0 }
    else
      let q := divMag (f.m + 40) m e n k
      f.round rm (s != t) q.1 q.2.1 q.2.2

/-- The integer square root of `n`, built from bit `k - 1` down. -/
def isqrtBits (n : Nat) : Nat → Nat → Nat
  | 0, r => r
  | k + 1, r => isqrtBits n k (if (r + 2 ^ k) * (r + 2 ^ k) ≤ n then r + 2 ^ k else r)

/-- The floor of the square root. -/
def isqrt (n : Nat) : Nat := isqrtBits n (bitLen n / 2 + 1) 0

/-- The square root of `m * 2 ^ e` with at least `p` bits: mantissa, exponent, sticky. -/
def sqrtMag (p m : Nat) (e : Int) : Nat × Int × Bool :=
  let sh := 2 * p + (if (e - 2 * (p : Int)) % 2 = 0 then 0 else 1)
  let n := m * 2 ^ sh
  let r := isqrt n
  (r, (e - sh) / 2, r * r != n)

/-- R74, R77: the square root. -/
def Fmt.sqrt (f : Fmt) (rm : Rm) (a : Nat) : FRes :=
  match f.decode a with
  | .nan _ => { bits := f.nan false, fl := 0 }
  | .inf true => { bits := f.nan false, fl := fNV }
  | .inf false => { bits := f.inf false, fl := 0 }
  | .fin s m e =>
    if m = 0 then { bits := f.zero s, fl := 0 }
    else if s then { bits := f.nan false, fl := fNV }
    else
      let q := sqrtMag (f.m + 40) m e
      f.round rm false q.1 q.2.1 q.2.2

/-- Whether a value is a NaN. -/
def FVal.isNan : FVal → Bool
  | .nan _ => true
  | _ => false

/-- The order of two values that are not NaN: -1, 0 or 1; zeros are equal. -/
def FVal.cmp (a b : FVal) : Int :=
  match a, b with
  | .inf s, .inf t => if s = t then 0 else if s then -1 else 1
  | .inf s, _ => if s then -1 else 1
  | _, .inf t => if t then 1 else -1
  | .fin s m e, .fin t n k => (sumExact [(s, m, e), (!t, n, k)]).1.sign
  | _, _ => 0

/-- The sign of a value. -/
def FVal.neg : FVal → Bool
  | .nan s => s
  | .inf s => s
  | .fin s _ _ => s

/-- R77: minimumNumber (`mx` false) and maximumNumber (`mx` true): a NaN yields the other operand,
-0 ranks below +0, NV only when both are NaN. -/
def Fmt.minmax (f : Fmt) (mx : Bool) (a b : Nat) : FRes :=
  let x := f.decode a
  let y := f.decode b
  if x.isNan && y.isNan then { bits := f.nan false, fl := fNV }
  else if x.isNan then { bits := b, fl := 0 }
  else if y.isNan then { bits := a, fl := 0 }
  else
    let c := x.cmp y
    let aLess := decide (c < 0) || (c == 0 && x.neg && !y.neg)
    { bits := if aLess != mx then a else b, fl := 0 }

/-- R91, R108: equality; false with a NaN. -/
def Fmt.eq (f : Fmt) (a b : Nat) : Bool :=
  let x := f.decode a
  let y := f.decode b
  !x.isNan && !y.isNan && x.cmp y == 0

/-- R91, R108: less than (`le` false) or at most; false with a NaN, which raises NV. -/
def Fmt.less (f : Fmt) (le : Bool) (a b : Nat) : Bool × FF :=
  let x := f.decode a
  let y := f.decode b
  if x.isNan || y.isNan then (false, fNV)
  else (decide (x.cmp y < 0) || (le && x.cmp y == 0), 0)

/-- R90: the class mask of a value. -/
def Fmt.fclass (f : Fmt) (a : Nat) : Nat :=
  match f.decode a with
  | .nan _ => 256
  | .inf s => if s then 1 else 128
  | .fin s m _ =>
    if m = 0 then (if s then 8 else 16)
    else if m < 2 ^ f.m then (if s then 4 else 32)
    else (if s then 2 else 64)

/-- R78: a value converted to a float format; `sat` is frm.SATCVT, which matters to the 8-, 6- and
4-bit destinations only. -/
def Fmt.convert (f : Fmt) (rm : Rm) (sat : Bool) (v : FVal) : FRes :=
  let narrow := f.bits ≤ 8
  match v with
  | .nan s =>
    match f.sp with
    | .none => { bits := 0, fl := fNV }
    | _ => { bits := f.nan s, fl := 0 }
  | .inf s =>
    match f.sp with
    | .none => { bits := f.max s, fl := fOF ||| fSAT }
    | .nanOnly =>
      if sat then { bits := f.max s, fl := fOF ||| fSAT } else { bits := f.nan s, fl := fOF }
    | .ieee =>
      if narrow && sat then { bits := f.max s, fl := fOF ||| fSAT } else { bits := f.inf s, fl := 0 }
  | .fin s m e =>
    match f.roundFin rm s m e false with
    | some r => r
    | none =>
      match f.sp with
      | .none => { bits := f.max s, fl := fOF ||| fNX ||| fSAT }
      | .nanOnly =>
        if sat then { bits := f.max s, fl := fOF ||| fNX ||| fSAT }
        else { bits := if overflowsAway rm s then f.nan s else f.max s, fl := fOF ||| fNX }
      | .ieee =>
        if narrow && sat then { bits := f.max s, fl := fOF ||| fNX ||| fSAT }
        else { bits := f.overflow rm s, fl := fOF ||| fNX }

/-- R74: an exact dyadic rounded to an integer: the signed integer and whether it is inexact. -/
def roundToInt (rm : Rm) (neg : Bool) (m : Nat) (e : Int) : Int × Bool :=
  if 0 ≤ e then
    let v : Int := (m * 2 ^ e.toNat : Nat)
    (if neg then -v else v, false)
  else
    let d := (-e).toNat
    let kept := m / 2 ^ d
    let rem := m % 2 ^ d
    let k := if roundsUp rm neg kept rem d false then kept + 1 else kept
    (if neg then -(k : Int) else k, rem != 0)

/-- R75, R78: a float converted to an integer of `w` bits, signed or not: NaN gives 0, out of range saturates, both
with NV. Under SR the range is judged as under RNE, and a magnitude that the draw carries past it is the largest,
inexact. -/
def toInteger (rm : Rm) (w : Nat) (signed : Bool) (v : FVal) : FRes :=
  let lo : Int := if signed then -(2 ^ (w - 1) : Int) else 0
  let hi : Int := if signed then 2 ^ (w - 1) - 1 else 2 ^ w - 1
  let code (i : Int) : Nat := (i % (2 ^ w : Int)).toNat
  match v with
  | .nan _ => { bits := 0, fl := fNV }
  | .inf s => { bits := code (if s then lo else hi), fl := fNV }
  | .fin s m e =>
    let r := roundToInt rm s m e
    let judged := (match rm with | .sr _ => roundToInt .rne s m e | _ => r).1
    if judged < lo then { bits := code lo, fl := fNV }
    else if judged > hi then { bits := code hi, fl := fNV }
    else { bits := code (if r.1 < lo then lo else if hi < r.1 then hi else r.1), fl := if r.2 then fNX else 0 }

/-- R78: an integer as a value; zero is +0. -/
def FVal.ofInt (i : Int) : FVal := .fin (decide (i < 0)) i.natAbs 0

/-- R80: a value times 2^k, exactly. -/
def FVal.scale (v : FVal) (k : Int) : FVal :=
  match v with
  | .fin s m e => .fin s m (e + k)
  | v => v

/-- R75: one step of the Galois LFSR. -/
def lfsrStep (s : BitVec 32) : BitVec 32 :=
  (s >>> 1) ^^^ (if s.getLsbD 0 then 0x80200003#32 else 0#32)

/-- R75: the draw of element `e` from the stepped state. -/
def srDraw (s : BitVec 32) (e : Nat) : Nat :=
  (s.rotateLeft (e % 32) ^^^ BitVec.ofNat 32 (e * 0x9E3779B9)).toNat

/-- R74: the mode of frm.RM with RNE in place of SR. -/
def rmOf (frm : BitVec 5) : Rm :=
  match (frm.extractLsb' 0 3).toNat with
  | 1 => .rtz | 2 => .rdn | 3 => .rup | _ => .rne

/-- Whether frm.RM is stochastic (R55). -/
def rmStochastic (frm : BitVec 5) : Bool := frm.extractLsb' 0 3 == 4#3

/-- frm.SATCVT (R55). -/
def satCvt (frm : BitVec 5) : Bool := frm.getLsbD 4

end Sys2Proof.Machine
end

