-- ==== Sys2Proof/Machine/Mem.lean ====
section
/-! DEFINITION. The sparse maps that hold every memory of the package: one read, one range write, and
the little-endian reading of bytes (R3). An unlisted key reads as zero (R125, R313, log 7). -/

namespace Sys2Proof.Machine

/-- The value at a key; an unlisted key reads as zero. -/
def SMap.get {n : Nat} : SMap n → Nat → BitVec n
  | [], _ => 0
  | (a, v) :: r, k => if a = k then v else SMap.get r k

/-- The canonical form: keys strictly rising above `lo`, no zero value. -/
def SMap.wfFrom {n : Nat} : Nat → SMap n → Bool
  | _, [] => true
  | lo, (a, v) :: r => decide (lo ≤ a) && decide (v ≠ 0) && SMap.wfFrom (a + 1) r

/-- The canonical form of a sparse map. -/
def SMap.wf {n : Nat} (m : SMap n) : Bool := SMap.wfFrom 0 m

/-- The canonical form of a byte memory. -/
def Mem.wf (m : Mem) : Bool := SMap.wf (n := 8) m

/-- The entries below a key. -/
def SMap.below {n : Nat} : SMap n → Nat → SMap n
  | [], _ => []
  | (a, v) :: r, k => if a < k then (a, v) :: SMap.below r k else SMap.below r k

/-- The entries at or above a key. -/
def SMap.above {n : Nat} : SMap n → Nat → SMap n
  | [], _ => []
  | (a, v) :: r, k => if a < k then SMap.above r k else (a, v) :: SMap.above r k

/-- The entries of consecutive values from a key. -/
def SMap.ofList {n : Nat} : Nat → List (BitVec n) → SMap n
  | _, [] => []
  | k, v :: r => if v = 0 then SMap.ofList (k + 1) r else (k, v) :: SMap.ofList (k + 1) r

/-- The one write: consecutive values from a key replace what stood there. -/
def SMap.write {n : Nat} (m : SMap n) (k : Nat) (vs : List (BitVec n)) : SMap n :=
  SMap.below m k ++ (SMap.ofList k vs ++ SMap.above m (k + vs.length))

/-- A range of keys becomes zero. -/
def SMap.clear {n : Nat} (m : SMap n) (lo hi : Nat) : SMap n :=
  SMap.below m lo ++ SMap.above m (if lo ≤ hi then hi else lo)

/-- The values of consecutive keys. -/
def SMap.read {n : Nat} (m : SMap n) : Nat → Nat → List (BitVec n)
  | _, 0 => []
  | k, len + 1 => SMap.get m k :: SMap.read m (k + 1) len

/-- The entries from `lo` up to `hi`, moved to start at key 0. -/
def SMap.slice {n : Nat} (m : SMap n) (lo hi : Nat) : SMap n :=
  (SMap.below (SMap.above m lo) hi).map fun c => (c.1 - lo, c.2)

/-- All entries moved up by an offset. -/
def SMap.shift {n : Nat} (m : SMap n) (by_ : Nat) : SMap n := m.map fun c => (c.1 + by_, c.2)

/-- The bytes of a memory range. The range is cut out first, so that a long memory is walked once. -/
def Mem.bytes (m : Mem) (k len : Nat) : List Byte :=
  SMap.read (n := 8) (SMap.below (SMap.above m k) (k + len)) k len

/-- Bytes written at an address. -/
def Mem.put (m : Mem) (k : Nat) (bs : List Byte) : Mem := SMap.write (n := 8) m k bs

/-- The range [k, k + len) of a memory replaced by the entries of another, which starts at key 0. -/
def Mem.paste (m : Mem) (k len : Nat) (src : Mem) : Mem :=
  SMap.below (n := 8) m k ++
    (SMap.shift (n := 8) (SMap.below (n := 8) src len) k ++ SMap.above (n := 8) m (k + len))

/-- R3: the little-endian value of bytes. -/
def leNat : List Byte → Nat
  | [] => 0
  | b :: r => b.toNat + 256 * leNat r

/-- R3: the `n` little-endian bytes of a value. -/
def leBytes : Nat → Nat → List Byte
  | 0, _ => []
  | n + 1, x => BitVec.ofNat 8 x :: leBytes n (x / 256)

/-- A 64-bit little-endian word of a memory. -/
def Mem.word (m : Mem) (k : Nat) : Word := BitVec.ofNat 64 (leNat (m.bytes k 8))

/-- The value of `n` bytes of a memory. -/
def Mem.nat (m : Mem) (k n : Nat) : Nat := leNat (m.bytes k n)

/-- Cut a list into pieces of `n`; a last short piece is dropped. `fuel` bounds the pieces. -/
def chunksOf {α : Type} (n : Nat) : Nat → List α → List (List α)
  | 0, _ => []
  | fuel + 1, l => l.take n :: chunksOf n fuel (l.drop n)

/-- The little-endian elements of `s` bytes of a byte list. -/
def elemsOf (s count : Nat) (bs : List Byte) : List Nat := (chunksOf s count bs).map leNat

/-- The bytes of elements of `s` bytes. -/
def bytesOfElems (s : Nat) (es : List Nat) : List Byte := (es.map (leBytes s)).flatten

/-- Replace the entry of a keyed list, or add it at the end. -/
def kvSet {α : Type} : List (Nat × α) → Nat → α → List (Nat × α)
  | [], k, v => [(k, v)]
  | (a, w) :: r, k, v => if a = k then (k, v) :: r else (a, w) :: kvSet r k v

/-- The entry of a keyed list. -/
def kvGet {α : Type} (l : List (Nat × α)) (k : Nat) : Option α :=
  (l.find? fun p => p.1 == k).map Prod.snd

/-- The lowest index in [lo, lo + fuel) that a list of used indices does not hold. -/
def lowestFree (used : List Nat) : Nat → Nat → Option Nat
  | _, 0 => none
  | k, fuel + 1 => if used.contains k then lowestFree used (k + 1) fuel else some k

end Sys2Proof.Machine
end

