-- ==== Sys2Proof/Machine/Compress.lean ====
section
/-! DEFINITION. The block-compressed format: CRC32C, the three codings, the choice between them, slot
images as a C buffer holds them, and when a block of a tolerant run lies within tolerance of another
(R222-R226, R229). A run's extents hold logical bytes; images are made where one can be seen. -/

namespace Sys2Proof.Machine

/-! ## Element types -/

/-- R60: bytes of an element type. -/
def elSize : ElemTy → Nat
  | .i8 => 1 | .i16 => 2 | .i32 => 4 | .i64 => 8 | .bf16 => 2 | .f16 => 2 | .f32 => 4 | .f64 => 8

/-- R67: the float format of an element type, if it is one. -/
def elFmt : ElemTy → Option Fmt
  | .bf16 => some fmtBf | .f16 => some fmt16 | .f32 => some fmt32 | .f64 => some fmt64
  | _ => none

/-- R69: an element of `s` bytes as a signed number. -/
def sInt (s x : Nat) : Int := if x < 2 ^ (8 * s - 1) then x else (x : Int) - 2 ^ (8 * s)

/-! ## CRC32C -/

/-- One bit of the CRC: the Castagnoli polynomial, reflected. -/
def crcBit (c : BitVec 32) : BitVec 32 := if c.getLsbD 0 then c >>> 1 ^^^ 0x82F63B78 else c >>> 1

/-- One byte of the CRC. -/
def crcByte (c : BitVec 32) (b : Byte) : BitVec 32 :=
  let x := c ^^^ b.setWidth 32
  crcBit (crcBit (crcBit (crcBit (crcBit (crcBit (crcBit (crcBit x)))))))

/-- R222: CRC32C (PRESUMED, log 21: all ones at the start and complemented at the end, as iSCSI has it). -/
def crc32c (bs : List Byte) : BitVec 32 := ~~~(bs.foldl crcByte 0xFFFFFFFF)

/-! ## The codings (R223) -/

/-- Bytes of a block, of a beat and of a slot image. -/
def blockBytes : Nat := 4096
def beatBytes : Nat := 256
def imageBytes : Nat := 4352

/-- Bits packed eight to a byte, the first in bit 0. -/
def packBits : Nat → List Bool → List Byte
  | 0, _ => []
  | n + 1, l => BitVec.ofNat 8 ((l.take 8).foldr (fun b acc => acc * 2 + (if b then 1 else 0)) 0) :: packBits n (l.drop 8)

/-- The bits of bytes. -/
def unpackBits (bs : List Byte) : List Bool := (bs.map fun b => (List.range 8).map fun i => b.getLsbD i).flatten

/-- R223: the zero-run coding of a block. -/
def zeroRun (bs : List Byte) : List Byte :=
  let ws := chunksOf 4 1024 bs
  packBits 128 (ws.map fun w => leNat w != 0) ++ (ws.filter fun w => leNat w != 0).flatten

/-- R223: z(i) of a difference of `w` bits. -/
def zigzag (w d : Nat) : Nat := (2 * d % 2 ^ w) ^^^ (if d / 2 ^ (w - 1) % 2 = 1 then 2 ^ w - 1 else 0)

/-- R223: the difference of a z(i). -/
def unzigzag (w z : Nat) : Nat := (z / 2) ^^^ (if z % 2 = 1 then 2 ^ w - 1 else 0)

/-- R223: d(i) mapped, from the element before. -/
def deltas (w : Nat) : Nat → List Nat → List Nat
  | _, [] => []
  | p, x :: r => zigzag w ((x + 2 ^ w - p) % 2 ^ w) :: deltas w x r

/-- R223: the elements of mapped differences. -/
def undeltas (w : Nat) : Nat → List Nat → List Nat
  | _, [] => []
  | p, z :: r => let x := (p + unzigzag w z) % 2 ^ w; x :: undeltas w x r

/-- R223: the planes that a block stores, highest first. -/
def planesOf (w : Nat) (zs : List Nat) : List Nat := ((List.range w).filter fun b => zs.any fun z => z.testBit b).reverse

/-- R222: the PLANES word. -/
def planesWord (ps : List Nat) : Nat := (ps.map fun b => 2 ^ b).sum

/-- R223: the delta-bitplane coding of a block: its planes and its bytes. -/
def deltaPlane (sz : Nat) (bs : List Byte) : List Nat × List Byte :=
  let n := blockBytes / sz
  let zs := deltas (8 * sz) 0 (elemsOf sz n bs)
  let ps := planesOf (8 * sz) zs
  (ps, (ps.map fun b => packBits (n / 8) (zs.map fun z => z.testBit b)).flatten)

/-- R224: the beats of a coding. -/
def beatsFor (bytes : Nat) : Nat := Nat.max 1 ((bytes + beatBytes - 1) / beatBytes)

/-- A compressed block. -/
structure Coded where
  coding : Nat
  planes : Nat
  bytes : List Byte
  deriving DecidableEq, Repr

/-- R224: the beats of a coded block; raw takes 16. -/
def Coded.beats (c : Coded) : Nat := if c.coding = 0 then 16 else beatsFor c.bytes.length

/-- R224: the smallest coding of a block, ties to zero-run, then delta-bitplane, then raw. -/
def codeBlock (sz : Nat) (bs : List Byte) : Coded :=
  let z : Coded := { coding := 1, planes := 0, bytes := zeroRun bs }
  let p := deltaPlane sz bs
  let d : Coded := { coding := 2, planes := planesWord p.1, bytes := p.2 }
  let r : Coded := { coding := 0, planes := 0, bytes := bs }
  if z.beats ≤ d.beats ∧ z.beats ≤ 16 then z else if d.beats ≤ 16 then d else r

/-- R222, R226: the bytes of a slot image that are written: the header, zeros up to byte 255, and the
beats used, trailing zeros with them. -/
def imageOf (esz : BitVec 2) (slot : Nat) (bs : List Byte) : List Byte :=
  let c := codeBlock (2 ^ esz.toNat) bs
  let head := leBytes 4 (c.coding + esz.toNat * 4 + (c.beats - 1) * 16) ++ leBytes 4 (crc32c bs).toNat ++
    leBytes 8 c.planes ++ leBytes 8 slot ++ List.replicate 232 0
  head ++ (c.bytes ++ List.replicate (c.beats * beatBytes - c.bytes.length) 0)

/-- R223: the words of a zero-run block, from its bitmap. -/
def unzero : List Bool → List Byte → List Byte
  | [], _ => []
  | b :: r, l => if b then l.take 4 ++ unzero r (l.drop 4) else [0, 0, 0, 0] ++ unzero r l

/-- R223: a delta-bitplane block from its planes, highest first, and their bits. -/
def unplane (sz : Nat) (ps : List Nat) (bs : List Byte) : List Byte :=
  let n := blockBytes / sz
  let rows := (chunksOf (n / 8) ps.length bs).map unpackBits
  let zs := (List.range n).map fun i =>
    ((List.zip ps rows).map fun p => if p.2.getD i false then 2 ^ p.1 else 0).sum
  bytesOfElems sz (undeltas (8 * sz) 0 zs)

/-- R222, R223: the logical bytes of a slot image, or none when a field is inconsistent with its coding or
the CRC does not match. -/
def expandImage (img : List Byte) : Option (List Byte) :=
  let w0 := leNat (img.take 4)
  let coding := w0 % 4
  let sz := 2 ^ (w0 / 4 % 4)
  let nb := w0 / 16 % 16 + 1
  let planes := leNat ((img.drop 8).take 8)
  let data := img.drop 256
  let out : Option (List Byte) :=
    if w0 / 256 ≠ 0 ∨ leNat ((img.drop 24).take 8) ≠ 0 then none
    else if coding = 0 then (if nb = 16 ∧ planes = 0 then some (data.take blockBytes) else none)
    else if coding = 1 then
      let bm := unpackBits (data.take 128)
      if nb = beatsFor (128 + 4 * bm.countP id) ∧ planes = 0 then some (unzero bm (data.drop 128)) else none
    else if coding = 2 then
      let ps := ((List.range 64).filter fun b => planes.testBit b).reverse
      if nb = beatsFor (ps.length * (blockBytes / sz / 8)) ∧ planes < 2 ^ (8 * sz) then some (unplane sz ps data) else none
    else none
  match out with
  | some bs => if crc32c bs = BitVec.ofNat 32 (leNat ((img.drop 4).take 4)) then some bs else none
  | none => none

/-- The logical bytes of consecutive slot images, or none when one cannot be expanded. -/
def expandAll : Nat → List Byte → Option (List Byte)
  | 0, _ => some []
  | n + 1, bs =>
    match expandImage (bs.take imageBytes), expandAll n (bs.drop imageBytes) with
    | some x, some r => some (x ++ r)
    | _, _ => none

/-- The leading slot images that can be expanded. -/
def expandSome : Nat → List Byte → List Byte
  | 0, _ => []
  | n + 1, bs =>
    match expandImage (bs.take imageBytes) with
    | some x => x ++ expandSome n (bs.drop imageBytes)
    | none => []

/-! ## Tolerance (R229) -/

/-- Whether |q - x| ≤ m × 2^k for finite values. -/
def distLe (q x : FVal) (m : Nat) (k : Int) : Bool :=
  match q, x with
  | .fin a m1 e1, .fin b m2 e2 =>
    let d := sumExact [(a, m1, e1), (!b, m2, e2)]
    let e := Min.min d.2 k
    decide (d.1.natAbs * 2 ^ (d.2 - e).toNat ≤ m * 2 ^ (k - e).toNat)
  | _, _ => false

/-- R229: whether a root's element q may stand for x. Infinities qualify only when identical. -/
def elemTolerates (t : ElemTy) (tabs : Bool) (tval : BitVec 32) (q x : Nat) : Bool :=
  q == x || (tval != 0 &&
    match elFmt t with
    | some f =>
      if tabs then
        (match fmt32.decode tval.toNat with
         | .fin _ m k => distLe (f.decode q) (f.decode x) m k
         | .inf _ => !(f.decode q).isNan && !(f.decode x).isNan
         | .nan _ => false)
      else
        (match f.decode x with
         | .fin _ _ e => distLe (f.decode q) (f.decode x) tval.toNat e
         | _ => false)
    | none =>
      tabs && (match fmt32.decode tval.toNat with
        | .fin _ m k => distLe (.ofInt (sInt (elSize t) q)) (.ofInt (sInt (elSize t) x)) m k
        | .inf _ => true
        | .nan _ => false))

/-- R229: whether a block lies within an entry's tolerance of a root block. -/
def CabEntry.tolerates (e : CabEntry) (root blk : List Byte) : Bool :=
  let sz := elSize e.etype
  let n := blockBytes / sz
  (List.zip (elemsOf sz n root) (elemsOf sz n blk)).all fun p => elemTolerates e.etype e.tabs e.tval p.1 p.2

/-- R229: copy-on-write before a block is written: a sharer has its own slot again; a root that is shared
gives its place to its lowest-indexed sharer. -/
def CabEntry.unshare (e : CabEntry) (b : Nat) : CabEntry :=
  if e.roots.get b ≠ 0 then { e with roots := e.roots.write b [0] }
  else
    let mine := (e.roots.filter fun p => p.2.toNat == b + 1).map Prod.fst
    match mine with
    | [] => e
    | l :: r => { e with roots := r.foldl (fun m i => m.write i [BitVec.ofNat 32 (l + 1)]) (e.roots.write l [0]) }

/-- R222, R229: the SLOT of a block. -/
def CabEntry.slotOf (e : CabEntry) (b : Nat) : Nat :=
  let r := (e.roots.get b).toNat
  if r = 0 then b else r - 1

end Sys2Proof.Machine
end

