-- ==== Sys2Proof/Machine/Access.lean ====
section
/-! DEFINITION. Faults and stalls, the geometry of a crew, the accessors of registers, contexts, page
tables, the Cabinet, the scratchpad, signal space and host memory. Every read or write of a piece of
state by an instruction goes through one of these. -/

namespace Sys2Proof.Machine

/-- R314: the fault numbers. -/
abbrev Code := BitVec 8
def fltIllegal : Code := 1
def fltCrewMode : Code := 2
def fltPriv : Code := 3
def fltOperand : Code := 4
def fltAlign : Code := 5
def fltSpadRange : Code := 6
def fltBufState : Code := 7
def fltBufTable : Code := 8
def fltPage : Code := 9
def fltRunHandle : Code := 10
def fltRunState : Code := 11
def fltRunFormat : Code := 12
def fltRunBounds : Code := 13
def fltRunOrder : Code := 14
def fltRunSpace : Code := 15
def fltRunTable : Code := 16
def fltRunAbort : Code := 17
def fltScaleCount : Code := 18
def fltQueueHandle : Code := 19
def fltQueueKind : Code := 20
def fltQueueState : Code := 21
def fltQueueSpill : Code := 22
def fltQueueTable : Code := 23
def fltQueueSpace : Code := 24
def fltRingClosed : Code := 25
def fltSignal : Code := 26
def fltHost : Code := 27
def fltDecomp : Code := 28
def fltStorage : Code := 29
def fltRoute : Code := 30
def fltTrap : Code := 31
def fltUncorr : Code := 32
def fltHang : Code := 33
def fltSaveTimeout : Code := 34
def fltRestoreCapacity : Code := 35

/-- A fault on its way to the trap: its number, what the fault record says of it (R317), and the DRAM frame that
an uncorrectable error withdraws (R358). -/
structure Trap where
  code : Code
  elem : Option Nat := none
  addr : Word := 0
  obj : Word := 0
  value : Word := 0
  frame : Option Nat := none
  deriving DecidableEq, Repr

/-- Why an instruction does not take effect now: a fault, a condition it waits for (R66), or a stop of
its whole context (R351, R354). -/
inductive Stop where
  | trap (t : Trap)
  | stall (w : Why)
  /-- the context stops with a STOP record of this cause: 4 replay log full (R351), 5 standing for a
  DIVERGE record of a log entry (R354) -/
  | halt (cause : Nat) (entry : Nat := 0)
  /-- a watchpoint is hit at an element (R349) -/
  | watch (elem : Option Nat)
  deriving DecidableEq, Repr

/-- A computation that may stop before it changes anything. -/
abbrev R (α : Type) := Except Stop α

/-- Raise a fault with only its number. -/
def flt {α : Type} (c : Code) : R α := .error (.trap { code := c })

/-- Raise a fault with its address and object. -/
def fltAt {α : Type} (c : Code) (addr obj : Word) : R α := .error (.trap { code := c, addr := addr, obj := obj })

/-- Wait. -/
def stall {α : Type} (w : Why) : R α := .error (.stall w)

/-- Require a condition, or raise a fault. -/
def need (b : Bool) (c : Code) : R Unit := if b then .ok () else flt c

/-- Require a condition, or raise a fault about an object. -/
def needObj (b : Bool) (c : Code) (obj : Word) : R Unit :=
  if b then .ok () else .error (.trap { code := c, obj := obj })

/-- Wait until a condition holds. -/
def await (b : Bool) (w : Why) : R Unit := if b then .ok () else stall w

/-! ## Geometry -/

/-- R13: the number of a core within the package. -/
def Crew.coreIx (c : Crew) : Nat := c.die.toNat * 32 + c.core.toNat

/-- R46: the vector register storage of a capacity class, in bytes. -/
def storageBytes (cap : BitVec 2) : Nat :=
  match cap.toNat with
  | 0 => 0x100000 | 1 => 0xE0000 | 2 => 0xC0000 | _ => 0x80000

/-- R55: crews per core. -/
def crewsOf (code : BitVec 2) : Nat := 2 ^ code.toNat

/-- R55: configured vector registers. -/
def countOf (code : BitVec 2) : Nat := 8 * 2 ^ code.toNat

/-- R46: MVL in 32-bit elements. -/
def mvlOf (cap crews count : BitVec 2) : Nat :=
  Nat.min 32768 (storageBytes cap / crewsOf crews / (countOf count * 4) / 256 * 256)

/-- R31, R32: the MVL of a context. -/
def ctxMvl (c : Crew) (t : Thread) : Nat := c.mvl.toNat * t.lgCnt.toNat / 16

/-- The MVL of the thread that issues. -/
def State.mvl (s : State) : Nat := ctxMvl s.crew s.thr

/-- R47: the first physical register and the size of a thread's own part. -/
def partOf (c : Crew) (r : Role) : Nat × Nat :=
  match r with
  | .solo => (0, countOf c.count)
  | .loader => (0, c.ldn.toNat)
  | .computer => (c.ldn.toNat, countOf c.count - c.ldn.toNat - c.stn.toNat)
  | .storer => (countOf c.count - c.stn.toNat, c.stn.toNat)

/-- R55: the role's number. -/
def Role.num : Role → Nat
  | .solo => 0 | .loader => 1 | .computer => 2 | .storer => 3

/-- The sizes coded 0-3 as 1, 2, 4, 8 bytes (R55). -/
def sizeOf2 (b : BitVec 2) : Nat := 2 ^ b.toNat

/-- The code of a size of 1, 2, 4 or 8 bytes (R55). -/
def codeOfSize (s : Nat) : BitVec 2 := if s = 1 then 0 else if s = 2 then 1 else if s = 4 then 2 else 3

/-- The sdesc size of a grant (R55). -/
def Csrs.gsz (c : Csrs) : Nat := sizeOf2 (c.sdesc.extractLsb' 8 2)

/-- The sdesc size of strip pointer `k` (R55). -/
def Csrs.esz (c : Csrs) (k : Nat) : Nat := sizeOf2 (c.sdesc.extractLsb' (2 * k) 2)

/-- R45: the register that s`n` is, for n from 1 to 55. -/
def Thread.phys (t : Thread) (n : Nat) : Fin 272 :=
  Fin.ofNat 272 (if n < 16 then n else n + 8 * t.csr.wb.toNat)

/-- R13, R316: a thread's name. -/
def State.tref (s : State) : TRef := { crew := s.crew.id, idx := s.thr.idx }

/-! ## Contexts -/

/-- The context of a number. -/
def State.ctxOf (s : State) (n : BitVec 16) : Option Ctx := s.ctxs.find? fun c => c.ctx == n

/-- Change one context. -/
def State.modCtx (s : State) (n : BitVec 16) (f : Ctx → Ctx) : State :=
  { s with ctxs := s.ctxs.map fun c => if c.ctx = n then f c else c }

/-- R55: OWNER of a context, 0 where the context is gone. -/
def State.ownerOf (s : State) (n : BitVec 16) : BitVec 10 :=
  match s.ctxOf n with
  | some c => c.owner
  | none => 0

/-- R55: OWNER of the crew that issues. -/
def State.owner (s : State) : BitVec 10 := s.ownerOf s.crew.ctx

/-- R55: xmode of the crew that issues. -/
def State.translating (s : State) : Bool :=
  match s.ctxOf s.crew.ctx with
  | some c => c.translate
  | none => false

/-- R34, R35: whether the crew is a speculative task that has not become the oldest. -/
def Crew.speculating (c : Crew) : Bool :=
  match c.spec with
  | some sp => !sp.oldest
  | none => false

/-- R35: the changes that a crew's speculative task holds back. -/
def Crew.heldBack (c : Crew) : List WOp :=
  match c.spec with
  | some sp => sp.journal
  | none => []

/-- R55, R75: S as a thread of a crew reads it: its context's own, which the three threads of a trio share; the
computer holds it, the only one of them that steps or writes it. -/
def crewSeed (c : Crew) (ts : List Thread) (t : Thread) : BitVec 32 :=
  if c.trio then ((ts.find? fun u => u.role == .computer).map Thread.seed).getD t.seed else t.seed

/-- R55: S as the thread that issues reads it. -/
def State.seedNow (s : State) : BitVec 32 := crewSeed s.crew (s.thr :: s.mates) s.thr

/-! ## Scalar registers, tokens and the history buffer -/

/-- R210, R111: whether a register is pending: a token, or the scalar result of a queued vector
instruction. -/
def State.pending (s : State) (p : Fin 272) : Bool :=
  s.ops.any (fun o => o.tok == .live s.crew.id s.thr.idx p) || s.thr.vq.any fun e => e.dst == some p

/-- R45: what a scalar register holds; s0 reads zero. -/
def Thread.get (t : Thread) (n : Nat) : Word := if n = 0 then 0 else t.regs[t.phys n]

/-- Record what a scalar write replaces, while a vector instruction is uncommitted (R291). -/
def Thread.record (t : Thread) (u : Undo) : Thread :=
  match t.vq.getLast? with
  | none => t
  | some e => { t with hist := { seq := e.seq, undo := u } :: t.hist }

/-- R291: whether an undo stands for an entry of the history buffer: a consumed strip is a count only. -/
def Undo.takes : Undo → Bool
  | .strip _ => false
  | _ => true

/-- R291: the entries of the history buffer that are held. -/
def Thread.histUsed (t : Thread) : Nat := t.hist.countP fun h => h.undo.takes

/-- R291: room for `k` more recorded writes. -/
def Thread.histSpace (t : Thread) (k : Nat) : Bool :=
  t.vq.isEmpty || decide (t.histUsed + k ≤ Config.histEntries)

/-- R291: the writes recorded so far have found room. -/
def State.histKept (s : State) : R State :=
  if s.thr.histSpace 0 then .ok s else .error (.stall .history)

/-- R291: whether a recorded write may be made now. -/
def Thread.histRoom (t : Thread) : Bool := t.histSpace 1

/-- R45: write a scalar register; s0 discards. -/
def Thread.set (t : Thread) (n : Nat) (v : Word) : Thread :=
  if n = 0 then t
  else { t.record (.reg (t.phys n) t.regs[t.phys n]) with regs := t.regs.set (t.phys n) v }

/-- Change the thread that issues. -/
def State.modThr (s : State) (f : Thread → Thread) : State := { s with thr := f s.thr }

/-- Change the crew that issues. -/
def State.modCrew (s : State) (f : Crew → Crew) : State := { s with crew := f s.crew }

/-- R58, R210: read a scalar source. -/
def State.rd (s : State) (o : Opd) : R Word :=
  match o with
  | .s n =>
    if n.val = 0 then .ok 0
    else if s.pending (s.thr.phys n.val) then stall .token
    else .ok (s.thr.get n.val)
  | _ => flt fltIllegal

/-- R210, R291: whether a scalar destination may be written now; nothing is written yet. -/
def State.wrOk (s : State) (o : Opd) : R Unit :=
  match o with
  | .s n =>
    if n.val = 0 then .ok ()
    else if s.pending (s.thr.phys n.val) then stall .token
    else await s.thr.histRoom .history
  | _ => flt fltIllegal

/-- Write a scalar destination that `wrOk` has passed. -/
def State.put (s : State) (o : Opd) (v : Word) : State :=
  match o with
  | .s n => { s with thr := s.thr.set n.val v }
  | _ => s

/-- Write a scalar destination. -/
def State.wr (s : State) (o : Opd) (v : Word) : R State := do
  s.wrOk o
  .ok (s.put o v)

/-- The `k`th register of a block that starts at a scalar code; a block that passes s55 is illegal
(R132, R168, R212). -/
def opdPlus (o : Opd) (k : Nat) : R Opd :=
  match o with
  | .s n => if h : n.val + k < 56 then .ok (.s ⟨n.val + k, h⟩) else flt fltIllegal
  | _ => flt fltIllegal

/-- The scalar code of an operand. -/
def opdNum : Opd → Nat
  | .s n => n.val
  | .ring k => 56 + k.val
  | .v n => 64 + n.val

/-- R57: the next instruction's address. -/
def Thread.next (t : Thread) : Thread := { t with pc := t.pc + 4 }

/-- Advance past the instruction that issued. -/
def State.adv (s : State) : State := { s with thr := s.thr.next }

/-- R57: a branch target: pc plus 4 times a signed offset, modulo 2^56. -/
def target {w : Nat} (pc : Addr) (off : BitVec w) : Addr := pc + 4 * off.signExtend 56

/-- R55: record and change the thread's control registers. -/
def State.setCsr (s : State) (c : Csrs) : R State := do
  await s.thr.histRoom .history
  .ok { s with thr := { s.thr.record (.csr s.thr.csr) with csr := c } }

/-! ## Threads and crews by name -/

/-- Bring a thread of the current crew to the front. -/
def State.focusIdx (s : State) (idx : Nat) : Option State :=
  if s.thr.idx = idx then some s
  else
    match s.mates.find? (fun t => t.idx == idx) with
    | none => none
    | some t => some { s with thr := t, mates := s.thr :: s.mates.filter fun u => u.idx != idx }

/-- Bring a crew to the front; its first thread becomes the thread that issues. -/
def State.focusCrew (s : State) (id : Nat) : Option State :=
  if s.live && s.crew.id == id then some s
  else
    match s.others.find? (fun p => p.1.id == id) with
    | some (c, t :: ts) =>
      let rest := s.others.filter fun p => p.1.id != id
      some { s with
        crew := c, thr := t, mates := ts, live := true
        others := if s.live then rest ++ [(s.crew, s.thr :: s.mates)] else rest }
    | _ => none

/-- Bring a thread to the front. -/
def State.focus (s : State) (t : TRef) : Option State :=
  match s.focusCrew t.crew with
  | some s' => s'.focusIdx t.idx
  | none => none

/-- Every crew with its threads. -/
def State.crews (s : State) : List (Crew × List Thread) :=
  if s.live then (s.crew, s.thr :: s.mates) :: s.others else s.others

/-- Apply a change to every crew. -/
def State.mapCrews (s : State) (f : Crew → Crew) : State :=
  { s with crew := if s.live then f s.crew else s.crew, others := s.others.map fun p => (f p.1, p.2) }

/-- The current crew leaves the machine. -/
def State.dropCrew (s : State) : State :=
  match s.others with
  | (c, t :: ts) :: rest => { s with crew := c, thr := t, mates := ts, others := rest }
  | _ => { s with crew := Crew.init, thr := Thread.init, mates := [], others := [], live := false }

/-- All threads of the current crew, lowest index first. -/
def State.team (s : State) : List Thread :=
  (List.range 4).filterMap fun i => (s.thr :: s.mates).find? fun t => t.idx == i

/-- Change every thread of the current crew. -/
def State.mapTeam (s : State) (f : Thread → Thread) : State :=
  { s with thr := f s.thr, mates := s.mates.map f }

/-! ## Physical memory and translation -/

/-- Where a physical range lies in ranges laid end to end. -/
def partOffset (pa n : Nat) : List (Nat × Nat) → Nat → Option Nat
  | [], _ => none
  | (b, l) :: r, base => if b ≤ pa ∧ pa + n ≤ b + l then some (base + (pa - b)) else partOffset pa n r (base + l)

/-- The physical address of a byte of ranges laid end to end. -/
def partAddr : List (Nat × Nat) → Nat → Option Nat
  | [], _ => none
  | (b, l) :: r, off => if off < l then some (b + off) else partAddr r (off - l)

/-- The extents that hold a physical range, and where in them it lies. -/
def State.extAt (s : State) (pa n : Nat) : Option (Extent × Nat) :=
  s.exts.findSome? fun x => (partOffset pa n x.parts 0).map fun off => (x, off)

/-- The bytes at a device physical address, inside one 64 KiB page, as the page walker reads them (log 56). -/
def State.physBytes (s : State) (pa n : Nat) : List Byte :=
  match s.extAt pa n with
  | some (x, off) => x.data.bytes off n
  | none => s.dram.bytes pa n

/-! ## DRAM errors (R356, R358) -/

/-- R358: the 64-byte sub-beat with an uncorrectable error that a physical range meets. -/
def State.badAt (s : State) (pa n : Nat) : Option Nat :=
  s.dramBad.find? fun d => decide (d * 64 < pa + n) && decide (pa < d * 64 + 64)

/-- R358: the sub-beat with an uncorrectable error that a range of extents meets. -/
def State.extBad (s : State) (id : Option Nat) (off n : Nat) : Option Nat :=
  if s.dramBad.isEmpty then none
  else
    match id.bind fun i => s.exts.find? fun x => x.id == i with
    | none => none
    | some x => s.dramBad.find? fun d => match partOffset (d * 64) 64 x.parts 0 with
      | some o => decide (o < off + n) && decide (off < o + 64)
      | none => false

/-- R358: a pool without one 64 KiB frame. -/
def poolWithout (f : Nat) (p : Nat × Nat) : List (Nat × Nat) :=
  let b := f * 65536
  if p.1 ≤ b ∧ b < p.1 + p.2 then
    [(p.1, b - p.1), (b + 65536, p.1 + p.2 - (b + 65536))].filter fun x => decide (0 < x.2)
  else [p]

/-- R358: a 64 KiB frame leaves every pool, and is not allocated again. -/
def State.withdraw (s : State) (f : Nat) : State :=
  if s.withdrawn.contains f then s
  else { s with
    withdrawn := f :: s.withdrawn
    ctxs := s.ctxs.map fun (c : Ctx) => { c with pools := (c.pools.map (poolWithout f)).flatten } }

/-! ## DRAM keys (R312) -/

/-- R312: the tag of a key: its slot and the epoch of that slot. -/
def keyTag (slot : BitVec 10) (epoch : Nat) : BitVec 48 := BitVec.ofNat 48 ((epoch + 1) * 1024 + slot.toNat)

/-- R312: the tag of the key that an owner holds now. -/
def State.tagNow (s : State) (owner : BitVec 10) : BitVec 48 :=
  keyTag owner (match s.keys.find? fun k => k.slot == owner with | some k => k.epoch | none => 0)

/-- R312: the tag that a 256-byte beat was written under; 0 where no key of the package wrote it (log 10). -/
def beatTag (beats : SMap 48) (base : BitVec 48) (b : Nat) : BitVec 48 :=
  if beats.get b = 0 then base else beats.get b

/-- The beats that a range touches. -/
def beatsOf (off n : Nat) : List Nat :=
  if n = 0 then [] else (List.range ((off + n - 1) / 256 - off / 256 + 1)).map fun i => off / 256 + i

/-- R312: what a reader's key makes of bytes, beat by beat: the bytes where its key wrote them, else unrelated
ones. -/
def keyedBytes (data : Mem) (beats : SMap 48) (base tag : BitVec 48) (noise : Nat → Byte) : Nat → Nat → Nat → List Byte
  | 0, _, _ => []
  | fuel + 1, off, n =>
    if n = 0 then []
    else
      let m := Nat.min n (256 - off % 256)
      let g := beatTag beats base (off / 256)
      (if g = tag ∨ g = 0 then data.bytes off m else (List.range m).map fun i => noise (off + i)) ++
        keyedBytes data beats base tag noise fuel (off + m) (n - m)

/-- R312: a write under a key: each beat takes the key's tag, and what another key wrote beside it reads as
unrelated bytes under this one. -/
def keyedPut (data : Mem) (beats : SMap 48) (base tag : BitVec 48) (noise : Nat → Byte) (off : Nat) (bs : List Byte) :
    Mem × SMap 48 :=
  let r := (beatsOf off bs.length).foldl (fun (p : Mem × SMap 48) b =>
    let g := beatTag p.2 base b
    if g = tag then p
    else (if g = 0 then p.1 else p.1.put (b * 256) ((List.range 256).map fun i => noise (b * 256 + i)), p.2.write b [tag]))
    (data, beats)
  (r.1.put off bs, r.2)

/-- R312: bytes of extents as a reader of an owner decrypts them. -/
def State.extSeen (s : State) (owner : BitVec 10) (x : Extent) (off n : Nat) : List Byte :=
  keyedBytes x.data x.beats (keyTag x.slot x.epoch) (s.tagNow owner) (Config.unrelatedByte s.draw) (n / 256 + 2) off n

/-- R312: extents once an owner has written bytes of them. -/
def State.extWritten (s : State) (owner : BitVec 10) (x : Extent) (off : Nat) (bs : List Byte) : Extent :=
  let r := keyedPut x.data x.beats (keyTag x.slot x.epoch) (s.tagNow owner) (Config.unrelatedByte s.draw) off bs
  { x with data := r.1, beats := r.2 }

/-- R312: the bytes at a device physical address, inside one 64 KiB page, as a reader of an owner decrypts them. -/
def State.physSeen (s : State) (owner : BitVec 10) (pa n : Nat) : List Byte :=
  match s.extAt pa n with
  | some (x, off) => s.extSeen owner x off n
  | none => keyedBytes s.dram s.dramKey 0 (s.tagNow owner) (Config.unrelatedByte s.draw) (n / 256 + 2) pa n

/-- The entry whose current extents these are, when it is a tolerant run. -/
def State.tolerant? (s : State) (id : Nat) : Option (BitVec 16 × Nat × CabEntry) :=
  s.ctxs.findSome? fun c => (c.cab.find? fun p => p.2.ext == some id && p.2.comp && p.2.tol).map fun p => (c.ctx, p.1, p.2)

/-- Change a Cabinet entry of a context. -/
def State.setEntry (s : State) (ctx : BitVec 16) (idx : Nat) (e : CabEntry) : State :=
  s.modCtx ctx fun c => { c with cab := kvSet c.cab idx e }

/-- R229: a block of a tolerant run has been written: it may share the data of a root of the run within
tolerance, which one being free (log 11). -/
def State.shareBlock (id b : Nat) (s : State) : State :=
  match s.tolerant? id, s.exts.find? fun x => x.id == id with
  | some (ctx, idx, e), some x =>
    let blk (i : Nat) : List Byte := x.data.bytes (i * blockBytes) blockBytes
    let isRoot := e.roots.any fun p => p.2 == BitVec.ofNat 32 (b + 1)
    let qs := (List.range (x.bytes / blockBytes)).filter fun r =>
      !isRoot && r != b && e.roots.get r == 0 && e.tolerates (blk r) (blk b)
    let s1 := { s with draw := s.draw + 1 }
    match (match Config.rootChoice s.draw with | some k => qs[k]? | none => none) with
    | none => s1
    | some r =>
      ({ s1 with exts := s1.exts.map fun (y : Extent) =>
          if y.id = id then { y with data := y.data.put (b * blockBytes) (blk r) } else y }).setEntry ctx idx
        { e with roots := e.roots.write b [BitVec.ofNat 32 (r + 1)] }
  | _, _ => s

/-- R229: the blocks that a range touches. -/
def blocksOf (off n : Nat) : List Nat :=
  if n = 0 then [] else (List.range ((off + n - 1) / blockBytes - off / blockBytes + 1)).map fun i => off / blockBytes + i

/-- R229: the blocks of a tolerant run that a write touches, once they are written. -/
def State.shareBlocks (s : State) (id off n : Nat) : State :=
  if (s.tolerant? id).isNone then s else (blocksOf off n).foldl (fun s' b => s'.shareBlock id b) s

/-- R229: before the blocks of a tolerant run are written, their sharing ends. -/
def State.unshareBlocks (s : State) (id off n : Nat) : State :=
  match s.tolerant? id with
  | none => s
  | some (ctx, idx, e) => s.setEntry ctx idx ((blocksOf off n).foldl CabEntry.unshare e)

/-- R229, R312: an owner writes bytes of extents. -/
def State.extPutBy (s : State) (owner : BitVec 10) (id off : Nat) (bs : List Byte) : State :=
  let s1 := s.unshareBlocks id off bs.length
  State.shareBlocks { s1 with exts := s1.exts.map fun x => if x.id = id then s1.extWritten owner x off bs else x }
    id off bs.length

/-- Write bytes of extents under the slot of the context that owns them. -/
def State.extPut (s : State) (id off : Nat) (bs : List Byte) : State :=
  match s.exts.find? fun x => x.id == id with
  | some x => s.extPutBy x.slot id off bs
  | none => s

/-- R312: an owner writes bytes at a device physical address, inside one 64 KiB page. -/
def State.physPut (s : State) (owner : BitVec 10) (pa : Nat) (bs : List Byte) : State :=
  match s.extAt pa bs.length with
  | some (x, off) => s.extPutBy owner x.id off bs
  | none =>
    let r := keyedPut s.dram s.dramKey 0 (s.tagNow owner) (Config.unrelatedByte s.draw) pa bs
    { s with dram := r.1, dramKey := r.2 }

/-- R310: one level of a walk: the shift of its index, the index bits, the page size where a leaf is
allowed, the alignment of the table it points to. -/
structure Level where
  shift : Nat
  bits : Nat
  leaf : Bool
  next : Nat
  deriving DecidableEq, Repr

/-- R310: the five levels. -/
def walkLevels : List Level :=
  [{ shift := 48, bits := 8, leaf := false, next := 0x1000 },
   { shift := 39, bits := 9, leaf := false, next := 0x1000 },
   { shift := 30, bits := 9, leaf := true, next := 0x1000 },
   { shift := 21, bits := 9, leaf := true, next := 0x100 },
   { shift := 16, bits := 5, leaf := true, next := 0 }]

/-- R310, R358: the walk from a table: the physical address that `va` maps to, W and the shift of its page, or the reason
it fails, which is 3 plus the number of a bad sub-beat that it reads. The checks of reason 2 come before that of reason
1. -/
def State.walkFrom (s : State) (va : Nat) (write : Bool) : List Level → Nat → Except Nat (Nat × Bool × Nat)
  | [], _ => .error 2
  | l :: ls, table =>
    let at_ := table + 8 * (va / 2 ^ l.shift % 2 ^ l.bits)
    let e := leNat (s.physBytes at_ 8)
    let addr := e / 256 % 2 ^ 44 * 256
    if let some d := s.badAt at_ 8 then .error (3 + d)
    else if e % 2 = 0 then .error 0
    else if e / 2 ^ 52 ≠ 0 ∨ e / 8 % 32 ≠ 0 then .error 2
    else if e / 2 % 2 = 1 then
      (if l.leaf = false ∨ addr % 2 ^ l.shift ≠ 0 then .error 2
       else if write = true ∧ e / 4 % 2 = 0 then .error 1
       else .ok (addr + va % 2 ^ l.shift, decide (e / 4 % 2 = 1), l.shift))
    else if l.next = 0 ∨ addr % (if l.next = 0 then 1 else l.next) ≠ 0 then .error 2
    else s.walkFrom va write ls addr

/-- R310: a walk of a context's tables; no root means that no present page maps the address. -/
def State.walk (s : State) (c : Ctx) (va : Nat) (write : Bool) : Except Nat (Nat × Bool × Nat) :=
  match c.root with
  | none => .error 0
  | some r => s.walkFrom va write walkLevels r

/-- R310, R358: the trap of a walk that fails with a reason. -/
def pageFault (r : Nat) (t : Trap) : Trap :=
  if r < 3 then { t with code := fltPage, value := BitVec.ofNat 64 r }
  else { t with code := fltUncorr, frame := some ((r - 3) / 1024) }

/-- R310: the page size code of a leaf's shift, and its bytes. -/
def pgszOf (shift : Nat) : BitVec 2 := if shift = 16 then 0 else if shift = 21 then 1 else 2
/-- R310: bytes of a page of a size code. -/
def pageSpan (pgsz : BitVec 2) : Nat := match pgsz.toNat with | 0 => 0x10000 | 1 => 0x200000 | _ => 0x40000000

/-- R310: whether a cached translation covers an address of a core. -/
def TlbEntry.covers (e : TlbEntry) (core va : Nat) : Bool := e.core == core && e.page == va / pageSpan e.pgsz

/-- R249, R310: translate through the cached translations of a core, which only a tfence drops; a walk's
success is cached for the whole page. -/
def State.translate (s : State) (ctx : BitVec 16) (core va : Nat) (write : Bool) :
    Except Nat Nat × State :=
  match s.ctxOf ctx with
  | none => (.error 0, s)
  | some c =>
    match c.tlb.find? fun e => e.covers core va with
    | some e =>
      if write && !e.w then (.error 1, s) else (.ok (e.frame + va % pageSpan e.pgsz), s)
    | none =>
      match s.walk c va write with
      | .error r => (.error r, s)
      | .ok (pa, w, sh) =>
        (.ok pa, s.modCtx ctx fun c' =>
          { c' with tlb := { core := core, page := va / 2 ^ sh, pgsz := pgszOf sh, frame := pa - va % 2 ^ sh, w := w } :: c'.tlb })

/-- R358: the bad sub-beat that a range of a device virtual address meets through bound pages. -/
def State.boundBad (s : State) (b : List (Nat × Nat)) : Nat → Nat → Nat → Option Nat
  | 0, _, _ => none
  | fuel + 1, va, n =>
    if n = 0 || s.dramBad.isEmpty then none
    else
      let m := Nat.min n (65536 - va % 65536)
      match s.badAt ((kvGet b (va / 65536)).getD 0 + va % 65536) m with
      | some d => some d
      | none => s.boundBad b fuel (va + m) (n - m)

/-- Pages bound for an access: the page of the device virtual address and the frame (R310). -/
abbrev Binds := List (Nat × Nat)

/-- R310, R311: bind pages of a context one by one, up to the first that fails with its reason. -/
def State.bindList (s : State) (ctx : BitVec 16) (core : Nat) (write : Bool) :
    List Nat → Binds × Option (Nat × Nat) × State
  | [] => ([], none, s)
  | p :: r =>
    match s.translate ctx core (p * 65536) write with
    | (.error x, s1) => ([], some (p, x), s1)
    | (.ok pa, s1) =>
      let rest := s1.bindList ctx core write r
      ((p, pa) :: rest.1, rest.2.1, rest.2.2)

/-- The pages that a range touches. -/
def pagesOf (va n : Nat) : List Nat :=
  if n = 0 then [] else (List.range ((va + n - 1) / 65536 - va / 65536 + 1)).map fun i => va / 65536 + i

/-- The frame of a bound page. -/
def Binds.frame (b : Binds) (page : Nat) : Nat := (kvGet b page).getD 0

/-- Bytes at a device virtual address through bound pages, as a reader of an owner decrypts them. -/
def State.boundBytes (s : State) (owner : BitVec 10) (b : Binds) : Nat → Nat → Nat → List Byte
  | 0, _, _ => []
  | fuel + 1, va, n =>
    if n = 0 then []
    else
      let m := Nat.min n (65536 - va % 65536)
      s.physSeen owner (Binds.frame b (va / 65536) + va % 65536) m ++ s.boundBytes owner b fuel (va + m) (n - m)

/-- An owner writes bytes at a device virtual address through bound pages. -/
def State.boundPut (owner : BitVec 10) (b : Binds) : Nat → Nat → List Byte → State → State
  | 0, _, _, s => s
  | fuel + 1, va, bs, s =>
    if bs.isEmpty then s
    else
      let m := 65536 - va % 65536
      State.boundPut owner b fuel (va + m) (bs.drop m)
        (s.physPut owner (Binds.frame b (va / 65536) + va % 65536) (bs.take m))

/-! ## The Cabinet as the crew sees it -/

/-- R124: bytes of a record, key and page. -/
def CabEntry.recSize (e : CabEntry) : Nat := 8 * 2 ^ e.rsz.toNat
/-- R121: bytes of a key. -/
def CabEntry.keySize (e : CabEntry) : Nat := if e.ksz then 8 else 4
/-- R124: bytes of a page of the extents. -/
def CabEntry.pageBytes (e : CabEntry) : Nat :=
  match e.pgsz.toNat with
  | 0 => 0x10000 | 1 => 0x200000 | _ => 0x40000000

/-- R128: records that whole pages hold, for `n` records. -/
def CabEntry.capFor (e : CabEntry) (n : Nat) : Nat :=
  (n * e.recSize + e.pageBytes - 1) / e.pageBytes * e.pageBytes / e.recSize

/-- The extents of an id. -/
def State.ext? (s : State) (id : Option Nat) : Option Extent :=
  match id with
  | none => none
  | some i => s.exts.find? fun x => x.id == i

/-- The bytes of extents as a reader of an owner decrypts them. -/
def State.extBytes (s : State) (owner : BitVec 10) (id : Option Nat) (off n : Nat) : List Byte :=
  match s.ext? id with
  | none => List.replicate n 0
  | some x => s.extSeen owner x off n

/-- The data of an entry's current extents. -/
def State.entryData (s : State) (e : CabEntry) : Mem :=
  match s.ext? e.ext with
  | some x => x.data
  | none => []

/-- R127, R130: what a store up to `hi` makes of an entry. -/
def CabEntry.stored (e : CabEntry) (hi : Nat) : CabEntry :=
  { e with len := Nat.max e.len ((hi + e.recSize - 1) / e.recSize), sort := .unsorted }

/-- R128: an entry once `len` records have been published to it in new extents. -/
def CabEntry.published (e : CabEntry) (len : Nat) (x : Option Nat) (sort : SortSt) (ver : Nat) : CabEntry :=
  { e with ext := x, len := len, cap := e.capFor len, sort := sort, ver := ver, roots := [] }

/-- R126, R166, R228: what an edit makes of an entry, which still is of the generation named: rpub publishes an open
run only, rclose closes any, rmark marks an open empty run only. -/
def CabEntry.edited (e : CabEntry) (x : REdit) : CabEntry :=
  match x with
  | .state .published => if e.st = .opened then { e with st := .published } else e
  | .state st => { e with st := st }
  | .mark comp tol tabs et sz tv =>
    if e.st = .opened ∧ e.len = 0 then
      { e with comp := comp, tol := tol, tabs := tabs, etype := et, esz := sz, tval := tv, roots := [] }
    else e
  | .spill q => { e with spillOf := some q, len := 0, sort := .unsorted }

/-- R123, R131: whether a held-back change that names a generation still finds its run. -/
def CabEntry.isGen (e : CabEntry) (gen : BitVec 16) : Bool := e.live && e.gen == gen

/-- R130, R131: what one held-back change makes of an entry; a store to extents since replaced, and a change to a
run whose index has been reused, change nothing. -/
def WOp.apply (idx : Nat) (r : Option CabEntry) (o : WOp) : Option CabEntry :=
  match o with
  | .newRun i e => if i = idx then some e else r
  | .edit i g x => if i = idx then r.map fun e => if e.isGen g then e.edited x else e else r
  | .store i x _ _ off bs =>
    if i = idx then r.map fun e => if e.ext = x then e.stored (off + bs.length) else e else r
  | .publish i g len x sort =>
    if i = idx then r.map fun e => if e.isGen g then e.published len x sort (e.ver + 1) else e else r
  | .spad _ _ => r

/-- A context's own entry with its data. -/
def State.globalRun (s : State) (ctx : BitVec 16) (idx : Nat) : Option (CabEntry × Mem) :=
  match s.ctxOf ctx with
  | none => none
  | some c =>
    match kvGet c.cab idx with
    | none => none
    | some e => some (e, s.entryData e)

/-- R35, R131: an entry as a crew sees it, with the data of its extents: a speculative task sees its own
provisional changes. -/
def State.runOf (s : State) (c : Crew) (idx : Nat) : Option (CabEntry × Mem) :=
  (c.heldBack.foldl (WOp.apply idx) ((s.globalRun c.ctx idx).map Prod.fst)).map fun e => (e, s.entryData e)

/-- R123, R136: the run a handle names; the index of a closed run keeps its entry until it is reused. -/
def State.handle (s : State) (h : Word) : R (Nat × CabEntry × Mem) :=
  let idx := h.toNat % 65536
  let gen := BitVec.ofNat 16 (h.toNat / 65536)
  if h.toNat / 2 ^ 32 ≠ 0 ∨ idx = 0 then fltAt fltRunHandle 0 h
  else
    match s.runOf s.crew idx with
    | none => fltAt fltRunHandle 0 h
    | some (e, d) => if (e.live || e.st == .closed) && e.gen == gen then .ok (idx, e, d) else fltAt fltRunHandle 0 h

/-- R126: whether a context of an owner may read the run. -/
def CabEntry.mayRead (e : CabEntry) (owner : BitVec 10) : Bool :=
  match e.st with
  | .opened => e.owner == owner && e.shared.isNone
  | .published => true
  | .closed => false

/-- R126, R166, R308: whether a context of an owner may write the run. -/
def CabEntry.mayWrite (e : CabEntry) (owner : BitVec 10) : Bool :=
  match e.st with
  | .opened => e.owner == owner && e.shared.isNone && e.spillOf.isNone
  | _ => false

/-- The handle word of an entry (R123). -/
def handleWord (gen : BitVec 16) (idx : Nat) : Word := BitVec.ofNat 64 (gen.toNat * 65536 + idx)

/-- Hold back a change of a speculative task. -/
def State.journal (s : State) (o : WOp) : State :=
  s.modCrew fun c => { c with spec := c.spec.map fun sp => { sp with journal := sp.journal ++ [o] } }

/-- R308, R309: the bytes of backing that a context's swappable queues take. -/
def Ctx.queueBacking (c : Ctx) : Nat :=
  ((c.bureau.filter fun p => p.2.live && !p.2.res && p.2.launchQ.isNone).map fun p => p.2.quota.toNat * 1024).sum

/-- R309, R311: bytes a context's pools supply, less what its extents, provisional ones included, and its
swappable queues take. -/
def State.poolLeft (s : State) (ctx : BitVec 16) : Nat :=
  match s.ctxOf ctx with
  | none => 0
  | some c => (c.pools.map Prod.snd).sum - ((s.exts.filter fun x => x.ctx == ctx).map Extent.bytes).sum - c.queueBacking

/-- R16: the bytes of one vertical channel. -/
def channelBytes : Nat := 0xC0000000

/-- R16, R125: the bytes of extents that lie in channel `ch` of a die: all of a LOCAL run's in the channel of its
home core, a STRIPED run's by stripes of 8,192 bytes from that channel on. -/
def Extent.inChannel (x : Extent) (die : BitVec 2) (ch : Nat) : Nat :=
  if x.die ≠ die then 0
  else if x.place then (x.bytes / 8192 + 31 - (ch + 32 - x.home.toNat) % 32) / 32 * 8192
  else if x.home.toNat = ch then x.bytes else 0

/-- R16, R125: whether every channel of its die can hold extents beside those that stand there. -/
def State.channelsHold (s : State) (x : Extent) : Bool :=
  (List.range 32).all fun ch => decide (((x :: s.exts).map fun y => y.inChannel x.die ch).sum ≤ channelBytes)

/-- What is left of address ranges [lo, hi) once one range is taken out. -/
def cutRange (l : List (Nat × Nat)) (u : Nat × Nat) : List (Nat × Nat) :=
  ((l.map fun r => [(r.1, Nat.min r.2 u.1), (Nat.max r.1 u.2, r.2)]).flatten).filter fun r => decide (r.1 < r.2)

/-- R311, R358: the whole pages that a context's pools have free: no extents hold them and none is withdrawn. -/
def State.poolFree (s : State) (ctx : BitVec 16) (pg : Nat) : List (Nat × Nat) :=
  match s.ctxOf ctx with
  | none => []
  | some c =>
    let used := ((s.exts.map fun x => x.parts.map fun p => (p.1, p.1 + p.2)).flatten) ++
      s.withdrawn.map fun f => (f * 65536, f * 65536 + 65536)
    let free := used.foldl cutRange (c.pools.map fun p => (p.1, p.1 + p.2))
    (free.map fun r => ((r.1 + pg - 1) / pg * pg, r.2 / pg * pg)).filter fun r => decide (r.1 < r.2)

/-- Parts of free ranges for `n` bytes, or none when they are too few. -/
def takeParts : Nat → List (Nat × Nat) → Option (List (Nat × Nat))
  | n, [] => if n = 0 then some [] else none
  | n, (a, b) :: r =>
    if n = 0 then some []
    else (takeParts (n - Nat.min n (b - a)) r).map fun l => (a, Nat.min n (b - a)) :: l

/-- R134, R311: fresh extents of whole pages for `bytes` bytes with the given content, from the pages of the
context's pools; which of them is free (log 9). -/
def State.newExt (s : State) (ctx : BitVec 16) (e : CabEntry) (bytes : Nat) (data : Mem) :
    Option (Option Nat × State) :=
  if bytes = 0 then some (none, s)
  else
    let id := s.fresh
    let pg := e.pageBytes
    let owner := s.ownerOf ctx
    let free := s.poolFree ctx pg
    let k := (Config.extentPa id).toNat % (free.length + 1)
    match takeParts bytes (free.drop k ++ free.take k) with
    | none => none
    | some parts =>
      let x : Extent :=
        { id := id, ctx := ctx, slot := owner
          epoch := (match s.keys.find? fun k => k.slot == owner with | some k => k.epoch | none => 0)
          beats := [], va := BitVec.ofNat 56 ((Config.extentVa id).toNat * 65536 / pg * pg), parts := parts
          bytes := bytes, die := e.die, home := e.home, place := e.place, data := data }
      if bytes ≤ s.poolLeft ctx ∧ s.channelsHold x then some (some id, { s with fresh := id + 1, exts := x :: s.exts })
      else none

/-- R327: the crews that stand in save areas. -/
def State.savedCrews (s : State) : List Crew := (s.ctxs.map fun c => c.saved.map SavedCrew.kept).flatten

/-- R34-R36: the crews that run, those that are saved and those of tasks that have retired and not yet become the
oldest. -/
def State.crewsHeld (s : State) : List Crew := s.crews.map Prod.fst ++ s.savedCrews ++ s.tasks.filterMap TTask.kept

/-- R35, R129, R131: whether a held-back change has taken extents or is bound to them. -/
def WOp.takes (id : Nat) : WOp → Bool
  | .publish _ _ _ x _ => x == some id
  | .newRun _ e => e.ext == some id
  | .store _ x _ _ _ _ => x == some id
  | _ => false

/-- The extents something still refers to (R128): an entry, a bound operation, an unperformed store, or a change
that a speculative task holds back (R35). -/
def State.extUsed (s : State) (id : Nat) : Bool :=
  s.ctxs.any (fun c => c.cab.any fun p => p.2.ext == some id) ||
  s.ops.any (fun o => match o.kind with
    | .run _ _ srcs _ _ _ => srcs.any fun b => b.ext == some id
    | .cpy _ b _ _ | .cpyd _ b _ _ => b.ext == some id
    | _ => false) ||
  s.crews.any (fun p => p.2.any fun t => t.unperf.any fun u => u.ext == some id) ||
  s.crewsHeld.any fun c => c.heldBack.any (WOp.takes id)

/-- R128: extents nothing refers to are reclaimed. -/
def State.reclaim (s : State) : State := { s with exts := s.exts.filter fun x => s.extUsed x.id }

/-- R114, R120: whether an instruction streams a run, and whether it writes it. -/
def VIns.streams : VIns → Option Bool
  | .ins (.vld _ _ b _ _) | .ins (.vldff _ _ b _ _) => if b == .s 0 then none else some false
  | .ins (.vst _ _ b _ _) => if b == .s 0 then none else some true
  | .ins (.wbind _ _ _) => some false
  | _ => none

/-- Whether a pending operation refers to an entry, or a stream that waits in a queue (R126). -/
def State.opNames (s : State) (ctx : BitVec 16) (idx : Nat) : Bool :=
  (s.ops.any fun o => o.ctx == ctx &&
    (match o.kind with
     | .run _ dsts srcs _ _ _ => dsts.contains idx || srcs.any fun b => b.idx == idx
     | .cpy _ b _ _ | .cpyd _ b _ _ => b.idx == idx
     | _ => false)) ||
  s.crews.any fun p => p.1.ctx == ctx && p.2.any fun t => t.vq.any fun e =>
    e.ins.streams.isSome && e.runBad.isNone && e.sB.toNat % 65536 == idx

/-- R126: a closed entry that no pending operation and no queued stream refers to is free. -/
def State.freed (s : State) (ctx : BitVec 16) (p : Nat × CabEntry) : Nat × CabEntry :=
  if p.2.live && p.2.st == .closed && !s.opNames ctx p.1 then
    (p.1, { p.2 with live := false, ext := none, len := 0, cap := 0 })
  else p

/-- R308: a shared entry whose source is closed or gone is CLOSED too. -/
def State.closedShare (s : State) (p : Nat × CabEntry) : Nat × CabEntry :=
  match p.2.shared with
  | none => p
  | some (c, i) =>
    match s.globalRun c i with
    | some (e, _) => if e.live && e.st == .published && e.ext == p.2.ext then p else (p.1, { p.2 with st := .closed })
    | none => (p.1, { p.2 with st := .closed })

/-- R126, R128: closed entries that no pending operation refers to become free, and extents nothing refers
to are reclaimed. -/
def State.freeClosed (s0 : State) : State :=
  let s : State := { s0 with ctxs := s0.ctxs.map fun (c : Ctx) => { c with cab := c.cab.map s0.closedShare } }
  ({ s with ctxs := s.ctxs.map fun (c : Ctx) => { c with cab := c.cab.map (s.freed c.ctx) } }).reclaim

/-- R128, R229: replace an entry's extents by fresh ones holding `data`, in one atomic publish; the old extents stay
until they are reclaimed. -/
def State.publish (s : State) (ctx : BitVec 16) (idx len : Nat) (sort : SortSt) (data : Mem) :
    Option State :=
  match s.globalRun ctx idx with
  | none => none
  | some (e, _) =>
    match s.newExt ctx e (e.capFor len * e.recSize) data with
    | none => none
    | some (x, s1) =>
      let s2 := s1.setEntry ctx idx (e.published len x sort s1.fresh)
      some (match x with
        | some i => s2.shareBlocks i 0 (len * e.recSize)
        | none => s2)

/-! ## Conflict detection between timestamped tasks (R36, R273) -/

/-- Whether two ranges of one target overlap. -/
def ILock.overlaps (a : ILock) (t : IlTarget) (lo hi : Nat) : Bool :=
  a.target == t && decide (a.lo < hi) && decide (lo < a.hi)

/-- The place of a task in its die's commit order. -/
def State.taskPos (s : State) (id : Nat) : Nat := (s.tasks.takeWhile fun t => t.id != id).length

/-- R36: ranges a table of 32 entries can no longer take. -/
def Spec.full (sp : Spec) : Bool := decide (Config.ilockEntries ≤ sp.reads.length + sp.writes.length)

/-- R34-R36: the crews of the other uncommitted timestamped tasks: those that run, with their threads, those that are
saved and those that have retired. -/
def State.rivals (s : State) : List (Crew × List Thread) :=
  s.others ++ (s.savedCrews ++ s.tasks.filterMap TTask.kept).map fun c => (c, [])

/-- Whether a store that a thread has made to a range has yet to perform (R254, R255). -/
def Thread.owes (t : Thread) (tg : IlTarget) (lo hi : Nat) : Bool :=
  t.unperf.any (fun u => u.target == tg && u.cells.any fun c => decide (c.1 < hi) && decide (lo < c.1 + c.2.length)) ||
    (match t.held, tg with
     | some h, .spad _ => decide (h.addr.toNat < hi) && decide (lo < h.addr.toNat + h.bytes.length)
     | _, _ => false)

/-- R36, R273: whether a pending transfer of a crew is still to write a range. -/
def State.opOwes (s : State) (c : Crew) (tg : IlTarget) (lo hi : Nat) : Bool :=
  c.ilock.any fun w => w.write && w.overlaps tg lo hi && (match w.op with | some i => s.ops.any fun o => o.id == i | none => false)

/-- R36: a read of a timestamped task: it waits for the writes of earlier tasks that are not published, or, of
the oldest, not yet performed or transferred; and its range is recorded. -/
def State.specRead (s : State) (t : IlTarget) (lo hi : Nat) : R State :=
  match s.crew.spec with
  | none => .ok s
  | some sp =>
    if s.rivals.any fun p => match p.1.spec with
        | some e => p.1.die == s.crew.die && decide (s.taskPos e.task < s.taskPos sp.task) &&
            e.writes.any (fun w => w.overlaps t lo hi) && (!e.oldest || s.opOwes p.1 t lo hi || p.2.any fun u => u.owes t lo hi)
        | none => false
    then stall .commit
    else if !sp.oldest && sp.full then stall .oldest
    else .ok (s.modCrew fun c => { c with spec := some { sp with
      reads := { target := t, lo := lo, hi := hi, write := false, owner := s.thr.idx, op := none } :: sp.reads } })

/-- R36: the later tasks that a write of this task aborts. -/
def State.readersAfter (s : State) (t : IlTarget) (lo hi : Nat) : List Nat :=
  match s.crew.spec with
  | none => []
  | some sp =>
    s.rivals.filterMap fun p => match p.1.spec with
      | some l =>
        if p.1.die == s.crew.die && decide (s.taskPos sp.task < s.taskPos l.task) &&
            l.reads.any (fun r => r.overlaps t lo hi) then some l.task else none
      | none => none

/-- R36: record a write of a timestamped task. -/
def State.specWrite (s : State) (t : IlTarget) (lo hi : Nat) : R State :=
  match s.crew.spec with
  | none => .ok s
  | some sp =>
    if !sp.oldest && sp.full then stall .oldest
    else .ok (s.modCrew fun c => { c with spec := some { sp with
      writes := { target := t, lo := lo, hi := hi, write := true, owner := s.thr.idx, op := none } :: sp.writes } })

/-- R37: an access that a speculative task may make only once it is the oldest. -/
def State.oldestOnly (s : State) : R Unit := await (!s.crew.speculating) .oldest

/-! ## The scratchpad -/

/-- The package's key of a scratchpad byte (R331 lays the cores out so). -/
def spadKey (core addr : Nat) : Nat := core * Config.spadStride + addr

/-- R115, R313: bytes of a scratchpad as a reader of an owner sees them: a line of another tag reads as
zero. The range is taken line by line. -/
def State.spadGo (s : State) (owner : BitVec 10) : Nat → Nat → Nat → List Byte
  | 0, _, _ => []
  | fuel + 1, k, n =>
    if n = 0 then []
    else
      let m := Nat.min n (64 - k % 64)
      (if s.spadTag.get (k / 64) = owner then s.spad.bytes k m else List.replicate m 0) ++
        s.spadGo owner fuel (k + m) (n - m)

/-- Bytes of a core's scratchpad. -/
def State.spadBytes (s : State) (core : Nat) (owner : BitVec 10) (addr n : Nat) : List Byte :=
  s.spadGo owner (n / 64 + 2) (spadKey core addr) n

/-- R313: write bytes of one scratchpad: a line of another tag is zeroed first and takes the writer's
tag. The range is taken line by line. -/
def State.spadPutGo (owner : BitVec 10) : Nat → Nat → List Byte → State → State
  | 0, _, _, s => s
  | fuel + 1, k, bs, s =>
    if bs.isEmpty then s
    else
      let m := 64 - k % 64
      let s1 : State :=
        if s.spadTag.get (k / 64) = owner then { s with spad := s.spad.put k (bs.take m) }
        else { s with
          spad := Mem.put (SMap.clear (n := 8) s.spad (k / 64 * 64) (k / 64 * 64 + 64)) k (bs.take m)
          spadTag := s.spadTag.write (k / 64) [owner] }
      State.spadPutGo owner fuel (k + m) (bs.drop m) s1

/-- Write bytes of a core's scratchpad. -/
def State.spadPut (s : State) (core : Nat) (owner : BitVec 10) (addr : Nat) (bs : List Byte) : State :=
  State.spadPutGo owner (bs.length / 64 + 2) (spadKey core addr) bs s

/-- Bytes laid over others where the two ranges meet. -/
def patched (a : Nat) (bs : List Byte) (x : Nat) (v : List Byte) : List Byte :=
  if x < a + bs.length ∧ a < x + v.length then
    let mid := (v.drop (a - x)).take (bs.length - (x - a))
    bs.take (x - a) ++ mid ++ bs.drop (x - a + mid.length)
  else bs

/-- R35: bytes of extents from an offset on with the stores that a speculative task holds back. -/
def overlayRun (js : List WOp) (x : Option Nat) (off : Nat) (bs : List Byte) : List Byte :=
  js.foldl (fun b o => match o with | .store _ y _ _ a v => if y = x then patched off b a v else b | _ => b) bs

/-- R35, R259: scratchpad bytes with the stores that a speculative task holds back. -/
def overlay (js : List WOp) (a : Nat) (bs : List Byte) : List Byte :=
  js.foldl (fun b o => match o with | .spad x v => patched a b x v | _ => b) bs

/-- Scratchpad bytes as a crew sees them: a speculative task sees its own stores. -/
def State.spadSeen (s : State) (c : Crew) (a n : Nat) : List Byte :=
  overlay c.heldBack a (s.spadBytes c.coreIx (s.ownerOf c.ctx) a n)

/-- Scratchpad bytes that the crew that issues reads. -/
def State.spadRead (s : State) (a n : Nat) : List Byte := s.spadSeen s.crew a n

/-- R35: a crew's speculative task holds back a change, also while the crew stands in a save area (R322) or has
retired. -/
def State.journalOf (s : State) (id : Nat) (x : WOp) : State :=
  let add (d : Crew) : Crew := if d.id = id then { d with spec := d.spec.map fun sp => { sp with journal := sp.journal ++ [x] } } else d
  if s.crews.any fun p => p.1.id == id then s.mapCrews add
  else { s with
    ctxs := s.ctxs.map fun (c : Ctx) => { c with saved := c.saved.map fun (a : SavedCrew) => { a with kept := add a.kept } }
    tasks := s.tasks.map fun (t : TTask) => { t with kept := t.kept.map add } }

/-- R35, R259: a crew writes its core's scratchpad; a speculative task holds the bytes back. -/
def State.spadMade (s : State) (c : Crew) (a : Nat) (bs : List Byte) : State :=
  if c.speculating then s.journalOf c.id (.spad a bs)
  else s.spadPut c.coreIx (s.ownerOf c.ctx) a bs

/-- The crew that issues writes its core's scratchpad. -/
def State.spadWrite (s : State) (a : Nat) (bs : List Byte) : State :=
  if s.crew.speculating then s.journal (.spad a bs) else s.spadPut s.crew.coreIx s.owner a bs

/-- The crew of an operation, on a core or in a save area. -/
def State.opCrew (s : State) (o : Op) : Option Crew := s.crewsHeld.find? fun c => c.id == o.crew

/-- Scratchpad bytes that an operation reads. -/
def State.opSpad (s : State) (o : Op) (a n : Nat) : List Byte :=
  match s.opCrew o with
  | some c => s.spadSeen c a n
  | none => s.spadBytes o.core o.owner a n

/-- An operation writes the scratchpad. -/
def State.opSpadPut (s : State) (o : Op) (a : Nat) (bs : List Byte) : State :=
  match s.opCrew o with
  | some c => s.spadMade c a bs
  | none => s.spadPut o.core o.owner a bs

/-- The state codes of R317. -/
def BufSt.code : BufSt → Nat
  | .empty => 1 | .filling => 2 | .full => 3 | .draining => 4

/-- R214: the declared buffer of an id, for a context on a core. -/
def State.buf? (s : State) (core : Nat) (ctx : BitVec 16) (id : Nat) : Option Buf :=
  s.bufs.find? fun b => b.core == core && b.ctx == ctx && b.id == id

/-- R215: a state fault, with the id and the state. -/
def bufFault {α : Type} (b : Option Buf) (id : Nat) (addr : Word) : R α :=
  .error (.trap { code := fltBufState, addr := addr, obj := BitVec.ofNat 64 id
                  value := BitVec.ofNat 64 (match b with | some x => x.st.code | none => 0) })

/-- R215: the first buffer of a context in a table that an access meets in a state that forbids it. -/
def bufBadIn (bufs : List Buf) (core : Nat) (ctx : BitVec 16) (addr n : Nat) (write : Bool) : Option Buf :=
  bufs.find? fun b => b.core == core && b.ctx == ctx && decide (addr < b.base + b.size) &&
    decide (b.base < addr + n) &&
    (match b.st with
     | .full => false
     | .empty => !write
     | _ => true)

/-- R215: the first buffer of the context that an access meets now in a state that forbids it. -/
def State.bufBad (s : State) (core : Nat) (ctx : BitVec 16) (addr n : Nat) (write : Bool) : Option Buf :=
  bufBadIn s.bufs core ctx addr n write

/-- R114, R215: check a program access to the scratchpad. -/
def State.spadCheck (s : State) (a : Word) (n : Nat) (write : Bool) : R Unit :=
  if a.toNat / 2 ^ 22 ≠ 0 then fltAt fltOperand a 0
  else if a.toNat + n > Config.spadBytes then fltAt fltSpadRange a 0
  else if n = 0 then .ok ()
  else
    match s.bufBad s.crew.coreIx s.crew.ctx a.toNat n write with
    | some b => bufFault (some b) b.id a
    | none => .ok ()

/-- Change a buffer. -/
def State.setBuf (s : State) (b : Buf) : State :=
  { s with bufs := s.bufs.map fun x =>
      if x.core = b.core ∧ x.ctx = b.ctx ∧ x.id = b.id then b else x }

/-- R348: whether a watchpoint of the context covers an access: to the scratchpad, or a store or atomic to
a signal word. -/
def State.watched (s : State) (sig write : Bool) (a n : Nat) : Bool :=
  match s.ctxOf s.crew.ctx with
  | none => false
  | some c =>
    c.dbg.isSome && c.brks.any fun b =>
      if sig then b.kind == 4 && b.addr.toNat / 8 == a / 8
      else (b.kind == 3 || (b.kind == 2 && write)) && decide (a < b.addr.toNat + b.len.toNat) &&
        decide (b.addr.toNat < a + n)

/-- R349: a watch hit stops the thread at the access, which does not perform. -/
def State.watch (s : State) (sig write : Bool) (a n : Nat) (elem : Option Nat) : R Unit :=
  if s.watched sig write a n then .error (.watch elem) else .ok ()

/-! ## Signal space and host memory -/

/-- R238: the key of a signal byte within the package. -/
def sigKey (a : Word) : Nat := a.toNat % 2 ^ 23

/-- R238: the package a signal address names. -/
def sigPkg (a : Word) : BitVec 9 := a.extractLsb' 23 9

/-- R238: whether the line of a signal address is allocated to a context of an owner; of another package, which
lines those are is free (log 1). -/
def State.sigMine (s : State) (owner : BitVec 10) (a : Word) : Bool :=
  if sigPkg a = s.pkg then
    match kvGet s.sigOwn (sigKey a / 64) with
    | some c => (s.ctxOf c).isSome && s.ownerOf c == owner
    | none => false
  else Config.remoteLine s.stepNo owner a

/-- R237: whether a signal address can be reached. -/
def State.sigReach (s : State) (a : Word) : Bool :=
  sigPkg a == s.pkg || (decide (2 ≤ s.stage.toNat) && s.fabric.contains (sigPkg a))

/-- R237: the space of an address. -/
def spaceOf (a : Word) : Nat := a.toNat / 2 ^ 62

/-- R237: the bits a space marks 0. -/
def addrOk (a : Word) : Bool :=
  match spaceOf a with
  | 0 => a.toNat / 2 ^ 22 == 0
  | 1 => a.toNat % 2 ^ 62 / 2 ^ 32 == 0
  | 2 => a.toNat % 2 ^ 62 / 2 ^ 56 == 0
  | _ => false

/-- R237: whether the IOMMU refuses an access to host memory. -/
def State.hostRefuses (s : State) (a n : Nat) : Bool :=
  s.hostDenied.any fun r => decide (a < r.2) && decide (r.1 < a + n)

/-- R237, R331: the place of a host address under the PASID of a context, each with a space of its own; the
driver's own addresses stand below all of them (log 71). -/
def hostAddr (ctx : BitVec 16) (a : Word) : Nat := (ctx.toNat + 1) * 2 ^ 56 + a.toNat % 2 ^ 56

/-- R237: whether an access of the crew that issues to host memory fails: the IOMMU refuses it or PCIe has an
error. -/
def State.hostBad (s : State) (a : Word) (n : Nat) : Bool :=
  s.hostRefuses (hostAddr s.crew.ctx a) n || Config.pcieError s.stepNo

/-- The bytes of an own-package signal word or part. -/
def State.sigBytes (s : State) (a : Word) (n : Nat) : List Byte := s.sig.bytes (sigKey a) n

/-- A new free value of the environment. -/
def State.drawn (s : State) : State := { s with draw := s.draw + 1 }

/-- R237-R239: the value of `n` bytes at a scalar address that has passed its checks, and the state
after the access. A word of another package is outside the model (log 1). -/
def State.peekRaw (s : State) (a : Word) (n : Nat) : Nat × State :=
  match spaceOf a with
  | 0 => (leNat (s.spadRead a.toNat n), s)
  | 1 =>
    if !s.sigMine s.owner a then (0, s)
    else if sigPkg a = s.pkg then (leNat (s.sigBytes a n), s)
    else ((Config.remoteWord s.draw).toNat % 2 ^ (8 * n), s.drawn)
  | _ => (s.host.nat (hostAddr s.crew.ctx a) n, s)

/-- The state after `n` bytes are stored at a scalar address that has passed its checks. -/
def State.pokeRaw (s : State) (a : Word) (bs : List Byte) : State :=
  match spaceOf a with
  | 0 => s.spadWrite a.toNat bs
  | 1 => if sigPkg a = s.pkg then { s with sig := s.sig.put (sigKey a) bs } else s
  | _ => { s with host := s.host.put (hostAddr s.crew.ctx a) bs }

/-! ## Routes (R62, R232) -/

/-- R232: whether a route has a relay leg. -/
def Route.relays (r : Route) : Bool := r.leg0 == .relay || r.leg1 == .relay || r.leg2 == .relay

/-- R236, R302: coordinate `k` of a place on the 8 × 8 × 8 torus: X, Y, Z. -/
def coord (c : BitVec 9) (k : Nat) : Nat := c.toNat / 8 ^ k % 8

/-- R62: the place one hop away in a direction: +X, −X, +Y, −Y, +Z, −Z. -/
def hopFrom (c : BitVec 9) (dir : Nat) : BitVec 9 :=
  let k := dir / 2
  let v := (coord c k + (if dir % 2 = 0 then 1 else 7)) % 8
  BitVec.ofNat 9 (c.toNat - coord c k * 8 ^ k + v * 8 ^ k)

/-- R62: the directions of the hops of a leg. -/
def Leg.hops : Leg → List Nat
  | .hop d n => List.replicate (n.val + 1) d.val
  | _ => []

/-- R62, R232: the hops of a route up to its relay leg. -/
def Route.hops (r : Route) : List Nat :=
  let l := [r.leg0, r.leg1, r.leg2]
  ((l.takeWhile fun x => x != .relay).map Leg.hops).flatten

/-- R62: whether a route ends at this package: `self`, or hops that lead round the torus to it. -/
def State.endsHere (s : State) (r : Route) : Bool :=
  !Route.relays r && (Route.hops r).foldl hopFrom s.xyz == s.xyz

/-- R10: the ports of a direction; four each, in its order (PRESUMED, log 65). -/
def portsOf (dir : Nat) : List (Fin 24) := (List.finRange 24).filter fun p => p.val / 4 == dir

/-- R10, R359: the first port of a direction that is in service. -/
def State.portFor (s : State) (dir : Nat) : Option (Fin 24) :=
  (portsOf dir).find? fun p => s.ports[p].trained && !s.ports[p].retired

/-- R236: the package at a place. -/
def State.pkgOf (s : State) (c : BitVec 9) : BitVec 9 := if c = s.xyz then s.pkg else Config.pkgAt c

/-- R236: whether the link from a place in a direction is in service. -/
def State.linkUp (s : State) (c : BitVec 9) (dir : Nat) : Bool :=
  if c = s.xyz then (s.portFor dir).isSome else !s.badLinks.contains (s.pkgOf c, dir)

/-- R236, R302: whether every link and package of a path is in service. -/
def State.pathOk (s : State) : BitVec 9 → List Nat → Bool
  | _, [] => true
  | c, d :: r => s.linkUp c d && s.fabric.contains (s.pkgOf (hopFrom c d)) && s.pathOk (hopFrom c d) r

/-- R302: the leg that covers the ring distance, in −3 to +4, from a place to a target in one dimension; none where
they agree. -/
def legTo (c t : BitVec 9) (k : Nat) : Option Leg :=
  match (coord t k + 8 - coord c k) % 8 with
  | 0 => none
  | d => some (if d ≤ 4 then .hop (Fin.ofNat 6 (2 * k)) (Fin.ofNat 8 (d - 1)) else .hop (Fin.ofNat 6 (2 * k + 1)) (Fin.ofNat 8 (7 - d)))

/-- R302: the dimension orders, in the order in which they are tried. -/
def dimOrders : List (List Nat) := [[0, 1, 2], [0, 2, 1], [1, 0, 2], [1, 2, 0], [2, 0, 1], [2, 1, 0]]

/-- R302: the route to a place by one order of dimensions. -/
def routeBy (c t : BitVec 9) (order : List Nat) : Route :=
  let l := order.filterMap (legTo c t)
  { leg0 := l.getD 0 .null, leg1 := l.getD 1 .null, leg2 := l.getD 2 .null }

/-- R302: the route to a place by the first order whose every link and package is in service. -/
def State.routeTo (s : State) (t : BitVec 9) : Option Route :=
  (dimOrders.map (routeBy s.xyz t)).find? fun r => s.pathOk s.xyz (Route.hops r)

/-! ## The vector registers -/

/-- The key of a byte of a context's register: physical register, then the lane groups held (R31). -/
def vKey (c : Crew) (t : Thread) (reg byte : Nat) : Nat :=
  ((partOf c t.role).1 + reg) * 131072 + t.lgBase.toNat * (c.mvl.toNat / 4) + byte

/-- The first `n` bytes of a register of the thread's own part. -/
def State.vBytes (s : State) (reg n : Nat) : List Byte := s.crew.vregs.bytes (vKey s.crew s.thr reg 0) n

/-- Bytes written into a register from a byte on; poison of a word that is written whole ends. -/
def State.vPut (s : State) (reg byte : Nat) (bs : List Byte) : State :=
  s.modCrew fun c => { c with vregs := c.vregs.put (vKey c s.thr reg byte) bs }

/-- R43: a register code within the thread's own part. -/
def State.vOk (s : State) (reg : Nat) : Bool := decide (reg < (partOf s.crew s.thr.role).2)

/-- R25: whether the role may read a ring as a source. -/
def ringReadable (r : Role) (k : Fin 8) : Bool :=
  match r with
  | .computer => decide (k.val < 4)
  | .storer => decide (4 ≤ k.val)
  | _ => false

/-- R25: whether the role may write a ring. -/
def ringWritable (r : Role) (k : Fin 8) : Bool :=
  match r with
  | .loader => decide (k.val < 4)
  | .computer => decide (4 ≤ k.val)
  | _ => false

/-- R25: a ring's writer and reader. -/
def ringWriter (k : Fin 8) : Role := if k.val < 4 then .loader else .computer
def ringReader (k : Fin 8) : Role := if k.val < 4 then .computer else .storer

/-- R102: whether a thread of a role has retired. -/
def State.roleRetired (s : State) (r : Role) : Bool :=
  (s.thr :: s.mates).all fun t => t.role != r || t.life == .retired

end Sys2Proof.Machine
end

