-- ==== Sys2Proof/Machine/Ops.lean ====
section
/-! DEFINITION. The shared operations over crews: tokens, grants, replay and trace records, performing
held-back accesses, starting and retiring a task, killing a context, saving and restoring a crew,
taking a fault and returning from its handler, and the way a meaning ends. -/

namespace Sys2Proof.Machine

/-! ## Event counters (R339-R341) -/

/-- R339: a thread's slot within its core, in the order of crew slot, role and forked context. -/
def threadSlot (c : Crew) (t : Thread) : Nat := c.slot.toNat * 4 + t.idx

/-- R339: the unassigned events of a core. -/
def coreUnassigned (e : Nat) : Bool :=
  (decide (180 ≤ e) && decide (e ≤ 183)) || (decide (194 ≤ e) && decide (e ≤ 199)) || (decide (212 ≤ e) && decide (e ≤ 215)) ||
    e == 231 || e == 247 || (decide (258 ≤ e) && decide (e ≤ 263))

/-- R339: whether a unit has an event assigned. -/
def eventOk (unit ev : Nat) : Bool :=
  if unit < 128 then decide (ev < 264) && !coreUnassigned ev
  else if unit < 132 then
    (if ev < 64 then decide (ev % 16 < 5) else if ev < 320 then true else decide (ev < 326))
  else if unit < 134 then
    (if ev < 192 then decide (ev % 16 < 6) else decide (ev < 198))
  else false

/-- R340: a counter at reset. -/
def Counter.init (unit : BitVec 8) (ev : BitVec 9) : Counter :=
  { unit := unit, ev := ev, cnt := 0, base := 0, carry := 0, reload := 0, ctx := 0, filt := false, sample := false, total := 0 }

/-- The counter of a unit and event. -/
def State.counter (s : State) (unit : BitVec 8) (ev : BitVec 9) : Counter :=
  (s.counters.find? fun c => c.unit == unit && c.ev == ev).getD (Counter.init unit ev)

/-- The place of a counter in the list. -/
def Counter.key (c : Counter) : Nat := c.unit.toNat * 512 + c.ev.toNat

/-- Put a counter back; counters stand in rising order. -/
def putCounter (c : Counter) : List Counter → List Counter
  | [] => [c]
  | x :: r => if c.key = x.key then c :: r else if c.key < x.key then c :: x :: r else x :: putCounter c r

/-- Put a counter back. -/
def State.setCounter (s : State) (c : Counter) : State := { s with counters := putCounter c s.counters }

/-- R341: an increment that wraps a counter, and again each time that what is left over passes 2^32. -/
def Counter.wrap (c : Counter) (x : Nat) : Counter :=
  let span := 2 ^ 32 - c.reload.toNat
  let y := x - 2 ^ 32
  { c with
    cnt := BitVec.ofNat 32 (c.reload.toNat + y % span)
    carry := c.carry + BitVec.ofNat 16 (1 + y / span) }

/-- R341: an increment; whether the counter wraps. -/
def Counter.add (c : Counter) (i : Nat) : Counter × Bool :=
  let x := c.cnt.toNat + i
  if 2 ^ 32 ≤ x then (c.wrap x, true) else ({ c with cnt := BitVec.ofNat 32 x }, false)

/-- R341: how many of the last units of an increment follow each wrap that it makes, the first wrap first. -/
def Counter.wraps (c : Counter) (i : Nat) : List Nat :=
  let x := c.cnt.toNat + i
  let span := 2 ^ 32 - c.reload.toNat
  if 2 ^ 32 ≤ x then (List.range (1 + (x - 2 ^ 32) / span)).map fun k => x - 2 ^ 32 - k * span else []

/-- Who makes an increment: the context, the core, the thread slot, the instruction's address and the first
element of its chunk. -/
structure Who where
  ctx : BitVec 16
  core : Nat
  slot : Nat
  pc : Word
  elem : Option Nat
  deriving DecidableEq, Repr

/-- R340: a core counter with FILT counts only what is attributed to its context; FILT is ignored for uncore
events. -/
def Counter.counts (c : Counter) (w : Option Who) : Bool :=
  !c.filt || decide (128 ≤ c.unit.toNat) || (match w with | some x => x.ctx == c.ctx | none => false)

/-- R55: a thread as an issuing one. -/
def whoOf (c : Crew) (t : Thread) : Who :=
  { ctx := c.ctx, core := c.coreIx, slot := threadSlot c t, pc := zext64 t.pc, elem := none }

/-- R339, R346: an event of a core that no sample record can follow: it counts the records themselves. -/
def State.tally (s : State) (core ev : Nat) (ctx : BitVec 16) : State :=
  let c := s.counter (BitVec.ofNat 8 core) (BitVec.ofNat 9 ev)
  if c.counts (some { ctx := ctx, core := core, slot := 0, pc := 0, elem := none }) then s.setCounter (c.add 1).1 else s

/-! ## Trace (R346, R347) -/

/-- R346: a record that finds no place is lost, and counted in the run and by event 246. -/
def State.traceLost (s : State) (g : TrcCfg) (ctx : BitVec 16) (core : Nat) : State :=
  match s.globalRun g.drv (g.run.toNat % 65536) with
  | some (e, d) =>
    (match e.ext with
     | some x => s.extPut x 8 (leBytes 8 ((d.word 8).toNat + 1))
     | none => s).tally core 246 ctx
  | none => s.tally core 246 ctx

/-- R347: the core that a queued record names. -/
def TraceRec.coreIx (r : TraceRec) : Nat := r.w0.toNat / 2 ^ 25 % 128

/-- R347: a record queued behind those of its core that are not later. -/
def TraceRec.queue (r : TraceRec) : List TraceRec → List TraceRec
  | [] => [r]
  | x :: l => if x.coreIx = r.coreIx ∧ r.w1.toNat < x.w1.toNat then r :: x :: l else x :: r.queue l

/-- R346, R347: queue a trace record of a context for a core and slot, of `back` cycles ago; a record that finds 64
waiting on its core is lost and counted. -/
def State.traceAt (s : State) (ctx : BitVec 16) (type core slot : Nat) (elem : Option Nat)
    (pc data : Word) (back : Nat := 0) : State :=
  match s.ctxOf ctx with
  | none => s
  | some c =>
    match c.trc with
    | none => s
    | some g =>
      if g.mask.getLsbD type then
        let w0 := type * 2 ^ 58 + ctx.toNat * 2 ^ 32 + core / 32 % 4 * 2 ^ 30 + core % 32 * 2 ^ 25 +
          slot % 16 * 2 ^ 21 + (match elem with | some e => 2 ^ 18 + e % 2 ^ 18 | none => 0)
        if (s.trace.filter fun r => r.coreIx == core).length < 64 then
          let r : TraceRec := { ctx := ctx, w0 := BitVec.ofNat 64 w0, w1 := BitVec.ofNat 64 (s.clk - back), w2 := pc, w3 := data }
          { s with trace := r.queue s.trace }
        else s.traceLost g ctx core
      else s

/-- A trace record of the thread that issues. -/
def State.trace1 (s : State) (type : Nat) (elem : Option Nat) (pc data : Word) : State :=
  s.traceAt s.crew.ctx type s.crew.coreIx (threadSlot s.crew s.thr) elem pc data

/-- R341, R347: the SAMPLE record of a wrap, which event 244 counts. An increment that no thread makes is recorded for
the context that the control word names (log 43). -/
def State.sampled (s : State) (c : Counter) (w : Option Who) (back : Nat) : State :=
  let x := w.getD { ctx := c.ctx, core := if c.unit.toNat < 128 then c.unit.toNat else 0, slot := 0, pc := 0, elem := none }
  (s.traceAt x.ctx 1 x.core x.slot x.elem x.pc (BitVec.ofNat 64 (c.unit.toNat * 2 ^ 8) ||| zext64 c.ev) back).tally x.core 244 x.ctx

/-- R341, R347: an event is counted, and each wrap with SAMPLE writes its record. Of the increments of several cycles,
one in each, those after a wrap are the cycles that have passed since. -/
def State.count (s : State) (unit : BitVec 8) (ev : BitVec 9) (i : Nat) (w : Option Who) (cyc : Bool := false) : State :=
  let c := s.counter unit ev
  if i = 0 ∨ !eventOk unit.toNat ev.toNat ∨ !c.counts w then s
  else
    let s1 := s.setCounter (c.add i).1
    if c.sample then (c.wraps i).foldl (fun s' k => s'.sampled c w (if cyc then k else 0)) s1 else s1

/-- R339: an event of a core. -/
def State.countCore (s : State) (core ev i : Nat) (w : Option Who) : State :=
  s.count (BitVec.ofNat 8 core) (BitVec.ofNat 9 ev) i w

/-- R339: cycles of a core that count in an event. -/
def State.countCycles (s : State) (core ev d : Nat) (w : Option Who) : State :=
  s.count (BitVec.ofNat 8 core) (BitVec.ofNat 9 ev) d w true

/-- R339: an event of the thread that issues. -/
def State.countThr (s : State) (ev : Nat) : State := s.countCore s.crew.coreIx ev 1 (some (whoOf s.crew s.thr))

/-- R339: an event of a die's dispatcher. -/
def State.countDie (s : State) (die : BitVec 2) (ev : Nat) : State :=
  s.count (BitVec.ofNat 8 (128 + die.toNat)) (BitVec.ofNat 9 ev) 1 none

/-- R360: the payload bytes of a flit, and the flits that a retry buffer holds. -/
def flitBytes : Nat := 240
def retryFlits : Nat := 256

/-- R360: the flits of a message. -/
def Msg.flits (m : Msg) : Nat := Nat.max 1 ((m.data.length + flitBytes - 1) / flitBytes)

/-- R360: the failures of the flit last NAKed end with its place in the retry buffer, since it has got through. -/
def Port.trim (x : Port) : Port :=
  if x.sent.any fun f => x.replayFrom == some f.seq then x else { x with replayFrom := none, txFails := 0 }

/-- R360: a port sends `n` flits with the payload `bs`, of which its retry buffer keeps the last. -/
def Port.sendFlits (x : Port) (msg : Option Nat) (n : Nat) (bs : List Byte) : Port :=
  let new := (List.range n).map fun i =>
    ({ seq := x.tx + BitVec.ofNat 12 i, msg := msg, bytes := (bs.drop (i * flitBytes)).take flitBytes } : Flit)
  let l := x.sent ++ new
  { x with tx := x.tx + BitVec.ofNat 12 n, sent := l.drop (l.length - retryFlits) }.trim

/-- R360: a port sends the flits of a message. -/
def Port.send (x : Port) (m : Msg) : Port := x.sendFlits (some m.id) m.flits m.data

/-- R339: an event of a Phonelos port. -/
def State.countPort (s : State) (p ev i : Nat) : State :=
  s.count (BitVec.ofNat 8 (132 + p / 12)) (BitVec.ofNat 9 (p % 12 * 16 + ev)) i none

/-- R361: a scalar access to a signal word of another package goes out on the default route, or the first order of R302
that is in service, as one flit; its payload is not said (log 40). -/
def State.sendScalar (s : State) (a : Word) : State :=
  let place := ((List.range 512).map (BitVec.ofNat 9)).find? fun c => s.pkgOf c == sigPkg a
  match (place.bind s.routeTo).map Route.hops with
  | some (d :: _) =>
    (match s.portFor d with
     | some p => { s with ports := s.ports.set p (s.ports[p].sendFlits none 1 []) }.countPort p.val 0 1
     | none => s)
  | _ => s

/-- R238, R339, R361: an access to a signal word: at an octet of this package it counts, 0 a read, 1 a write, 2 an
atomic; for another package it leaves over a port. -/
def State.sigEvent (s : State) (a : Word) (k : Nat) : State :=
  if spaceOf a = 1 then
    (if sigPkg a = s.pkg then s.countDie (a.extractLsb' 21 2) (16 * (a.extractLsb' 19 2).toNat + k) else s.sendScalar a)
  else s

/-- R239, R339: the value of `n` bytes at a scalar address that has passed its checks, and the state after the load. -/
def State.ldRaw (s : State) (a : Word) (n : Nat) : Nat × State :=
  let r := s.peekRaw a n
  (r.1, r.2.sigEvent a 0)

/-- R239, R339: the state after a store of bytes at a scalar address that has passed its checks. -/
def State.stRaw (s : State) (a : Word) (bs : List Byte) : State := (s.pokeRaw a bs).sigEvent a 1

/-- R346: write the oldest queued trace record into its context's trace run. -/
def State.traceDrain (s : State) : State :=
  match s.trace with
  | [] => s
  | r :: rest =>
    let s1 := { s with trace := rest }
    match s1.ctxOf r.ctx with
    | none => s1
    | some c =>
      match c.trc with
      | none => s1
      | some g =>
        match s1.globalRun g.drv (g.run.toNat % 65536) with
        | none => s1
        | some (e, d) =>
          match e.ext with
          | none => s1
          | some x =>
            let m := (e.cap * 32 - 64) / 32
            let n := (d.word 0).toNat
            if m = 0 ∨ (g.stopMode ∧ m ≤ n) then s1.traceLost g r.ctx r.coreIx
            else
              (((s1.extPut x 0 (leBytes 8 (n + 1))).extPut x (64 + 32 * (n % m))
                (leBytes 8 r.w0.toNat ++ leBytes 8 r.w1.toNat ++ leBytes 8 r.w2.toNat ++ leBytes 8 r.w3.toNat))).tally
                r.coreIx 245 r.ctx

/-! ## Replay logs (R351-R354) -/

/-- R351: the replay configuration of a context with the log's data, when it has one. -/
def State.rplOf (s : State) (ctx : BitVec 16) : Option (RplCfg × CabEntry × Mem) :=
  match s.ctxOf ctx with
  | none => none
  | some c =>
    match c.rpl with
    | none => none
    | some g =>
      match s.globalRun g.drv (g.run.toNat % 65536) with
      | none => none
      | some (e, d) => some (g, e, d)

/-- R351: append a choice in record mode; a full log stops the context. -/
def State.record (s : State) (ctx : BitVec 16) (type low : Nat) (w1 : Nat) : R State :=
  match s.rplOf ctx with
  | none => .ok s
  | some (g, e, d) =>
    if g.mode ≠ 1 then .ok s
    else
      let n := (d.word 0).toNat
      match e.ext with
      | none => .error (.halt 4)
      | some x =>
        if e.cap * e.recSize < 64 + 16 * (n + 1) then .error (.halt 4)
        else .ok ((s.extPut x 0 (leBytes 8 (n + 1))).extPut x (64 + 16 * n)
          (leBytes 8 (type * 2 ^ 60 + low) ++ leBytes 8 w1))

/-- An entry of a replay log: its index and its two words. -/
structure LogEntry where
  ix : Nat
  w0 : Nat
  w1 : Nat
  deriving DecidableEq, Repr

/-- R351: the entries of a replay log. -/
def logEntries (d : Mem) : List LogEntry :=
  (List.range (d.word 0).toNat).map fun i => { ix := i, w0 := d.nat (64 + 16 * i) 8, w1 := d.nat (72 + 16 * i) 8 }

/-- R351: the TYPE of a log entry. -/
def LogEntry.type (e : LogEntry) : Nat := e.w0 / 2 ^ 60

/-- R353: the entries that a context's replay has not used, when it is being replayed. -/
def State.unused (s : State) (ctx : BitVec 16) : Option (List LogEntry) :=
  match s.rplOf ctx with
  | none => none
  | some (g, _, d) => if g.mode = 2 then some ((logEntries d).filter fun e => !g.used.contains e.ix) else none

/-- R347, R354: the index of the entry that a divergence names when the log holds none that fits: the first that
has not been used (log 37). -/
def State.rplAt (s : State) (ctx : BitVec 16) : Nat :=
  match s.unused ctx with
  | some (e :: _) => e.ix
  | _ => (match s.rplOf ctx with | some (_, _, d) => (d.word 0).toNat | none => 0)

/-- R353: whether the context is being replayed, and its first unused entry that a test selects. -/
def State.logged (s : State) (ctx : BitVec 16) (p : LogEntry → Bool) : Option (Option LogEntry) :=
  (s.unused ctx).map fun l => l.find? p

/-- R353: an entry has been used. -/
def State.useEntry (s : State) (ctx : BitVec 16) (e : LogEntry) : State :=
  s.modCtx ctx fun c => { c with rpl := c.rpl.map fun g => { g with used := e.ix :: g.used } }

/-- R351: the log's word 0 of a choice of a thread: its slot and its task index (the layout within bits
59:0 is log 20). -/
def State.slotTask (s : State) : Nat := threadSlot s.crew s.thr * 2 ^ 48 + s.crew.task % 2 ^ 48

/-- R351, R353: a choice of a thread: under replay the logged one, in order, in record mode logged. -/
def State.choice (s : State) (type low free : Nat) : R (Nat × State) :=
  let ctx := s.crew.ctx
  match s.logged ctx fun e => e.w0 == type * 2 ^ 60 + low with
  | some (some e) => .ok (e.w1, s.useEntry ctx e)
  | some none => .error (.halt 5 (s.rplAt ctx))
  | none => do
    let s1 ← s.record ctx type low free
    .ok (free, s1)

/-- R76, R351, R353: a value that SRSEED takes by cwr, task start or fork. -/
def State.seedPoint (s : State) (v : BitVec 32) : R (BitVec 32 × State) := do
  let (x, s1) ← s.choice 4 s.slotTask v.toNat
  .ok (BitVec.ofNat 32 x, s1)

/-! ## Grants -/

/-- R28: the largest grant: all that remains, or the most the registers hold in whole chunks of 64
(DEDUCED, log 25, where the registers hold no whole number of chunks). -/
def grantTop (mvl rem sz : Nat) : Nat :=
  let b := mvl * 4 / sz
  if rem ≤ b then rem else if b < 64 then b else b / 64 * 64

/-- R28, R295: the grant for `rem` remaining elements of `sz` bytes under an MVL: the maximum, or about
half of it while the power manager lowers issue rates. -/
def grantOf (throt : Bool) (mvl rem sz : Nat) : Nat :=
  let top := grantTop mvl rem sz
  if throt then Nat.min top (Nat.max (Nat.min rem 64) (64 * (top / 128))) else top

/-- R28, R353: whether a logged grant can be met. -/
def grantLegal (mvl rem sz g : Nat) : Bool :=
  decide (g ≤ grantTop mvl rem sz) && decide (Nat.min (Nat.min rem 64) (grantTop mvl rem sz) ≤ g) && (g % 64 == 0 || g == rem || g == grantTop mvl rem sz)

/-- R295, R351, R353: take a grant for a strip of a task: the log's next one under replay, recorded in record
mode. -/
def State.grant (s : State) (rem sz ordinal : Nat) : R (Nat × State) :=
  let ctx := s.crew.ctx
  let free := grantOf s.throt s.mvl rem sz
  match s.logged ctx fun e => e.type == 1 && e.w0 % 2 ^ 48 == s.crew.task && e.w1 / 2 ^ 32 == ordinal with
  | some (some e) =>
    if grantLegal s.mvl rem sz (e.w1 % 2 ^ 32) then .ok (e.w1 % 2 ^ 32, s.useEntry ctx e) else .error (.halt 5 e.ix)
  | some none => .error (.halt 5 (s.rplAt ctx))
  | none => do
    let s1 ← s.record ctx 1 (s.crew.task % 2 ^ 48) (ordinal % 2 ^ 32 * 2 ^ 32 + free)
    .ok (free, s1)

/-! ## Performing accesses -/

/-- R255: the bytes of one unperformed element reach their place, through the pages that the store bound. -/
def State.performCell (s : State) (u : Unperf) (owner : BitVec 10) (c : Nat × List Byte) : State :=
  match u.target with
  | .spad core => s.spadPut core owner c.1 c.2
  | .run _ _ =>
    if !u.pages.isEmpty then State.boundPut owner u.pages (c.2.length / 65536 + 2) (u.va + c.1) c.2 s
    else
      match u.ext with
      | some x => s.extPutBy owner x c.1 c.2
      | none => s

/-- R255: every element of one unperformed store performs. -/
def State.performAll (s : State) (u : Unperf) : State :=
  u.cells.foldl (fun s' c => s'.performCell u (s'.ownerOf s.crew.ctx) c) s

/-- R254: a held scalar store performs. -/
def State.performHeld (s : State) : State :=
  match s.thr.held with
  | none => s
  | some h => { s.stRaw h.addr h.bytes with thr := { s.thr with held := none } }

/-- Every held-back access of the thread that issues performs. -/
def State.flushThr (s : State) : State :=
  let s1 := s.thr.unperf.foldl State.performAll s
  ({ s1 with thr := { s1.thr with unperf := [] } }).performHeld

/-- Every held-back access of every thread of the crew performs, lowest index first. -/
def State.flushTeam (s : State) : State :=
  (List.range 4).foldl (fun s' i =>
    match s'.focusIdx i with
    | some s2 => s2.flushThr
    | none => s') s

/-! ## Tokens -/

/-- The token value of a fault (R210). -/
def tokenOf (c : Code) : Word := -(zext64 c)

/-- R323: offset of a thread block in a crew area. -/
def blockOff (b : Nat) : Nat := 0x1000 + 0x2000 * b

/-- The save-area run of a context: the extents of its pool run (R318). -/
def State.poolExt (s : State) (ctx : BitVec 16) : Option (Nat × CabEntry) :=
  match s.ctxOf ctx with
  | none => none
  | some c =>
    match c.trap with
    | none => none
    | some g =>
      match s.globalRun g.drv (g.pool.toNat % 65536) with
      | some (e, _) =>
        if e.live && e.gen == BitVec.ofNat 16 (g.pool.toNat / 65536) then e.ext.map fun x => (x, e) else none
      | none => none

/-- Bytes of a context's save-area pool. -/
def State.poolBytes (s : State) (ctx : BitVec 16) (off n : Nat) : List Byte :=
  match s.poolExt ctx with
  | some (x, _) => (match s.ext? (some x) with | some e => e.data.bytes off n | none => [])
  | none => []

/-- Write bytes of a context's save-area pool. -/
def State.poolPut (s : State) (ctx : BitVec 16) (off : Nat) (bs : List Byte) : State :=
  match s.poolExt ctx with
  | some (x, _) => s.extPut x off bs
  | none => s

/-- R325: offset of physical register `p` in a thread block. -/
def regOff (p : Nat) : Nat := if p < 16 then 0x8 + 8 * p else 0x100 + 8 * (p - 16)

/-- R45: the window name of a physical register under a window base, for PTOK. -/
def windowName (wb p : Nat) : Option Nat :=
  if p < 16 then some p
  else if 16 + 8 * wb ≤ p ∧ p < 56 + 8 * wb then some (p - 8 * wb) else none

/-- R83, R210, R322: a token and its flags are written to the live register, or into the save area, where
PTOK is cleared by the same write; no later unwinding takes the merged flags back. -/
def State.writeToken (s : State) (d : TokDest) (v : Word) (fl : FF) : State :=
  match d with
  | .dropped => s
  | .live crew idx p =>
    let upd (c : Crew) (t : Thread) : Thread :=
      if c.id = crew ∧ t.idx = idx then
        { t.commitFlags fl 0 with regs := t.regs.set p v }
      else t
    { s with
      thr := if s.live then upd s.crew s.thr else s.thr
      mates := if s.live then s.mates.map (upd s.crew) else s.mates
      others := s.others.map fun q => (q.1, q.2.map (upd q.1)) }
  | .saved ctx area block p =>
    let b := area + blockOff block
    let s1 := s.poolPut ctx (b + regOff p.val) (leBytes 8 v.toNat)
    let ff := leNat (s1.poolBytes ctx (b + 0xA0) 8)
    let s2 := s1.poolPut ctx (b + 0xA0) (leBytes 8 (BitVec.ofNat 64 ff ||| zext64 fl).toNat)
    let wb := leNat (s2.poolBytes ctx (b + 0x98) 8)
    match windowName wb p.val with
    | none => s2
    | some n =>
      let pt := BitVec.ofNat 64 (leNat (s2.poolBytes ctx (b + 0xD8) 8))
      s2.poolPut ctx (b + 0xD8) (leBytes 8 (pt &&& ~~~(BitVec.ofNat 64 (2 ^ n))).toNat)

/-- R339: who a pending operation's events are attributed to. -/
def Op.who (o : Op) : Who := { ctx := o.ctx, core := o.core, slot := o.slot, pc := zext64 o.pc, elem := none }

/-- R210, R256: a pending operation ends: its token is written, its interlock entries go, and extents it
alone held are reclaimed; event 192 counts a negative token. -/
def State.endOp (s : State) (o : Op) (v : Word) (fl : FF) : State :=
  let s1 := { s with ops := s.ops.filter fun x => x.id != o.id }
  let s2 := s1.mapCrews fun c => { c with ilock := c.ilock.filter fun e => e.op != some o.id }
  let s3 := (s2.writeToken o.tok v fl).freeClosed
  if v.getLsbD 63 then s3.countCore o.core 192 1 (some o.who) else s3

/-- R133, R339: a run engine operation fails: its token receives the fault number, and event 179 counts it. -/
def State.failRun (s : State) (o : Op) (c : Code) : State :=
  (s.endOp o (tokenOf c) 0).countCore o.core 179 1 (some o.who)

/-- R256: the interlock entries of a thread's committed stores that have not performed. -/
def Thread.storeLocks (t : Thread) : List ILock :=
  t.unperf.map fun u => { target := u.target, lo := u.lo, hi := u.hi, write := true, owner := t.idx, op := none }

/-- R256: the crew's interlock table: the ranges of its pending operations and of its unperformed stores. -/
def State.locks (s : State) : List ILock :=
  s.crew.ilock ++ ((s.thr :: s.mates).map Thread.storeLocks).flatten

/-- R256: whether a range may enter beside an entry: another thread's, one that it does not meet, or both
reads. -/
def ILock.admits (e : ILock) (owner : Nat) (r : IlTarget × Nat × Nat × Bool) : Bool :=
  e.owner != owner || !(e.write || r.2.2.2) || !e.overlaps r.1 r.2.1 r.2.2.1

/-- R256: the entries of an access or operation that do not overlap one of the same thread may be made;
otherwise it waits. -/
def State.ilockRoom (s : State) (rs : List (IlTarget × Nat × Nat × Bool)) : R Unit := do
  await (decide (s.locks.length + rs.length ≤ Config.ilockEntries)) .interlock
  await (s.locks.all fun e => rs.all fun r => e.admits s.thr.idx r) .interlock

/-- Make the interlock entries of an operation. -/
def State.ilockAdd (s : State) (op : Nat) (rs : List (IlTarget × Nat × Nat × Bool)) : State :=
  s.modCrew fun c => { c with ilock := c.ilock ++ rs.map fun r =>
    { target := r.1, lo := r.2.1, hi := r.2.2.1, write := r.2.2.2, owner := s.thr.idx, op := some op } }

/-! ## Code objects -/

/-- R312, R374: bytes of code, read through the context's page tables and under its key; none where the walk
fails. -/
def State.code (s : State) (ctx : BitVec 16) (va n : Nat) : Option (List Byte) :=
  match s.ctxOf ctx with
  | none => none
  | some c =>
    match s.walk c va false with
    | .ok (pa, _, _) => some (s.physSeen c.owner pa n)
    | .error _ => none

/-- R47: a valid split. -/
def splitOk (count : BitVec 2) (ldn stn : BitVec 7) : Bool :=
  ldn.toNat % 2 == 0 && stn.toNat % 2 == 0 && decide (2 ≤ ldn.toNat) && decide (2 ≤ stn.toNat) &&
    decide (ldn.toNat + stn.toNat + 4 ≤ countOf count)

/-- R298: a legal configuration word. -/
def cfgOk (w : Word) : Bool :=
  w.toNat / 2 ^ 30 == 0 && !w.getLsbD 27 && !w.getLsbD 23 && !w.getLsbD 15 &&
    w.extractLsb' 2 6 == 0 && w.extractLsb' 25 2 != 3 &&
    (if w.getLsbD 24 then splitOk (w.extractLsb' 0 2) (w.extractLsb' 8 7) (w.extractLsb' 16 7)
     else w.extractLsb' 8 7 == 0 && w.extractLsb' 16 7 == 0)

/-- R297: the outcome of reading the header of an entry address. -/
inductive CodeObj where
  | unmapped
  | bad
  | good (cfg : Word)
  deriving DecidableEq, Repr

/-- R297, R298: the code object of an entry address. -/
def State.codeObj (s : State) (ctx : BitVec 16) (entry : Word) : CodeObj :=
  let e := entry.toNat
  if e / 2 ^ 56 ≠ 0 ∨ e < 64 then .unmapped
  else
    match s.code ctx (e - 64) 8, s.code ctx (e - 8) 8, s.code ctx e 4 with
    | some h, some c, some _ =>
      let cfg := BitVec.ofNat 64 (leNat c)
      if e % 256 = 64 ∧ leNat (h.take 4) = 0x59444E47 ∧ leNat ((h.drop 4).take 2) = 1 ∧ cfgOk cfg then .good cfg
      else .bad
    | _, _, _ => .unmapped

/-- R358: the bad sub-beat that reading the header, the configuration or the first word of a code object meets. -/
def State.codeBad (s : State) (ctx : BitVec 16) (entry : Word) : Option Nat :=
  let e := entry.toNat
  if s.dramBad.isEmpty || decide (2 ^ 56 ≤ e) || decide (e < 64) then none
  else
    match s.ctxOf ctx with
    | none => none
    | some c => [(e - 64, 8), (e - 8, 8), (e, 4)].findSome? fun p =>
      match s.walk c p.1 false with
      | .ok (pa, _, _) => s.badAt pa p.2
      | .error r => if r < 3 then none else some (r - 3)

/-- R358: the frame of a bad sub-beat, where there is one, is withdrawn. -/
def State.withdrawBad (s : State) (d : Option Nat) : State := d.elim s fun x => s.withdraw (x / 1024)

/-! ## Starting a task -/

/-- What a task starts with (R23, R175, R178, R318). -/
structure Start where
  ctx : BitVec 16
  die : BitVec 2
  core : BitVec 5
  slot : BitVec 2
  priv : Bool
  handler : Option HandlerOf
  cfg : Word
  entry : Word
  count : Nat
  regs : List (Nat × Word)
  seed : BitVec 32
  ddl : BitVec 32
  ts : Word
  launch : Option Nat
  task : Nat
  spec : Option Spec
  prio : BitVec 3
  deriving DecidableEq, Repr

/-- R76: SRSEED at the start of a task, from its index term and timestamp. -/
def seedOf (index : Nat) (ts : Word) : BitVec 32 :=
  let v := BitVec.ofNat 32 (index * 0x9E3779B9 + ts.toNat)
  if v = 0 then 1 else v

/-- R46: the capacity class of a core. -/
def State.capOf (s : State) (core : Nat) : BitVec 2 := s.capclass.get core

/-- R23: a thread of a starting task. -/
def startThread (st : Start) (idx : Nat) (role : Role) : Thread :=
  let t := { Thread.init with
    idx := idx, role := role, pc := st.entry.setWidth 56, seed := st.seed
    needVl := role == .computer || role == .storer, life := .run }
  st.regs.foldl (fun t' r => { t' with regs := t'.regs.set (Fin.ofNat 272 r.1) r.2 }) t

/-- R346, R349, R354: the record of a stop for the debugger or a replay: DIVERGE for cause 5, else STOP; events
240, 241 and 243 count breakpoint stops, steps and divergences. -/
def State.stopRecord (s : State) (cause entry : Nat) (elem : Option Nat) : State :=
  if cause = 5 then (s.trace1 10 none (zext64 s.thr.pc) (BitVec.ofNat 64 entry)).countThr 243
  else
    let s1 := s.trace1 3 elem (zext64 s.thr.pc) (BitVec.ofNat 64 cause)
    if cause ≤ 1 then s1.countThr 240 else if cause = 2 then s1.countThr 241 else s1

/-- R23, R28, R76: the first grant and the logged seed of the task that starts; a replay or a full log that
stops the context marks its crews to be saved (R351, R354). -/
def State.firstGrant (s : State) (count : Nat) : State :=
  let r : R State := do
    let (g, s1) ← s.grant count 4 0
    let (v, s2) ← s1.seedPoint s1.thr.seed
    .ok ((s2.modThr fun t => { t with
      csr := { t.csr with vl := BitVec.ofNat 18 g, grant := BitVec.ofNat 18 g } }).mapTeam
        fun t => { t with seed := v })
  match r with
  | .ok s' => s'
  | .error e =>
    let s1 := match e with
      | .halt c n => s.stopRecord c n none
      | _ => s
    s1.mapCrews fun c => if c.ctx = s.crew.ctx ∧ c.stop.isNone then
      { c with stop := some { reason := 3, fault := none, dbg := true, area := none } } else c

/-- R23, R50, R55: put a task on a crew slot: registers loaded, every vector register and owned
accumulator zero, the first grant given. The new crew is the current one, and a context that was saved runs (R336). -/
def State.startCrew (s : State) (st : Start) : State :=
  let core := st.die.toNat * 32 + st.core.toNat
  let crews : BitVec 2 := st.cfg.extractLsb' 25 2
  let count : BitVec 2 := st.cfg.extractLsb' 0 2
  let trio := st.cfg.getLsbD 24
  let c : Crew := { Crew.init with
    id := s.fresh, die := st.die, core := st.core, slot := st.slot, ctx := st.ctx, priv := st.priv
    handler := st.handler, trio := trio, crews := crews, count := count, maxclass := st.cfg.extractLsb' 28 2
    ldn := st.cfg.extractLsb' 8 7, stn := st.cfg.extractLsb' 16 7
    mvl := BitVec.ofNat 16 (mvlOf (s.capOf core) crews count)
    ddlInit := st.ddl, launch := st.launch, task := st.task, ts := st.ts, spec := st.spec
    prio := st.prio }
  let t0 := startThread st 0 (if trio then .loader else .solo)
  let ts := if trio then [startThread st 1 .computer, startThread st 2 .storer] else []
  let mine := (List.range 4).filter fun a => a % crewsOf crews == st.slot.toNat
  let clearAcc (m : Mem) (a : Nat) : Mem :=
    SMap.clear (n := 8) m ((core * 4 + a) * 2 * 65536) ((core * 4 + a) * 2 * 65536 + 131072)
  let s1 : State := { s with
    ctxs := s.ctxs.map fun (x : Ctx) => if x.ctx = st.ctx ∧ x.st = .saved then { x with st := .running } else x
    fresh := s.fresh + 1, live := true, crew := c, thr := t0, mates := ts
    others := if s.live then s.others ++ [(s.crew, s.thr :: s.mates)] else s.others
    acc := mine.foldl clearAcc s.acc
    accInt := mine.foldl (fun m a => m.write (core * 4 + a) [0]) s.accInt }
  s1.firstGrant st.count

/-- R307: whether a crew slot of a core is free: no crew holds it and no launch keeps it idle. -/
def State.slotFree (s : State) (core : Nat) (slot : BitVec 2) : Bool :=
  !(s.crews.any fun p => p.1.coreIx == core && p.1.slot == slot) &&
    !(s.launches.any fun l => l.idle.contains (core, slot))

/-- R51, R279: whether a crew of `crews` crews per core fits beside the crews that a core already runs or that a
launch keeps idle there, whose crews per core must agree (DEDUCED, log 19). -/
def State.coreAgrees (s : State) (core : Nat) (crews : BitVec 2) : Bool :=
  (s.crews.all fun p => p.1.coreIx != core || p.1.crews == crews) &&
    s.launches.all fun l => l.idle.all fun p => p.1 != core || l.cfg.extractLsb' 25 2 == crews

/-! ## Faults reported to the driver -/

/-- R317: the role and forked context of a thread. -/
def faultOf (c : Crew) (t : Thread) (f : Trap) : FaultRec :=
  { code := f.code, role := t.role, fctx := if c.trio then 0 else t.idx, elem := f.elem, pc := t.pc
    addr := f.addr, obj := f.obj, value := f.value }

/-- R317: word 0 of a fault record. -/
def FaultRec.word0 (f : FaultRec) : Word :=
  BitVec.ofNat 64 (f.code.toNat * 2 ^ 48 + f.role.num * 2 ^ 43 + f.fctx % 8 * 2 ^ 40 +
    (match f.elem with | some e => 2 ^ 35 + e % 2 ^ 18 | none => 0))

/-- R317: the eight words of a fault record. -/
def FaultRec.words (f : FaultRec) : List Word :=
  [f.word0, zext64 f.pc, f.addr, f.obj, f.value, 0, 0, 0]

/-- Report a fault record to the driver. -/
def State.report (s : State) (ctx : BitVec 16) (f : FaultRec) : State :=
  s.modCtx ctx fun c => { c with faults := c.faults ++ [f] }

/-- A fault record with only a code. -/
def bareFault (c : Code) : FaultRec :=
  { code := c, role := .solo, fctx := 0, elem := none, pc := 0, addr := 0, obj := 0, value := 0 }

/-- Remove the crews that a test selects. -/
def State.removeCrews (s : State) (p : Crew → Bool) : State :=
  let s1 := { s with others := s.others.filter fun q => !p q.1 }
  if s1.live && p s1.crew then s1.dropCrew else s1

/-- R328, R333: kill a context: its pending operations are discarded without tokens (R211), its crews,
tasks, pushes, buffers and launch packets not yet started go, and it awaits collection. -/
def State.kill (s : State) (ctx : BitVec 16) (f : FaultRec) : State :=
  let s1 := s.removeCrews fun c => c.ctx == ctx
  let s2 := { s1 with
    ops := s1.ops.filter fun o => o.ctx != ctx
    pushes := s1.pushes.filter fun p => p.q.ctx != ctx
    tasks := s1.tasks.filter fun t => t.ctx != ctx
    launches := s1.launches.filter fun l => l.ctx != ctx
    queues := s1.queues.map fun (l : LQueue) => if l.ctx = ctx then { l with pending := none, chosen := false } else l
    misses := s1.misses.filter fun m => m.1 != ctx
    bufs := s1.bufs.filter fun b => b.ctx != ctx }
  ((s2.modCtx ctx fun c => { c with st := .killed, saved := [], images := [] }).report ctx f).reclaim

/-! ## Queue segments (R163, R171, R309) -/

/-- Change a Bureau entry. -/
def State.modQueue (s : State) (ctx : BitVec 16) (idx : Nat) (f : BEntry → BEntry) : State :=
  s.modCtx ctx fun c => { c with bureau := c.bureau.map fun p => if p.1 = idx then (p.1, f p.2) else p }

/-- A Bureau entry of any context. -/
def State.queueAt (s : State) (q : QRef) : Option BEntry :=
  match s.ctxOf q.ctx with
  | none => none
  | some c => kvGet c.bureau q.idx

/-- R163: a queue whose segment stays in SRAM: resident, armed, or with a claim outstanding. -/
def BEntry.pinned (b : BEntry) : Bool := b.res || b.arm.isSome || !b.claims.isEmpty

/-- Every live queue of every context with a segment, by its context and index. -/
def State.segments (s : State) : List (QRef × BEntry) :=
  (s.ctxs.map fun c => (c.bureau.filter fun p => p.2.live && p.2.launchQ.isNone).map fun p =>
    ({ ctx := c.ctx, idx := p.1 }, p.2)).flatten

/-- R163: KiB of a core's queue SRAM that the segments selected take. -/
def State.sramUsed (s : State) (die : BitVec 2) (home : BitVec 5) (p : QRef × BEntry → Bool) : Nat :=
  ((s.segments.filter fun q => q.2.die == die && q.2.home == home && p q).map fun q => q.2.quota.toNat).sum

/-- Whether committed pushes are on their way to a queue. -/
def State.pushesTo (s : State) (q : QRef) : List Push := s.pushes.filter fun p => p.q == q

/-- R163, R309: a segment that may be evicted now. -/
def State.evictable (s : State) (q : QRef × BEntry) : Bool := q.2.inSram && !q.2.pinned && (s.pushesTo q.1).isEmpty

/-- R309: evict the least recently touched segments of a core until `kib` more fit. -/
def State.evictFor (die : BitVec 2) (home : BitVec 5) (kib : Nat) : Nat → State → State
  | 0, s => s
  | fuel + 1, s =>
    if s.sramUsed die home (fun q => q.2.inSram) + kib ≤ Config.queueSramKiB then s
    else
      let l := s.segments.filter fun q => q.2.die == die && q.2.home == home && s.evictable q
      match l with
      | [] => s
      | a :: r =>
        let v := r.foldl (fun m q => if q.2.touched < m.2.touched then q else m) a
        State.evictFor die home kib fuel (s.modQueue v.1.ctx v.1.idx fun b => { b with inSram := false })

/-- R163, R309: bring a queue's segment into its core's SRAM, if it fits. -/
def State.swapIn (s : State) (q : QRef) (b : BEntry) : Option State :=
  let s1 := State.evictFor b.die b.home b.quota.toNat s.segments.length s
  if s1.sramUsed b.die b.home (fun x => x.2.inSram && x.1 != q) + b.quota.toNat ≤ Config.queueSramKiB then
    some (s1.modQueue q.ctx q.idx fun x => { x with inSram := true, touched := s.clk })
  else none

/-- R163, R308: the pinned segments of a context that EVICT wrote to their backing come back into SRAM, or one
finds no room yet. -/
def State.repin (s : State) (ctx : BitVec 16) : Option State :=
  (s.segments.filter fun q => q.1.ctx == ctx && q.2.pinned && !q.2.inSram).foldl
    (fun r q => r.bind fun s' => s'.swapIn q.1 q.2) (some s)

/-- R171: whether a closed queue is free: it is empty, no claim on it is outstanding, and every task spawned through
it has committed or been discarded; a push on its way is still to enter it. -/
def State.queueDone (s : State) (q : QRef) (b : BEntry) : Bool :=
  b.live && b.closed && b.recs.isEmpty && b.claims.isEmpty && b.launchQ.isNone && (s.pushesTo q).isEmpty &&
    !(b.kind == .task && s.tasks.any fun t => t.ctx == q.ctx && t.qno == q.idx)

/-- R166, R171: a freed queue gives its spill run back. -/
def State.freeQueue (s : State) (q : QRef) (b : BEntry) : State :=
  let s1 := s.modQueue q.ctx q.idx fun x => { x with live := false, arm := none, inSram := false, spill := none }
  match b.spill with
  | none => s1
  | some i =>
    match s1.globalRun q.ctx i with
    | some (e, _) => s1.setEntry q.ctx i { e with spillOf := none }
    | none => s1

/-- R171: every queue whose conditions hold is freed. -/
def State.freeQueues (s : State) : State :=
  s.segments.foldl (fun s' q => if s.queueDone q.1 q.2 then s'.freeQueue q.1 q.2 else s') s

/-! ## Retirement -/

/-- R38, R304: add to a launch's DONE word. -/
def State.addDone (s : State) (ctx : BitVec 16) (a : Word) (v : Nat) : State :=
  if !addrOk a || a.toNat % 8 ≠ 0 then s
  else
    match spaceOf a with
    | 1 =>
      if sigPkg a = s.pkg ∧ s.sigMine (s.ownerOf ctx) a then
        { s with sig := s.sig.put (sigKey a) (leBytes 8 (leNat (s.sigBytes a 8) + v)) }.sigEvent a 2
      else s
    | 2 => { s with host := s.host.put (hostAddr ctx a) (leBytes 8 (s.host.nat (hostAddr ctx a) 8 + v)) }
    | _ => s

/-- R38: a task of a launch has retired; the last one adds 1 to DONE and frees the idle slots. -/
def State.launchTaskDone (s : State) (id : Nat) : State :=
  match s.launches.find? fun l => l.id == id with
  | none => s
  | some l =>
    if l.left ≤ 1 then
      ({ s with launches := s.launches.filter fun x => x.id != id }).addDone l.ctx l.done 1
    else { s with launches := s.launches.map fun (x : Launch) => if x.id = id then { x with left := x.left - 1 } else x }

/-- R38, R319: the current crew's task retires, once every thread has: its slot is free, and the launch,
the timestamped task or the trapped context learns of it. A task that is not yet the oldest keeps the changes
that it holds back and its ranges (R35, R36). -/
def State.retireCrew (s : State) : State :=
  let c := s.crew
  let s1 := s.dropCrew
  match c.handler with
  | some h => s1.kill h.ctx h.fault
  | none =>
    match c.spec with
    | some sp =>
      { s1 with tasks := s1.tasks.map fun (t : TTask) =>
          if t.id = sp.task then { t with st := .retired, kept := if sp.oldest then none else some c } else t }
    | none =>
      match c.launch with
      | some l => s1.launchTaskDone l
      | none => s1

/-- R38: the thread that issues retires. -/
def State.retireThr (s : State) : State :=
  let s1 := s.modThr fun t => { t with life := .retired }
  if s1.mates.all fun t => t.life == .retired then s1.retireCrew else s1

/-! ## Aborting a timestamped task (R36, R42, R179, R181) -/

/-- The tasks a task spawned, with their own, up to a depth. -/
def State.spawnTree (s : State) : Nat → List Nat → List Nat
  | 0, ids => ids
  | fuel + 1, ids =>
    let more := (s.tasks.filter fun t => match t.spawner with
      | some p => ids.contains p && !ids.contains t.id
      | none => false).map TTask.id
    if more.isEmpty then ids else s.spawnTree fuel (ids ++ more)

/-- R175: the claim positions of a queue return to their start for a firing. -/
def BEntry.resetClaim (b : BEntry) (fire : Nat) : BEntry :=
  { b with claims := b.claims.map fun c => if c.fire = fire then { c with pos := 0 } else c }

/-- R175: a firing's claim is released. -/
def BEntry.dropClaim (b : BEntry) (fire : Nat) : BEntry :=
  { b with claims := b.claims.filter fun c => c.fire != fire }

/-- Whether a crew runs a timestamped task. -/
def Crew.runs (c : Crew) (task : Nat) : Bool := match c.spec with | some sp => sp.task == task | none => false

/-- The crew of a timestamped task: the one that runs it, is saved with it, or ran it and has retired before it
became the oldest. -/
def State.taskCrew (s : State) (task : Nat) : Option Crew := s.crewsHeld.find? fun c => c.runs task

/-- R166, R131: a queue whose spill run a discarded task had created has none (log 35). -/
def State.dropSpills (s : State) (c : Crew) : State :=
  let made := c.heldBack.filterMap fun o => match o with | .newRun i _ => some i | _ => none
  if made.isEmpty then s
  else s.modCtx c.ctx fun x => { x with bureau := x.bureau.map fun p =>
    (p.1, if (p.2.spill.map fun i => made.contains i).getD false then { p.2 with spill := none } else p.2) }

/-- R35, R36, R128, R211: the crew of a timestamped task stops; its pending operations, provisional extents and changes
and buffers are discarded. -/
def State.discardRun (s : State) (task : Nat) : State :=
  match s.taskCrew task with
  | none => s
  | some c =>
    let bufs := match c.spec with | some sp => sp.bufs | none => []
    let s1 := (s.removeCrews fun d => d.id == c.id).dropSpills c
    let s2 : State := { s1 with
      ops := s1.ops.filter fun o => o.crew != c.id
      ctxs := s1.ctxs.map fun (x : Ctx) => { x with saved := x.saved.filter fun a => a.crewId != c.id }
      tasks := s1.tasks.map fun (t : TTask) => if t.id = task then { t with kept := none } else t
      bufs := s1.bufs.filter fun b => !(b.core == c.coreIx && b.ctx == c.ctx && bufs.contains b.id) }
    s2.reclaim

/-- R36, R179: abort a task: it is re-queued with the same key, and the tasks it spawned are discarded. -/
def State.abortTask (s : State) (task : Nat) : State :=
  match s.tasks.find? fun t => t.id == task with
  | none => s
  | some t =>
    let tree := (s.spawnTree s.tasks.length [task]).filter fun i => i != task
    let s1 := tree.foldl State.discardRun (s.discardRun task)
    let s2 := { s1 with
      tasks := (s1.tasks.filter fun (x : TTask) => !tree.contains x.id).map fun (x : TTask) =>
        if x.id = task then { x with st := .waiting } else x }
    let s3 := match t.claim with
      | some f => s2.modQueue t.ctx t.qno (fun b => b.resetClaim f)
      | none => s2
    let w : Who := { ctx := t.ctx, core := t.core, slot := t.slot, pc := 0, elem := none }
    (((s3.traceAt t.ctx 8 t.core t.slot none 0 t.ts).countCore t.core 208 1 (some w)).countDie t.die 322).freeQueues

/-- R36: abort every task of a list. -/
def State.abortAll (s : State) (l : List Nat) : State := l.foldl State.abortTask s

/-- R36, R273: an access of the crew to a range: the conflict rules of timestamped tasks. -/
def State.touch (s : State) (t : IlTarget) (lo hi : Nat) (write : Bool) : R State :=
  match s.crew.spec with
  | none => .ok s
  | some _ =>
    if write then
      match s.specWrite t lo hi with
      | .ok s1 => .ok (s1.abortAll (s.readersAfter t lo hi))
      | .error e => .error e
    else s.specRead t lo hi

/-! ## The save area (R323-R326) -/

/-- R55: vcfg as crd reads it. -/
def vcfgWord (c : Crew) (t : Thread) : Word :=
  BitVec.ofNat 64 (ctxMvl c t * 2 ^ 32 + c.crews.toNat * 2 ^ 25 + (if c.trio then 2 ^ 24 else 0) +
    c.stn.toNat * 2 ^ 16 + c.ldn.toNat * 2 ^ 8 + c.count.toNat)

/-- R55: crewid as crd reads it. -/
def crewidWord (c : Crew) (t : Thread) : Word :=
  BitVec.ofNat 64 (t.lgCnt.toNat * 2 ^ 9 + t.lgBase.toNat * 2 ^ 5 + t.depth.toNat * 2 ^ 3 + c.slot.toNat)

/-- R55: vscfg as crd reads it. -/
def vscfgWord (t : Thread) : Word := BitVec.ofNat 64 (t.scaleSz.toNat * 2 ^ 20 + t.scaleLen.toNat)

/-- R55: coreid of a core. -/
def State.coreidWord (s : State) (core : Nat) : Word :=
  BitVec.ofNat 64 ((s.capOf core).toNat * 2 ^ 16 + s.pkg.toNat * 2 ^ 7 + core / 32 * 2 ^ 5 + core % 32)

/-- R327: NEED of a thread in elements of the full MVL. -/
def threadNeed (t : Thread) : Nat :=
  let vl := (t.csr.vl.toNat * t.csr.gsz + 3) / 4
  let sc := (t.scaleLen.toNat * sizeOf2 t.scaleSz + 3) / 4
  Nat.max t.need (Nat.max vl sc)

/-- R327: NEED of the rings of a crew. -/
def ringNeed (c : Crew) : Nat :=
  c.rings.toList.foldl (fun m l => l.foldl (fun m' e => Nat.max m' ((e.count * e.esz + 3) / 4)) m) 0

/-- R324: NEED of a crew. -/
def crewNeed (c : Crew) (ts : List Thread) : Nat :=
  Nat.max (ringNeed c) (ts.foldl (fun m t => Nat.max m (threadNeed t)) 0)

/-- R323: bytes of a crew area, in whole 64 KiB units. -/
def areaBytes (c : Crew) : Nat :=
  (0x90000 + (countOf c.count + 32) * c.mvl.toNat * 4 + 0xFFFF) / 0x10000 * 0x10000

/-- Words laid out from an offset. -/
def wordBytes (ws : List Word) : List Byte := (ws.map fun w => leBytes 8 w.toNat).flatten

/-- R55: rmode as crd reads it. -/
def rmodeWord (c : Crew) (seed : BitVec 32) : Word := BitVec.ofNat 64 (seed.toNat * 2 ^ 32 + (if c.la then 1 else 0))
/-- R55: prcfg as crd reads it. -/
def prcfgWord (c : Crew) : Word := BitVec.ofNat 64 (c.prM.toNat * 2 ^ 8 + c.prN.toNat)
/-- R55: cbsel as crd reads it. -/
def cbselWord (c : Crew) : Word := BitVec.ofNat 64 ((if c.pend then 2 else 0) + (if c.act then 1 else 0))

/-- R52: the predicates of a thread, two bits each. -/
def predWord (t : Thread) : Word :=
  BitVec.ofNat 64 ((List.range 8).foldr (fun i acc => acc * 4 + (t.pr[Fin.ofNat 8 i]).toNat) 0)

/-- R31, R324: the forked context whose lane groups hold a 32-bit element now. -/
def Crew.fctxAt (c : Crew) (ts : List Thread) (elem : Nat) : Nat :=
  if c.trio then 0
  else match ts.find? fun t => t.life != .retired && decide (t.lgBase.toNat * (c.mvl.toNat / 16) ≤ elem) &&
      decide (elem < (t.lgBase.toNat + t.lgCnt.toNat) * (c.mvl.toNat / 16)) with
    | some t => t.idx
    | none => 0

/-- R324: an entry of the poison list. -/
def Poison.word (p : Poison) (fctx : Nat) : Word :=
  BitVec.ofNat 64 (p.reg % 128 + fctx % 4 * 2 ^ 7 + p.elem % 2 ^ 16 * 2 ^ 16)

/-- R256: the interlock entry word layout of a saved range: lo, hi, then kind, owner and operation, and the target
(log 20). -/
def ILock.words (e : ILock) : List Word :=
  [BitVec.ofNat 64 e.lo, BitVec.ofNat 64 e.hi,
   BitVec.ofNat 64 ((if e.write then 1 else 0) + e.owner % 4 * 2 + (match e.op with | some o => (o + 1) * 8 | none => 0)),
   (match e.target with | .spad _ => 0 | .run _ i => BitVec.ofNat 64 i)]

/-- R324: the crew header of a save. -/
def State.headerMem (s : State) (c : Crew) (ts : List Thread) (reason : BitVec 4) (f : Option FaultRec)
    (complete : Bool) : Mem :=
  let owner := s.ownerOf c.ctx
  let t0 := ts.headD Thread.init
  let hdr := c.ctx.toNat * 2 ^ 48 + owner.toNat * 2 ^ 38 + c.poison.length % 64 * 2 ^ 32 +
    c.bq.length * 2 ^ 27 + ts.length * 2 ^ 24 + reason.toNat * 2 ^ 20 + (if complete then 1 else 0)
  let accType (a : Nat) : Nat := (s.accInt.get (c.coreIx * 4 + a)).toNat * 2 ^ a
  let accw := accType 0 + accType 1 + accType 2 + accType 3 +
    (if (match s.ctxOf c.ctx with | some x => x.translate | none => false) then 2 ^ 8 else 0)
  let m : Mem := Mem.put [] 0 (wordBytes
    [BitVec.ofNat 64 hdr, vcfgWord c t0, rmodeWord c (crewSeed c ts t0), prcfgWord c, cbselWord c,
     BitVec.ofNat 64 (crewNeed c ts), s.coreidWord c.coreIx, BitVec.ofNat 64 accw])
  let m := m.put 64 (wordBytes (match f with | some x => x.words | none => []))
  let m := m.put 128 (wordBytes c.bq)
  let m := m.put 256 (wordBytes (c.poison.map fun p => p.word (c.fctxAt ts p.elem)))
  let m := m.put 768 (wordBytes ((c.ilock.map ILock.words).flatten))
  let m := m.put 1792 (((List.range 32).map fun i =>
    match (c.rings[Fin.ofNat 8 (i / 4)])[i % 4]? with
    | some e => leBytes 4 (e.count + (codeOfSize e.esz).toNat * 2 ^ 20)
    | none => leBytes 4 0).flatten)
  (m.paste 2048 1024 c.cb0).paste 3072 1024 c.cb1

/-- R325: a thread block. `vcp` is the thread's vcp, `pt` holds the window registers with a pending token, and
`seed` is S. -/
def threadMem (c : Crew) (t : Thread) (vcp : Addr) (pt : Word) (seed : BitVec 32) : Mem :=
  let m : Mem := Mem.put [] 0 (wordBytes ([zext64 t.pc, zext64 vcp] ++
    ((List.range 15).map fun i => t.regs[Fin.ofNat 272 (i + 1)])))
  let m := m.put 0x88 (wordBytes
    [zext64 t.csr.vl, zext64 t.csr.sdesc, zext64 t.csr.wb, zext64 t.fflags, zext64 t.csr.frm,
     zext64 t.iflags, zext64 t.csr.icfg, crewidWord c t, BitVec.ofNat 64 t.role.num, vscfgWord t,
     pt, predWord t, zext64 seed])
  let m := m.put 0x100 (wordBytes ((List.range 256).map fun i => t.regs[Fin.ofNat 272 (i + 16)]))
  let m := m.put 0x900 (wordBytes (((List.range 32).map fun i =>
    [t.iv[Fin.ofNat 32 i].lo, t.iv[Fin.ofNat 32 i].hi]).flatten))
  m.put 0x1000 (leBytes 4096 t.cmask.toNat)

/-- R315, R325: the vcp of a thread of a crew that stops with a fault: the faulting instruction, which FLT_TRAP's
resume address has passed. -/
def vcpOf (c : Crew) (t : Thread) (f : Option FaultRec) : Addr :=
  match f with
  | some x => if x.role = t.role ∧ (c.trio ∨ x.fctx = t.idx) then x.pc else t.pc
  | none => t.pc

/-- R322: the PTOK word of a thread: the window registers that hold a pending token. -/
def State.ptokOf (s : State) (c : Crew) (t : Thread) : Word :=
  (List.range 56).foldl (fun w n =>
    if n ≠ 0 ∧ s.ops.any (fun o => o.tok == .live c.id t.idx (t.phys n)) then
      w ||| BitVec.ofNat 64 (2 ^ n) else w) 0

/-- R322: the physical registers of a thread with a pending token. -/
def State.tokRegs (s : State) (c : Crew) (t : Thread) : List Nat :=
  s.ops.filterMap fun o => match o.tok with
    | .live k i p => if k = c.id ∧ i = t.idx then some p.val else none
    | _ => none

/-- R322, R325: a thread block over what its place in the save area held: the slot of a register with a pending
token is not written. -/
def State.blockMem (s : State) (c : Crew) (t : Thread) (f : Option FaultRec) (seed : BitVec 32) (old : Mem) : Mem :=
  (s.tokRegs c t).foldl (fun m p => m.put (regOff p) (old.bytes (regOff p) 8))
    (threadMem c t (vcpOf c t f) (s.ptokOf c t) seed)

/-- R323: the accumulators a crew in a slot may name (R51). -/
def accsOf (c : Crew) : List Nat := (List.range 4).filter fun a => a % crewsOf c.crews == c.slot.toNat

/-- R322, R323: the whole crew area as bytes from its own offset 0, over what its place held: what the save does
not write stays. -/
def State.areaMem (s : State) (c : Crew) (ts : List Thread) (reason : BitVec 4) (f : Option FaultRec) (old : Mem) :
    Mem :=
  let m := old.paste 0 4096 (s.headerMem c ts reason f true)
  let m := (List.range ts.length).foldl (fun m i =>
    match ts[i]? with
    | some t => m.paste (blockOff i) 0x2000
        (s.blockMem c t f (crewSeed c ts t) (SMap.slice (n := 8) old (blockOff i) (blockOff i + 0x2000)))
    | none => m) m
  let m := (accsOf c).foldl (fun m a =>
    let k := (c.coreIx * 4 + a) * 2 * 65536
    m.paste (0x9000 + a * 0x20000) 0x20000 (SMap.slice (n := 8) s.acc k (k + 0x20000))) m
  let row := c.mvl.toNat * 4
  let clean (v : Mem) : Mem := c.poison.foldl (fun v' p => v'.put (p.reg * 131072 + p.elem * 4) [0, 0, 0, 0]) v
  let vr := clean c.vregs
  let m := (List.range (countOf c.count)).foldl (fun m r =>
    m.paste (0x90000 + r * row) row (SMap.slice (n := 8) vr (r * 131072) (r * 131072 + row))) m
  (List.range 32).foldl (fun m i =>
    match (c.rings[Fin.ofNat 8 (i / 4)])[i % 4]? with
    | some e => m.put (0x90000 + countOf c.count * row + i * row) e.bytes
    | none => m) m

/-- R326: bytes of a core image, in whole 64 KiB units. -/
def imageArea : Nat := 0x310000

/-- Whether two contexts save into one pool. -/
def Ctx.samePool (c d : Ctx) : Bool := d.trap.map (fun g => (g.drv, g.pool)) == c.trap.map (fun g => (g.drv, g.pool))

/-- R321: the end of the areas that a save-area pool holds: those of saved crews and of crews whose save has
begun. -/
def State.poolTop (s : State) (ctx : BitVec 16) : Nat :=
  match s.ctxOf ctx with
  | none => 0
  | some c =>
    let mates := s.ctxs.filter fun d => c.samePool d
    let saved := (mates.map fun d => d.saved.map fun a => a.area + areaBytes a.kept).flatten
    let now := s.crews.filterMap fun p => if mates.any fun d => d.ctx == p.1.ctx then
        (p.1.stop.bind StopInfo.area).map fun a => a + areaBytes p.1 else none
    (saved ++ now).foldl Nat.max 0

/-- R326: where the core images of a pool of `n` bytes begin; they stand at its end, the newest lowest (log 70). -/
def State.poolFloor (s : State) (ctx : BitVec 16) (n : Nat) : Nat :=
  match s.ctxOf ctx with
  | none => n
  | some c =>
    (((s.ctxs.filter fun d => c.samePool d).map fun d => d.images.map CoreImage.off).flatten).foldl Nat.min (n / 0x10000 * 0x10000)

/-- The bytes of a context's save-area pool. -/
def State.poolMem (s : State) (ctx : BitVec 16) : Mem :=
  match s.poolExt ctx with
  | some (x, _) => (match s.ext? (some x) with | some e => e.data | none => [])
  | none => []

/-- Lay a stretch of bytes into a context's save-area pool. -/
def State.poolPaste (s : State) (ctx : BitVec 16) (off n : Nat) (m : Mem) : State :=
  match s.poolExt ctx with
  | some (x, _) => { s with exts := s.exts.map fun (y : Extent) => if y.id = x then { y with data := y.data.paste off n m } else y }
  | none => s

/-- R321: whether another crew of the context still runs on the core. -/
def State.lastOnCore (s : State) (c : Crew) : Bool :=
  !(s.crews.any fun p => p.1.id != c.id && p.1.ctx == c.ctx && p.1.coreIx == c.coreIx)

/-- R321: whether an operation of the context still touches a core's scratchpad. -/
def State.spadBusy (s : State) (ctx : BitVec 16) (core : Nat) : Bool :=
  s.ops.any fun o => o.ctx == ctx && o.core == core &&
    (match o.kind with | .run .. => false | _ => true)

/-- R326: the word of a buffer in a core image. -/
def Buf.word (b : Buf) : Word :=
  BitVec.ofNat 64 (b.base % 2 ^ 22 * 2 ^ 26 + b.st.code * 2 ^ 23 + (if b.comp then 2 ^ 22 else 0) + b.size % 2 ^ 22)

/-- R326: the lines of a core's scratchpad that an owner holds. -/
def State.linesOf (s : State) (core : Nat) (owner : BitVec 10) : List Nat :=
  let base := core * Config.spadStride
  (s.spadTag.filter fun e => decide (base / 64 ≤ e.1) && decide (e.1 < (base + Config.spadStride) / 64) &&
    e.2 == owner).map fun e => e.1 - base / 64

/-- R326: the bytes of a core image: the scratchpad as the context's owner reads it, then a word per buffer id. -/
def State.imageMem (s : State) (ctx : BitVec 16) (core : Nat) (lines : List Nat) : Mem :=
  let base := core * Config.spadStride
  let m : Mem := (SMap.slice (n := 8) s.spad base (base + Config.spadBytes)).filter fun e => lines.contains (e.1 / 64)
  (s.bufs.filter fun b => b.core == core && b.ctx == ctx).foldl
    (fun m b => m.put (Config.spadBytes + 8 * b.id) (leBytes 8 b.word.toNat)) m

/-- R85, R291: one recorded write of a thread is taken back. -/
def Thread.undo (t : Thread) : Undo → Thread
  | .reg p old => { t with regs := t.regs.set p old }
  | .iv k old => { t with iv := t.iv.set k old }
  | .pr k old => { t with pr := t.pr.set k old }
  | .csr old => { t with csr := old }
  | .vl old => { t with csr := old, needVl := true }
  | .vlw old => { t with csr := old }
  | .strip nv => { t with strips := t.strips - 1, needVl := nv }
  | .ff bits => { t with fflags := t.fflags &&& ~~~bits }
  | .fi bits => { t with iflags := t.iflags &&& ~~~bits }
  | .la _ => t
  | .prcfg _ _ => t
  | .act _ => t

/-- R321 steps 2 and 3 for one thread: its queued instructions are unwound, so that it resumes at its
vcp; a held scalar store that follows vcp is discarded (R254). -/
def Thread.unwind (t : Thread) : Thread :=
  match t.vq with
  | [] => t
  | e :: _ =>
    let t1 := t.hist.foldl (fun t' h => t'.undo h.undo) t
    { t1 with vq := [], hist := [], pc := e.pc, seed := e.seed0
              held := match t.held with | some h => if h.seq < e.seq then some h else none | none => none }

/-- A thread stopped for a save: waits begin again from the start (R245), and a child that has reached join stays
there (R183). -/
def Thread.stopped (t : Thread) : Thread :=
  let t1 := t.unwind
  { t1 with sleep := none, tfWait := none
            life := match t1.life with | .retired => .retired | .atJoin => .atJoin | _ => .run }

/-- R153: a lent ring pair comes back empty, and its user merge ends with FLT_RUN_ABORT. -/
def State.endLend (s : State) (c : Code) : State :=
  match s.crew.lend with
  | none => s
  | some l =>
    let s1 := s.modCrew fun w => { w with lend := none, rings := (w.rings.set 3 []).set 7 [] }
    match s1.ops.find? fun o => o.id == l.op with
    | some o => s1.failRun o c
    | none => s1

/-- R29, R315: the strips of a loader that its unwinding takes back. -/
def Thread.stripsBack (t : Thread) : Nat :=
  if t.role = .loader then t.hist.countP fun h => match h.undo with | .strip _ => true | _ => false else 0

/-- R193, R315: the active bank as it stood before the queued cbloads of a thread that is unwound. -/
def Crew.rebank (c : Crew) (t : Thread) : Crew :=
  match t.vq.find? fun e => match e.ins with | .ins (.cbload _) => true | _ => false with
  | some e => { c with act := e.bank, pend := false }
  | none => c

/-- R315: one recorded write of a crew-scope register is taken back. -/
def Crew.undo (c : Crew) : Undo → Crew
  | .la old => { c with la := old }
  | .prcfg m n => { c with prM := m, prN := n }
  | .act old => { c with act := old }
  | _ => c

/-- R193, R315: what a thread that is unwound has made of its crew's registers is taken back. -/
def Crew.unwind (c : Crew) (t : Thread) : Crew := t.hist.foldl (fun c' h => c'.undo h.undo) (c.rebank t)

/-- R321 step 1: the stopped crew takes the next area of its pool, and writes its header there, INCOMPLETE. -/
def State.openArea (s : State) : State :=
  let c := s.crew
  match c.stop, s.poolExt c.ctx with
  | some st, some (_, e) =>
    let n := e.cap * e.recSize
    let a := s.poolTop c.ctx
    if st.area.isSome ∨ s.poolFloor c.ctx n < a + areaBytes c then s
    else
      (s.modCrew fun d => { d with stop := some { st with area := some a } }).poolPut c.ctx a
        ((s.headerMem c s.team st.reason st.fault false).bytes 0 4096)
  | _, _ => s

/-- R321: stop the current crew for a save of a reason. -/
def State.stopCrew (s : State) (reason : BitVec 4) (f : Option FaultRec) (dbg : Bool) : State :=
  let back := (s.team.map Thread.stripsBack).sum
  let s0 := s.modCrew fun c =>
    s.team.foldl Crew.unwind { c with consumed := c.consumed.take (c.consumed.length - back) }
  let s1 := (s0.mapTeam Thread.stopped).flushTeam
  let s2 := s1.endLend fltRunAbort
  (s2.modCrew fun c => { c with
    stop := some { reason := reason, fault := f, dbg := dbg, area := c.stop.bind StopInfo.area }, stepping := none
    stallCycles := if c.stop.isSome then c.stallCycles else 0 }).openArea

/-- R322: the pending tokens of a crew go to its save area, to the block that its thread's state has there. -/
def moveTokens (ops : List Op) (crew : Nat) (ctx : BitVec 16) (area : Nat) (ts : List Thread) : List Op :=
  ops.map fun o => match o.tok with
    | .live c idx p => if c = crew then { o with tok := .saved ctx area (ts.findIdx fun t => t.idx == idx) p } else o
    | _ => o

/-- R318: a handler task for a trapped context, on a freed slot. -/
def State.startHandler (s : State) (c : Crew) (g : TrapCfg) (area : Nat) (f : FaultRec) : State :=
  let core := c.coreIx
  match (if (s.codeBad g.drv g.entry).isSome then .bad else s.codeObj g.drv g.entry) with
  | .good cfg =>
    if cfg.getLsbD 24 || decide (mvlOf (s.capOf core) c.crews (cfg.extractLsb' 0 2) = 0) then s.kill c.ctx f
    else
      let ws := f.words
      let w (i : Nat) : Word := ws[i]?.getD 0
      s.startCrew
        { ctx := g.drv, die := c.die, core := c.core, slot := c.slot, priv := true
          handler := some { ctx := c.ctx, area := area, fault := f }
          cfg := (cfg &&& 0xFFFFFFFFF9FFFFFF) ||| BitVec.ofNat 64 (c.crews.toNat * 2 ^ 25)
          entry := g.entry, count := 0
          regs := [(3, g.pool), (4, BitVec.ofNat 64 area), (5, w 0), (6, w 1), (7, w 2), (8, w 3),
                   (9, w 4), (10, w 5), (11, w 6), (12, w 7), (13, zext64 c.ctx)]
          seed := seedOf 0 0, ddl := c.ddlInit, ts := 0, launch := none, task := 0, spec := none
          prio := c.prio }
  | _ => (s.withdrawBad (s.codeBad g.drv g.entry)).kill c.ctx f

/-- R346, R347: a record for each of a crew's thread slots, with the slot's saved PC. -/
def State.traceSlots (s : State) (c : Crew) (ts : List Thread) (type core : Nat) (data : Word) : State :=
  ts.foldl (fun s' t => if t.life = .retired then s'
    else s'.traceAt c.ctx type core (threadSlot c t) none (zext64 t.pc) data) s

/-- R321 step 5: the last crew of a context on its core: the core image is written, its buffers go, and it records
the crews saved with it (R326). -/
def State.saveImage (s : State) (c : Crew) (areas : List Nat) (off : Nat) : State :=
  let lines := s.linesOf c.coreIx (s.ownerOf c.ctx)
  let s1 := s.poolPaste c.ctx off imageArea (s.imageMem c.ctx c.coreIx lines)
  let i : CoreImage := { core := c.coreIx, off := off, lines := lines, areas := areas, loaded := none }
  { s1.modCtx c.ctx fun d => { d with images := d.images ++ [i] } with
    bufs := s1.bufs.filter fun b => !(b.core == c.coreIx && b.ctx == c.ctx) }

/-- R317, R318, R328, R348: what follows the save of a crew that stopped with a fault. -/
def State.afterSave (s : State) (c : Crew) (st : StopInfo) (g : Option TrapCfg) (area : Nat) : State :=
  match st.fault with
  | none => s
  | some f =>
    if st.reason = 4 then s.report c.ctx f
    else if st.dbg then s
    else
      match g with
      | some h => s.startHandler c h area f
      | none => s.kill c.ctx f

/-- R321 steps 4-7: save the stopped current crew when nothing is waited for: its area and core image
are written, its slot freed, its header reads COMPLETE, and a trap's handler is started. A crew that must still
wait stays stopped. -/
def State.trySave (s0 : State) : State :=
  let s := s0.openArea
  let c := s.crew
  match c.stop with
  | none => s
  | some st =>
    if 64 ≤ c.poison.length then s.kill c.ctx (bareFault fltUncorr)
    else
      let last := s.lastOnCore c
      if last && s.spadBusy c.ctx c.coreIx then s
      else
        match st.area, s.poolExt c.ctx, s.ctxOf c.ctx with
        | some area, some (_, e), some cx =>
          let ts := s.team
          let off := s.poolFloor c.ctx (e.cap * e.recSize) - imageArea
          if last && decide (s.poolFloor c.ctx (e.cap * e.recSize) < s.poolTop c.ctx + imageArea) then s
          else
            let old := SMap.slice (n := 8) (s.poolMem c.ctx) area (area + areaBytes c)
            let s1 := { s.poolPaste c.ctx area (areaBytes c) (s.areaMem c ts st.reason st.fault old) with
              ops := moveTokens s.ops c.id c.ctx area ts }
            let sv : SavedCrew :=
              { area := area, die := c.die, core := c.core, slot := c.slot, crewId := c.id
                resume := st.reason == 0 || st.reason == 1
                kept := { c with stop := none, prq := false, ddl := 0, stallCycles := 0 }, threads := ts
                need := crewNeed c ts, complete := true }
            let areas := area :: ((cx.saved.filter fun a => a.kept.coreIx == c.coreIx &&
              !(cx.images.any fun i => i.areas.contains a.area)).map SavedCrew.area)
            let s2 := s1.modCtx c.ctx fun d => { d with
              saved := d.saved ++ [sv]
              st := if s.crews.any (fun p => p.1.ctx == c.ctx && p.1.id != c.id) then d.st else .saved }
            let s3 := if last then s2.saveImage c areas off else s2
            let s4 := (s3.traceSlots c ts 4 c.coreIx (zext64 st.reason)).countThr 235
            let s5 := if st.reason = 1 ∨ st.reason = 4 then s4.countThr 236 else s4
            s5.dropCrew.afterSave c st cx.trap area
        | _, _, _ => s

/-- R41, R321 step 2: a save at yield: the crew issues no more, the vector instructions that its threads have queued
commit, so that a stalled thread's pc is the stalled instruction's, and then it is saved (DEDUCED, log 6). -/
def State.yieldSave (s : State) : State :=
  if s.team.all fun t => t.vq.isEmpty then (s.stopCrew 0 none false).trySave
  else
    (s.modCrew fun c => if c.stop.isSome then c
      else { c with stop := some { reason := 0, fault := none, dbg := false, area := none }, stallCycles := 0 }).openArea

/-- R321: what is left of the save of the current crew. -/
def State.goOnSave (s : State) : State :=
  match s.crew.stop with
  | some st => if st.reason = 0 then s.yieldSave else s.trySave
  | none => s

/-! ## Restore (R327) -/

/-- A word of saved bytes. -/
def areaWord (m : Mem) (k : Nat) : Word := m.word k

/-- R55: the role that a role word names, in bits 1:0. -/
def roleOfNum (w : Word) : Role :=
  match (w.extractLsb' 0 2).toNat with | 1 => .loader | 2 => .computer | 3 => .storer | _ => .solo

/-- R55, R325, R327: a thread as its saved block holds it. What the block does not hold comes from the
record the scheduler keeps; the address at which an execute breakpoint stopped it is kept while the saved PC names
it (R349). -/
def restoreThread (m : Mem) (b : Nat) (t : Thread) : Thread :=
  let o := blockOff b
  let w (k : Nat) : Word := m.word (o + k)
  { t with
    pc := (w 0).setWidth 56, skipBrk := t.skipBrk && (w 0).setWidth 56 == t.pc
    regs := Vector.ofFn fun (p : Fin 272) => if p.val = 0 then 0 else m.word (o + regOff p.val)
    role := roleOfNum (w 0xC8)
    csr := { t.csr with
      vl := (w 0x88).setWidth 18, sdesc := (w 0x90).setWidth 10, wb := (w 0x98).setWidth 5
      frm := (w 0xA8).setWidth 5, icfg := (w 0xB8).setWidth 8 }
    fflags := (w 0xA0).setWidth 7, iflags := (w 0xB0).setWidth 3
    depth := (w 0xC0).extractLsb' 3 2, lgBase := (w 0xC0).extractLsb' 5 4, lgCnt := (w 0xC0).extractLsb' 9 5
    scaleLen := (w 0xD0).setWidth 18, scaleSz := (w 0xD0).extractLsb' 20 2
    seed := (w 0xE8).setWidth 32
    pr := Vector.ofFn fun (k : Fin 8) => (w 0xE0).extractLsb' (2 * k.val) 2
    iv := Vector.ofFn fun (k : Fin 32) => { lo := m.word (o + 0x900 + 16 * k.val), hi := m.word (o + 0x908 + 16 * k.val) }
    cmask := BitVec.ofNat 32768 (leNat (m.bytes (o + 0x1000) 4096)) }

/-- R31, R327: the lane groups that the threads of a saved crew hold. -/
def laneParts (ts : List Thread) : List (Nat × Nat) := (ts.map fun t => (t.lgBase.toNat, t.lgCnt.toNat)).dedup

/-- R323, R327: vector register `r` as saved in rows of `row` bytes, for rows of `row'`: each context's elements keep
their numbers within its own lane groups, and those at or beyond the saved MVL read zero. -/
def restoreRow (m : Mem) (ps : List (Nat × Nat)) (row row' r : Nat) (v : Mem) : Mem :=
  ps.foldl (fun v' p =>
    let n := Nat.min (p.2 * row / 16) (p.2 * row' / 16)
    let a := 0x90000 + r * row + p.1 * row / 16
    v'.paste (r * 131072 + p.1 * row' / 16) n (SMap.slice (n := 8) m a (a + n))) v

/-- R324, R330: a poisoned word as the save lists it, for a target core's MVL. -/
def restorePoison (w : Nat) (ts : List Thread) (trio : Bool) (mvl mvl' : Nat) : Poison :=
  let f := w / 2 ^ 7 % 4
  let g := match ts.find? fun t => trio || t.idx == f with | some t => t.lgBase.toNat | none => 0
  { reg := w % 128, elem := w / 2 ^ 16 % 2 ^ 16 - g * (mvl / 16) + g * (mvl' / 16) }

/-- R256, R324, R327: the interlock ranges of a saved header whose operations are still pending. -/
def restoreLocks (m : Mem) (ctx : BitVec 16) (core : Nat) (live : Nat → Bool) : List ILock :=
  (List.range 32).filterMap fun i =>
    let k := (m.word (768 + 32 * i + 16)).toNat
    let r := (m.word (768 + 32 * i + 24)).toNat
    if 8 ≤ k ∧ live (k / 8 - 1) then
      some { target := if r = 0 then .spad core else .run ctx r
             lo := (m.word (768 + 32 * i)).toNat, hi := (m.word (768 + 32 * i + 8)).toNat
             write := k % 2 == 1, owner := k / 2 % 4, op := some (k / 8 - 1) }
    else none

/-- R55, R324, R327: a crew with the vcfg of its saved header; the header gives the MVL of its first context, which
holds `lg` lane groups. -/
def Crew.ofHeader (c : Crew) (m : Mem) (lg : Nat) : Crew :=
  let w := m.word 8
  { c with
    count := w.extractLsb' 0 2, ldn := w.extractLsb' 8 7, stn := w.extractLsb' 16 7
    trio := w.getLsbD 24, crews := w.extractLsb' 25 2
    mvl := BitVec.ofNat 16 ((w.extractLsb' 32 16).toNat * 16 / lg) }

/-- R324, R327: a ring slot as the header's word and the slot's row hold it. A word that is 0 is an empty slot, unless
the slot was saved with an entry whose own word is 0. What a word does not hold (a size above 8 bytes, the groups of a
packed entry, its strip) is that of the entry saved there while the word gives its size (DESIGN CHOICE, log 20). -/
def restoreEntry (m : Mem) (k j base row : Nat) (old : Option RingEntry) : Option RingEntry :=
  let w := m.nat (1792 + 4 * (k * 4 + j)) 4
  let n := w % 2 ^ 18
  let sz := 2 ^ (w / 2 ^ 20 % 4)
  let at' (unit per : Nat) : List Byte := m.bytes (base + (k * 4 + j) * row) (unit * ((n + per - 1) / per))
  match old with
  | some e =>
    if (codeOfSize e.esz).toNat = w / 2 ^ 20 % 4 then
      (if w = 0 ∧ e.count ≠ 0 then none else some { e with count := n, bytes := at' e.unit e.per })
    else some { e with count := n, esz := sz, unit := sz, per := 1, bytes := at' sz 1 }
  | none => if w = 0 then none else some { count := n, esz := sz, unit := sz, per := 1, strip := 0, bytes := at' sz 1 }

/-- R324, R327: a crew as its saved area holds it, with its threads, for a target core's MVL. -/
def restoreCrewOf (m : Mem) (c : Crew) (ts : List Thread) (mvl : Nat) : Crew :=
  let row := c.mvl.toNat * 4
  let cnt := countOf c.count
  let vr : Mem := (List.range cnt).foldl (fun v r => restoreRow m (laneParts ts) row (mvl * 4) r v) []
  let bqn := (m.word 0).toNat / 2 ^ 27 % 32
  let npois := (m.word 0).toNat / 2 ^ 32 % 64
  { c with
    mvl := BitVec.ofNat 16 mvl
    la := (m.word 16).getLsbD 0, prM := (m.word 24).extractLsb' 8 5, prN := (m.word 24).extractLsb' 0 5
    act := (m.word 32).getLsbD 0, pend := (m.word 32).getLsbD 1
    bq := (List.range bqn).map fun i => m.word (128 + 8 * i)
    poison := (List.range npois).map fun i => restorePoison (m.word (256 + 8 * i)).toNat ts c.trio c.mvl.toNat mvl
    cb0 := SMap.slice (n := 8) m 2048 3072, cb1 := SMap.slice (n := 8) m 3072 4096
    vregs := vr
    rings := Vector.ofFn fun (k : Fin 8) => (List.range 4).filterMap fun j =>
      restoreEntry m k.val j (0x90000 + cnt * row) row (c.rings[k])[j]? }

/-- R326: the buffer of an id that a core image's word describes; a FREE id has none. -/
def bufOfWord (core : Nat) (ctx : BitVec 16) (id : Nat) (w : Word) : Option Buf :=
  let st : Option BufSt := match (w.extractLsb' 23 3).toNat with
    | 1 => some .empty | 2 => some .filling | 3 => some .full | 4 => some .draining | _ => none
  st.map fun x => { core := core, ctx := ctx, id := id, base := (w.extractLsb' 26 22).toNat, size := (w.extractLsb' 0 22).toNat
                    comp := w.getLsbD 22, st := x, outs := 0, keep := true }

/-- R326: load a core image, as the pool holds it, onto a core: the lines that the context's owner held, and the
buffers in their saved states. -/
def State.loadImage (s : State) (ctx : BitVec 16) (i : CoreImage) (core : Nat) : State :=
  let owner := s.ownerOf ctx
  let base := core * Config.spadStride
  let m : Mem := SMap.slice (n := 8) (s.poolMem ctx) i.off (i.off + imageArea)
  let s1 := i.lines.foldl (fun s' l =>
    { s' with
      spad := s'.spad.paste (base + l * 64) 64 (SMap.slice (n := 8) m (l * 64) (l * 64 + 64))
      spadTag := s'.spadTag.write (base / 64 + l) [owner] }) s
  { s1 with bufs := s1.bufs ++ (List.range 256).filterMap fun k => bufOfWord core ctx k (m.word (Config.spadBytes + 8 * k)) }

/-- R327: why a restore is refused: an INCOMPLETE area, too little capacity, an image loaded elsewhere, a die that
the context's launch does not name, pinned queue segments that have no room yet (R308), or a bad sub-beat in what it
reads (R358). -/
inductive NoRestore where
  | incomplete | capacity | image | slot | die | segments
  | uncorr (d : Nat)
  deriving DecidableEq, Repr

/-- R358: the bad sub-beat that a restore's reads of a saved area and of its core image meet. -/
def State.savedBad (s : State) (ctx : BitVec 16) (sv : SavedCrew) (img : Option CoreImage) : Option Nat :=
  let x := (s.poolExt ctx).map Prod.fst
  (s.extBad x sv.area (areaBytes sv.kept)).or
    (img.bind fun i => if i.loaded.isNone then s.extBad x i.off imageArea else none)

/-- R327: whether a die is one that the launch of a saved crew names; a crew of no launch stays on its own die (log
70). -/
def State.dieNamed (s : State) (c : Crew) (die : BitVec 2) : Bool :=
  die == c.die || (match c.launch with
    | some l => s.launches.any fun x => x.id == l && x.dies.getLsbD die.toNat
    | none => false)

/-- R326, R327: restore a saved crew onto a slot of a core; the restored crew becomes the current one. eret (`own`)
restores onto the crew's own core, and never meets the refusal of an image that was loaded elsewhere. -/
def State.restoreCrew (s : State) (ctx : BitVec 16) (area : Nat) (die : BitVec 2) (core : BitVec 5) (own : Bool := false) :
    Except NoRestore State :=
  match s.ctxOf ctx with
  | none => .error .incomplete
  | some cx =>
    match cx.saved.find? fun a => a.area == area with
    | none => .error .incomplete
    | some sv =>
      let ix := die.toNat * 32 + core.toNat
      let head : Mem := SMap.slice (n := 8) (s.poolMem ctx) area (area + 0x9000)
      let ts := (List.range sv.threads.length).filterMap fun i => (sv.threads[i]?).map (restoreThread head i)
      let kept := sv.kept.ofHeader head (ts.headD Thread.init).lgCnt.toNat
      let m : Mem := SMap.slice (n := 8) (s.poolMem ctx) area (area + areaBytes kept)
      let mvl' := mvlOf (s.capOf ix) kept.crews kept.count
      if !sv.complete then .error .incomplete
      else if let some d := s.savedBad ctx sv (cx.images.find? fun i => i.areas.contains area) then .error (.uncorr d)
      else if !(m.word 0).getLsbD 0 then .error .incomplete
      else if !s.dieNamed sv.kept die then .error .die
      else if ts.any fun t => decide (mvl' * t.lgCnt.toNat / 16 < (m.word 40).toNat) then .error .capacity
      else
        let img := cx.images.find? fun i => i.areas.contains area
        if !own && (match img with | some i => (match i.loaded with | some l => l != ix | none => false) | none => false) then .error .image
        else
          match s.repin ctx with
          | none => .error .segments
          | some s1 => .ok (restoreOn s1 ctx { sv with kept := kept } ts m die core mvl' img)
where
  /-- The accepted restore: image, banks, tokens, threads. -/
  restoreOn (s : State) (ctx : BitVec 16) (sv : SavedCrew) (ts : List Thread) (m : Mem) (die : BitVec 2) (core : BitVec 5)
      (mvl' : Nat) (img : Option CoreImage) : State :=
    let ix := die.toNat * 32 + core.toNat
    let s1 := match img with
      | some i => if i.loaded.isNone then s.loadImage ctx i ix else s
      | none => s
    let s2 := s1.modCtx ctx fun c => { c with
      st := .running
      saved := c.saved.filter fun a => a.area != sv.area
      images := c.images.filterMap fun i =>
        if i.areas.contains sv.area then
          (if i.areas.length ≤ 1 then none
           else some { i with areas := i.areas.filter fun a => a != sv.area, loaded := some ix })
        else some i }
    let acc := (accsOf sv.kept).foldl (fun a k =>
      a.paste ((ix * 4 + k) * 2 * 65536) 0x20000 (SMap.slice (n := 8) m (0x9000 + k * 0x20000) (0x9000 + k * 0x20000 + 0x20000))) s2.acc
    let accInt := (accsOf sv.kept).foldl (fun a k =>
      a.write (ix * 4 + k) [BitVec.ofBool ((m.word 56).getLsbD k)]) s2.accInt
    let c := { restoreCrewOf m sv.kept ts mvl' with
      die := die, core := core
      ilock := restoreLocks m ctx ix fun o => s.ops.any fun x => x.id == o }
    let ops := s2.ops.map fun o => match o.tok with
      | .saved cc aa b p =>
        if cc = ctx ∧ aa = sv.area then { o with tok := .live c.id (match ts[b]? with | some t => t.idx | none => b) p } else o
      | _ => o
    let s3 := { s2 with acc := acc, accInt := accInt, ops := ops }
    let s4 := { s3 with
      live := true, crew := c, thr := ts.headD Thread.init, mates := ts.drop 1
      others := if s3.live then s3.others ++ [(s3.crew, s3.thr :: s3.mates)] else s3.others }
    (s4.traceSlots c ts 5 ix (s4.coreidWord ix)).countThr 237

/-! ## Taking a fault and returning -/

/-- R339: the events that a fault counts: the trap, and FLT_SCALE_COUNT and FLT_QUEUE_SPILL by their own. -/
def State.countTrap (s : State) (code : Code) : State :=
  let s1 := s.countThr 233
  if code = fltScaleCount then s1.countThr 119 else if code = fltQueueSpill then s1.countThr 211 else s1

/-- R358: what a fault's trap withdraws. -/
def State.withdrawFor (s : State) (t : Trap) : State :=
  match t.frame with
  | some f => s.withdraw f
  | none => s

/-- R315-R318, R348: take a fault in the thread that issues, whose earlier vector instructions have
committed: the crew stops at the thread's vcp and is saved, and its handler starts in the freed slot; a
context with no handler is killed; an attached debugger that catches traps gets the stopped crew; a
handler's own fault kills the trapped context. FLT_TRAP resumes after the trap instruction. -/
def State.takeTrap (s : State) (t : Trap) : State :=
  let f := faultOf s.crew s.thr t
  let s0 := ((s.trace1 2 f.elem (zext64 f.pc) f.word0).countTrap t.code).withdrawFor t
  match s0.crew.handler with
  | some h => ((s0.removeCrews fun c => c.id == s0.crew.id).kill h.ctx h.fault).report h.ctx f
  | none =>
    let s1 := if t.code = fltTrap then s0.modThr Thread.next else s0
    match s1.ctxOf s1.crew.ctx with
    | none => s1.dropCrew
    | some cx =>
      if cx.dbg == some true then
        ((s1.stopCrew 3 (some f) true).trySave)
      else
        match cx.trap with
        | none => s1.kill s1.crew.ctx f
        | some _ => (s1.stopCrew 2 (some f) false).trySave

/-- R319: eret in privileged mode, once the handler's tokens are written: the trapped crew is restored
onto the slot the handler frees; a refused restore kills the trapped context. -/
def State.doEret (s : State) (h : HandlerOf) : State :=
  let c := s.crew
  let s1 := s.dropCrew
  match s1.restoreCrew h.ctx h.area c.die c.core true with
  | .ok s2 => s2
  | .error (.uncorr d) => (s1.withdraw (d / 1024)).kill h.ctx (bareFault fltUncorr)
  | .error _ => s1.kill h.ctx (bareFault fltRestoreCapacity)

/-! ## How a meaning ends -/

/-- R41, R345: the instruction does not issue now; the thread waits at it. -/
def State.mark (s : State) (w : Why) : State := s.modThr fun t => { t with life := .stalled w }

/-- R309: a miss joins those outstanding, in order of arrival. -/
def State.addMiss (s : State) (ctx : BitVec 16) (idx : Nat) : State :=
  if s.misses.contains (ctx, idx) then s else { s with misses := s.misses ++ [(ctx, idx)] }

/-- R163, R309: a miss that a thread's wait raises joins those outstanding. -/
def State.missed (s : State) (w : Why) : State :=
  match w with
  | .queueMiss i =>
    if s.misses.contains (s.crew.ctx, i) || !((s.queueAt { ctx := s.crew.ctx, idx := i }).map BEntry.live).getD false then s
    else { (s.countThr 204) with misses := s.misses ++ [(s.crew.ctx, i)] }
  | _ => s

/-- Stop and save the current crew for the debugger or a replay (R349, R351, R354). -/
def State.saveStopped (s : State) (f : Option FaultRec) : State := (s.stopCrew 3 f true).trySave

/-- Stop and save a crew of the current context for the debugger, with a STOP record (R349). -/
def State.stopForDebug (s : State) (cause : Nat) (f : Option FaultRec) : State :=
  (s.stopRecord cause 0 (f.bind FaultRec.elem)).saveStopped f

/-- R37, R63, R315, R349: what a stop found at issue waits for: the thread's earlier vector instructions and
held stores, and in a speculative task until it is the oldest; then it is taken. -/
def State.whenDue (s : State) (take : State → State) : State :=
  if !s.thr.vq.isEmpty then s.mark .vectorQueue
  else if s.thr.held.isSome then s.mark .performed
  else if s.crew.speculating then s.mark .oldest
  else take s

/-- Raise a fault found at issue. -/
def State.raise (s : State) (t : Trap) : State := s.whenDue fun s' => s'.takeTrap t

/-- R349: the crew of a thread stops at a watch hit. -/
def State.stopWatch (s : State) (elem : Option Nat) : State :=
  s.stopForDebug 1 (some { faultOf s.crew s.thr { code := 0 } with elem := elem })

/-- R351, R354: every crew of a context stops, after one record; with none on a core, only the record is made. -/
def State.haltCtx (s : State) (ctx : BitVec 16) (cause entry : Nat) : State :=
  match (s.crews.filter fun p => p.1.ctx == ctx).map fun p => p.1.id with
  | [] => s.traceAt ctx (if cause = 5 then 10 else 3) 0 0 none 0 (BitVec.ofNat 64 (if cause = 5 then entry else cause))
  | id :: ids =>
    let s1 := match s.focusCrew id with
      | some s' => s'.stopRecord cause entry none
      | none => s
    (id :: ids).foldl (fun s' i => match s'.focusCrew i with
      | some s2 => s2.saveStopped none
      | none => s') s1

/-- R351, R354: every crew of the current context stops. -/
def State.stopContext (s : State) (cause entry : Nat) : State := s.haltCtx s.crew.ctx cause entry

/-- How every meaning of a thread's instruction ends: the effect, a wait, or a fault. -/
def finish (s : State) (r : R State) : Host.Outcome State Fault Refusal :=
  match r with
  | .ok s' => .next s'
  | .error (.stall w) => .next ((s.missed w).mark w)
  | .error (.trap t) => .next (s.raise t)
  | .error (.halt c n) => .next (s.stopContext c n)
  | .error (.watch e) => .next (s.whenDue fun s' => s'.stopWatch e)

end Sys2Proof.Machine
end

