-- ==== Sys2Proof/Machine/Control.lean ====
section
/-! DEFINITION. Branches, calls, control registers, the register window, strips and grants, traps, yield
and halt (R93-R102, R319). -/

namespace Sys2Proof.Machine

/-! ## The vector length a thread needs -/

/-- R30, R117, R118, R167, R170: a queued instruction whose commit may lower vl. -/
def VIns.truncates : VIns → Bool
  | .qpush _ _ => true
  | .qtake _ _ => true
  | .ins (.vldff _ _ _ _ _) => true
  | .ins (.vld _ _ b _ _) => b != .s 0
  | .ins _ => false

/-- R29, R99: a computer or storer takes the length its loader consumed with the strip of the same ordinal, a recorded
write (R85). -/
def State.granted (s : State) : R State := do
  if s.thr.needVl then
    match s.crew.consumed[s.thr.strips]? with
    | some v => do
      await s.thr.histRoom .history
      .ok (s.modThr fun t => { t.record (.vl t.csr) with csr := { t.csr with vl := v, grant := v }, needVl := false })
    | none => if s.roleRetired .loader then flt fltRingClosed else stall .grant
  else .ok s

/-- R29, R99, R118: the vl of the thread that issues is settled: no queued instruction may still lower it, and the
loader's length has come. -/
def State.vlReady (s : State) : R State := do
  await (!(s.thr.vq.any fun e => e.ins.truncates)) .commit
  s.granted

/-- R54, R315: wait until every earlier vector instruction of the thread has committed. -/
def State.drained (s : State) : R Unit := await s.thr.vq.isEmpty .vectorQueue

/-! ## Branches -/

/-- R93: the scalar register of a 6-bit field; codes 56-63 name none. -/
def regOf6 (r : BitVec 6) : Opd := if h : r.toNat < 56 then .s ⟨r.toNat, h⟩ else .ring 0

/-- R93: a compare branch. -/
def compareBranch (s : State) (r : BitVec 6) (a : Opd) (i : BitVec 11) (c : Word → Word → Bool) :
    Host.Outcome State Fault Refusal :=
  finish s do
    let x ← s.rd (regOf6 r)
    let y ← s.rd a
    .ok (if c x y then s.modThr fun t => { t with pc := target t.pc i } else s.adv)

/-- BEQ (R93). -/
def execBeq (r : BitVec 6) (a : Opd) (i : BitVec 11) (s : State) : Host.Outcome State Fault Refusal :=
  compareBranch s r a i fun x y => x == y

/-- BNE (R93). -/
def execBne (r : BitVec 6) (a : Opd) (i : BitVec 11) (s : State) : Host.Outcome State Fault Refusal :=
  compareBranch s r a i fun x y => x != y

/-- BLT (R93). -/
def execBlt (r : BitVec 6) (a : Opd) (i : BitVec 11) (s : State) : Host.Outcome State Fault Refusal :=
  compareBranch s r a i fun x y => x.slt y

/-- BGE (R93). -/
def execBge (r : BitVec 6) (a : Opd) (i : BitVec 11) (s : State) : Host.Outcome State Fault Refusal :=
  compareBranch s r a i fun x y => !x.slt y

/-- BLTU (R93). -/
def execBltu (r : BitVec 6) (a : Opd) (i : BitVec 11) (s : State) : Host.Outcome State Fault Refusal :=
  compareBranch s r a i fun x y => x.ult y

/-- BGEU (R93). -/
def execBgeu (r : BitVec 6) (a : Opd) (i : BitVec 11) (s : State) : Host.Outcome State Fault Refusal :=
  compareBranch s r a i fun x y => !x.ult y

/-- R94: a predicate branch on a tested value. -/
def predBranch (s : State) (p : BitVec 3) (i : BitVec 18) (v : BitVec 2) :
    Host.Outcome State Fault Refusal :=
  finish s do
    let x := s.thr.pr[Fin.ofNat 8 p.toNat]
    need (x != 3) fltIllegal
    .ok (if x = v then s.modThr fun t => { t with pc := target t.pc i } else s.adv)

/-- BP_T (R94). -/
def execBpT (p : BitVec 3) (i : BitVec 18) (s : State) : Host.Outcome State Fault Refusal :=
  predBranch s p i 1

/-- BP_F (R94). -/
def execBpF (p : BitVec 3) (i : BitVec 18) (s : State) : Host.Outcome State Fault Refusal :=
  predBranch s p i 0

/-- BP_U (R94). -/
def execBpU (p : BitVec 3) (i : BitVec 18) (s : State) : Host.Outcome State Fault Refusal :=
  predBranch s p i 2

/-- CALL (R95). -/
def execCall (d : Opd) (i : BitVec 18) (s : State) : Host.Outcome State Fault Refusal :=
  finish s do
    let s1 ← s.wr d (zext64 (s.thr.pc + 4))
    .ok (s1.modThr fun t => { t with pc := target t.pc i })

/-- JR (R95). -/
def execJr (d a : Opd) (s : State) : Host.Outcome State Fault Refusal :=
  finish s do
    let x ← s.rd a
    let s1 ← s.wr d (zext64 (s.thr.pc + 4))
    .ok (s1.modThr fun t => { t with pc := x.setWidth 56 &&& ~~~(3 : Addr) })

/-! ## Control registers -/

/-- R55: vcp. -/
def vcpWord (t : Thread) : Word :=
  match t.vq with
  | [] => zext64 t.pc
  | e :: _ => BitVec.ofNat 64 (t.vq.length % 128 * 2 ^ 56 + e.pc.toNat)

/-- R53-R55: what crd reads of a control register; none where the number names no register. -/
def State.crdWord (s : State) (n : Nat) : Option Word :=
  let t := s.thr
  let c := s.crew
  match n with
  | 0 => some (zext64 t.csr.vl)
  | 1 => some (vcfgWord c t)
  | 2 => some (vscfgWord t)
  | 3 => some (zext64 t.csr.sdesc)
  | 4 => some (zext64 t.csr.wb)
  | 5 => some (zext64 t.fflags)
  | 6 => some (zext64 t.csr.frm)
  | 7 => some (zext64 t.iflags)
  | 8 => some (zext64 t.csr.icfg)
  | 9 => some (rmodeWord c s.seedNow)
  | 10 => some (vcpWord t)
  | 11 => some (ofBool c.prq)
  | 12 => some (zext64 c.ddl)
  | 13 => some (BitVec.ofNat 64 (s.owner.toNat * 65536 + c.ctx.toNat))
  | 14 => some (s.coreidWord c.coreIx)
  | 15 => some (crewidWord c t)
  | 16 => some (BitVec.ofNat 64 t.role.num)
  | 17 => some (prcfgWord c)
  | 18 => some (cbselWord c)
  | 19 => some (ofBool s.translating)
  | 20 => some (BitVec.ofNat 64 s.clk)
  | _ => none
where
  /-- A flag as a word. -/
  ofBool (b : Bool) : Word := if b then 1 else 0

/-- CRD (R96): vl waits under R99, and fflags and iflags wait under R54. -/
def execCrd (d : Opd) (b : BitVec 7) (s : State) : Host.Outcome State Fault Refusal :=
  finish s do
    need (decide (b.toNat ≤ 20)) fltIllegal
    let s1 ← if b = 0 then s.vlReady else .ok s
    if b = 5 ∨ b = 7 then s1.drained
    match s1.crdWord b.toNat with
    | none => flt fltIllegal
    | some v => do
      let s2 ← s1.wr d v
      .ok s2.adv

/-- R53: a context that has no parent and no unjoined child. -/
def State.unforked (s : State) : Bool :=
  s.thr.parent.isNone && s.mates.all fun t => t.parent != some s.thr.idx

/-- R50: cwr to vcfg. -/
def State.cwrVcfg (s : State) (x : Word) : R State := do
  need (!s.crew.trio && s.unforked) fltCrewMode
  s.drained
  need (x.extractLsb' 8 7 == 0 && x.extractLsb' 16 7 == 0) fltOperand
  let count : BitVec 2 := x.extractLsb' 0 2
  let mvl := mvlOf (s.capOf s.crew.coreIx) s.crew.crews count
  let s1 := s.modCrew fun c => { c with count := count, mvl := BitVec.ofNat 16 mvl, vregs := [], poison := [] }
  .ok (s1.modThr fun t => { t with
    scaleLen := 0, need := 0
    csr := { t.csr with vl := BitVec.ofNat 18 (Nat.min t.csr.vl.toNat (mvl * 4 / t.csr.gsz)) } })

/-- R55, R96, R118: cwr to vl waits for no queued load; what such a load makes of vl later counts as made before it.
In a computer or storer the length that bounds it must have come (DEDUCED, log 57). -/
def State.setVl (s : State) (v : BitVec 18) : R State := do
  await s.thr.histRoom .history
  .ok (s.modThr fun t => { t.record (.vlw t.csr) with csr := { t.csr with vl := v } })

/-- R54, R315: a write of a crew-scope register is recorded, so that a late fault takes it back. -/
def State.recorded (s : State) (u : Undo) : R State := do
  await s.thr.histRoom .history
  .ok (s.modThr fun t => t.record u)

/-- R55: cwr to rmode. A queued instruction holds the S before it, so only LA is recorded. -/
def State.cwrRmode (s : State) (x : Word) : R State := do
  need (!s.crew.trio || s.thr.role == .computer) fltCrewMode
  need (x.extractLsb' 32 32 != 0) fltOperand
  let s0 ← s.recorded (.la s.crew.la)
  let (v, s1) ← s0.seedPoint (x.extractLsb' 32 32)
  .ok ((s1.modThr fun t => { t with seed := v }).modCrew fun c => { c with la := x.getLsbD 0 })

/-- R54: the crew-scope registers that only the computer of a trio may write. -/
def State.crewWriter (s : State) : R Unit := need (!s.crew.trio || s.thr.role == .computer) fltCrewMode

/-- R55, R96: cwr, field by field, of a value to a control register. A write of a crew-scope register is
recorded like one of thread scope, so that a late fault finds nothing after vcp changed (R315; DEDUCED,
log 22). -/
def State.cwr (s : State) (n : Nat) (x : Word) : R State :=
  match n with
  | 0 => do
    let s1 ← s.granted
    need (decide (x.toNat % 2 ^ 18 ≤ s1.thr.csr.grant.toNat)) fltOperand
    s1.setVl (x.setWidth 18)
  | 1 => s.cwrVcfg x
  | 3 => s.setCsr { s.thr.csr with sdesc := x.setWidth 10 }
  | 4 => do
    need (decide (x.toNat % 32 ≤ 27)) fltOperand
    s.setCsr { s.thr.csr with wb := x.setWidth 5 }
  | 5 => do
    s.drained
    .ok (s.modThr fun t => { t with fflags := t.fflags &&& ~~~x.setWidth 7 })
  | 6 => do
    need (decide (x.toNat % 8 ≤ 4)) fltOperand
    s.setCsr { s.thr.csr with frm := x.setWidth 5 &&& 0b10111 }
  | 7 => do
    s.drained
    .ok (s.modThr fun t => { t with iflags := t.iflags &&& ~~~x.setWidth 3 })
  | 8 => s.setCsr { s.thr.csr with icfg := x.setWidth 8 }
  | 9 => s.cwrRmode x
  | 17 => do
    s.crewWriter
    let s1 ← s.recorded (.prcfg s.crew.prM s.crew.prN)
    .ok (s1.modCrew fun c => { c with prM := x.extractLsb' 8 5, prN := x.extractLsb' 0 5 })
  | 18 => do
    s.crewWriter
    await (!s.crew.pend) .commit
    let s1 ← s.recorded (.act s.crew.act)
    .ok (s1.modCrew fun c => { c with act := x.getLsbD 0 })
  | 19 => do
    need s.crew.priv fltPriv
    .ok (s.modCtx s.crew.ctx fun c => { c with translate := x.getLsbD 0 })
  | _ => .ok s

/-- R64: the checks of cwr that come before any operand is read: the number, the crew mode, privilege. -/
def State.cwrGate (s : State) (n : Nat) : R Unit := do
  need (decide (n ≤ 20)) fltIllegal
  if n = 1 then need (!s.crew.trio && s.unforked) fltCrewMode
  if n = 9 ∨ n = 17 ∨ n = 18 then s.crewWriter
  if n = 19 then need s.crew.priv fltPriv

/-- CWR (R96). -/
def execCwr (a : Opd) (b : BitVec 7) (s : State) : Host.Outcome State Fault Refusal :=
  finish s do
    s.cwrGate b.toNat
    let x ← s.rd a
    let s1 ← s.cwr b.toNat x
    .ok s1.adv

/-- WBASE (R97): the link register is global, so it is the same under both windows. -/
def execWbase (d a : Opd) (s : State) : Host.Outcome State Fault Refusal :=
  finish s do
    need (decide (opdNum d < 16)) fltIllegal
    let x ← s.rd a
    let n := (s.thr.csr.wb.toNat : Int) + x.toInt
    need (decide (0 ≤ n) && decide (n ≤ 27)) fltOperand
    let s1 ← s.wr d (zext64 s.thr.csr.wb)
    let s2 ← s1.setCsr { s1.thr.csr with wb := BitVec.ofInt 5 n }
    .ok s2.adv

/-! ## Strip and setvl -/

/-- R99: one strip pointer moves on by vl elements of its size. -/
def State.bump (s : State) (ptr : Opd) (k vl : Nat) : R State := do
  let r ← opdPlus ptr k
  let x ← s.rd r
  .ok (s.put r (x + BitVec.ofNat 64 (vl * s.thr.csr.esz k)))

/-- R99: the strip pointers move on, lowest first. -/
def State.bumpAll (s : State) (ptr : Opd) (vl : Nat) : Nat → R State
  | 0 => s.bump ptr 0 vl
  | k + 1 => do
    let s1 ← s.bumpAll ptr vl k
    s1.bump ptr (k + 1) vl

/-- R29, R99: the strip is consumed: the loader's length is passed on, and the thread's strip count and
ordering interval advance. -/
def State.consume (s : State) : State :=
  let s1 := if s.thr.role = .loader then s.modCrew fun c => { c with consumed := c.consumed ++ [s.thr.csr.vl] } else s
  s1.modThr fun t =>
    { t.record (.strip t.needVl) with strips := t.strips + 1, interval := t.interval + 1 }

/-- R351: the ordinal of a thread's next grant, which tells the contexts of a forked task apart (log 20). -/
def Thread.grantOrdinal (t : Thread) : Nat := t.idx * 2 ^ 28 + t.strips

/-- R28, R99, R350: the vl after a strip that leaves `rem` elements. In a step it must have come by then, so that
DBGSTOP can stop the thread before its strip. -/
def State.nextVl (s : State) (rem : Nat) : R State := do
  let c := s.thr.csr
  if rem = 0 then s.setCsr { c with vl := 0, grant := 0 }
  else if s.thr.role = .computer ∨ s.thr.role = .storer then do
    await (s.crew.stepping.isNone || s.crew.consumed[s.thr.strips]?.isSome) .grant
    .ok (s.modThr fun t => { t with needVl := true })
  else do
    let (g, s1) ← s.grant rem c.gsz s.thr.grantOrdinal
    s1.setCsr { c with vl := BitVec.ofNat 18 g, grant := BitVec.ofNat 18 g }

/-- STRIP (R99). -/
def execStrip (c p : Opd) (n : BitVec 2) (x : BitVec 9) (s : State) : Host.Outcome State Fault Refusal :=
  finish s do
    need (opdNum c != 0 && decide (opdNum p + n.toNat ≤ 55) && (opdNum p != 0 || n == 0)) fltIllegal
    let s0 ← s.vlReady
    let cnt ← s0.rd c
    let vl := s0.thr.csr.vl.toNat
    need (decide (vl ≤ cnt.toNat)) fltOperand
    let s1 := s0.put c (cnt - BitVec.ofNat 64 vl)
    let s2 ← if opdNum p = 0 then .ok s1 else s1.bumpAll p vl n.toNat
    let left ← s2.rd c
    let s3 ← (s2.consume).nextVl left.toNat
    (if left = 0 then s3.adv else s3.modThr fun t => { t with pc := target t.pc x }).histKept

/-- SETVL (R100). -/
def execSetvl (d a : Opd) (s : State) : Host.Outcome State Fault Refusal :=
  finish s do
    need (!s.crew.trio) fltCrewMode
    let s0 ← s.vlReady
    let x ← s0.rd a
    let v := Nat.min x.toNat (s0.mvl * 4 / s0.thr.csr.gsz)
    let s1 ← s0.setCsr { s0.thr.csr with vl := BitVec.ofNat 18 v, grant := BitVec.ofNat 18 v }
    let s2 ← s1.wr d (BitVec.ofNat 64 v)
    .ok (s2.modThr fun t => { t.next with interval := t.interval + 1 })

/-! ## Trap, eret, yield and halt -/

/-- TRAP (R101). -/
def execTrap (a : Opd) (b : BitVec 7) (s : State) : Host.Outcome State Fault Refusal :=
  finish s do
    need (decide (b.toNat < 56)) fltIllegal
    let x ← s.rd a
    .error (.trap { code := fltTrap, obj := zext64 b, value := x })

/-- R102, R319: whether the thread that issues still awaits a token. -/
def State.awaitsToken (s : State) : Bool :=
  s.ops.any fun o => o.crew == s.crew.id && o.thread == s.thr.idx && o.tok != .dropped

/-- R319: whether any token of the handler that issues eret is still to be written, of its forked children too. -/
def State.handlerAwaits (s : State) : Bool := s.ops.any fun o => o.crew == s.crew.id && o.tok != .dropped

/-- ERET (R319): it waits for every token of the handler, and for room for the pinned segments of the context
(R308). -/
def execEret (s : State) : Host.Outcome State Fault Refusal :=
  finish s do
    match s.crew.handler with
    | none => flt fltPriv
    | some h =>
      need s.crew.priv fltPriv
      s.drained
      await (!s.handlerAwaits) .tokens
      await (s.repin h.ctx).isSome .release
      .ok (s.flushTeam.doEret h)

/-- YIELD (R41). With prq set it is ready once the vector instructions before it have committed, and until then it is
stalled at issue (DEDUCED, log 6). -/
def execYield (s : State) : Host.Outcome State Fault Refusal :=
  finish s do
    if !s.crew.prq then .ok s.adv
    else do
      s.drained
      .ok (s.modThr fun t => { t.next with life := .ready })

/-- HALT (R33, R102): a computer whose rings are lent first gets them back, with the token that ends its
user merge (R153), and then halts. -/
def execHalt (s : State) : Host.Outcome State Fault Refusal :=
  finish s do
    need s.unforked fltCrewMode
    s.drained
    if s.thr.role == .computer && s.crew.lend.isSome then .ok (s.endLend fltRingClosed)
    else do
      await (!s.awaitsToken) .tokens
      .ok s.flushThr.retireThr

/-- ILLEGAL_INSTRUCTION (R63): a word that is no instruction. -/
def execIllegalInstruction (_w : BitVec 32) (s : State) : Host.Outcome State Fault Refusal :=
  finish s (flt fltIllegal)

end Sys2Proof.Machine
end

