-- ==== Sys2Proof/Machine/Operands.lean ====
section
/-! DEFINITION. How a vector instruction enters the queue, reads its sources, writes its destination and
commits: register classes, rings, masks, broadcasts, captured state, scale length and poison (R43, R48,
R49, R54, R58, R59, R98, R103-R105, R290, R330). -/

namespace Sys2Proof.Machine

/-! ## Element types -/

/-- R60: bytes of a width. -/
def wSize : Width → Nat
  | .w8 => 1 | .w16 => 2 | .w32 => 4 | .w64 => 8

/-- R69: a number modulo 2^w, as an element of `s` bytes. -/
def wrapI (s : Nat) (i : Int) : Nat := (i % (2 ^ (8 * s) : Int)).toNat

/-! ## The queue -/

/-- The operands and limits of a vector instruction (R58, R55). `srcs` are vector or ring sources, `dst` a
vector or ring destination, `vdst` and `vsrcs` take vector registers only, `sdst` and the captured
`sD`, `sA`, `sB` are scalars; `size` is the element size of the vl limit. -/
structure VShape where
  srcs : List Opd := []
  dst : Option Opd := none
  vdst : List Opd := []
  sdst : Option Opd := none
  sD : Option Opd := none
  sA : Option Opd := none
  sB : Option Opd := none
  size : Nat := 1
  step : Bool := false
  deriving DecidableEq, Repr

/-- R58, R59: b as a data source: a scalar broadcasts, anything else is read. -/
def VShape.withB (v : VShape) (b : Opd) : VShape :=
  match b with
  | .s _ => { v with sB := some b }
  | _ => { v with srcs := v.srcs ++ [b] }

/-- R25, R43: a vector or ring source. -/
def State.srcOk (s : State) : Opd → Bool
  | .v n => s.vOk n.val
  | .ring k => s.crew.trio && ringReadable s.thr.role k
  | .s _ => false

/-- R25, R43: a vector or ring destination. -/
def State.dstOk (s : State) : Opd → Bool
  | .v n => s.vOk n.val
  | .ring k => s.crew.trio && ringWritable s.thr.role k
  | .s _ => false

/-- R43: a vector register of the thread's own part. -/
def State.vregOk (s : State) : Opd → Bool
  | .v n => s.vOk n.val
  | _ => false

/-- A scalar code. -/
def isScalar : Opd → Bool
  | .s _ => true
  | _ => false

/-- R43, R58: every operand has its class. -/
def VShape.legal (v : VShape) (s : State) : Bool :=
  v.srcs.all s.srcOk && v.dst.all s.dstOk && v.vdst.all s.vregOk && v.sdst.all isScalar &&
    v.sD.all isScalar && v.sA.all isScalar && v.sB.all isScalar

/-- The rings among operands, each once (R26). -/
def ringsOf (os : List Opd) : List (Fin 8) :=
  (os.filterMap fun o => match o with | .ring k => some k | _ => none).eraseDups

/-- R59: a scalar captured at entry. -/
def State.capture (s : State) (o : Option Opd) : R Word :=
  match o with
  | none => .ok 0
  | some x => s.rd x

/-- R151: while ka3 and kb3 are lent, a loader instruction that names ka3 and a storer instruction that names
kb3 stall, whatever their vl. -/
def State.notLent (s : State) (k : Fin 8) : R Unit :=
  if (s.thr.role == .storer && k == 7) || (s.thr.role == .loader && k == 3) then await s.crew.lend.isNone .lend
  else .ok ()

/-- R26, R102: a ring source is there, counting the entries that queued instructions will take. -/
def State.ringReady (s : State) (k : Fin 8) : R Unit := do
  let taken := s.thr.vq.countP fun e => e.rin.contains k
  if s.crew.rings[k].length ≤ taken then
    (if s.roleRetired (ringWriter k) && !(k == 3 && s.crew.lend.isSome) then flt fltRingClosed else stall .ring)

/-- R26, R102: a ring destination has room. -/
def State.ringRoom (s : State) (k : Fin 8) : R Unit := do
  let coming := s.thr.vq.countP fun e => e.rout == some k
  if 4 ≤ s.crew.rings[k].length + coming then
    (if s.roleRetired (ringReader k) && !(k == 7 && s.crew.lend.isSome) then flt fltRingClosed else stall .ringFull)

/-- R64, R114, R126: the check of a stream's handle and of its run's state, made when it issues. -/
def State.streamBad (s : State) (ins : VIns) (h : Word) : Option Code :=
  match ins.streams with
  | none => none
  | some write =>
    match s.handle h with
    | .error _ => some fltRunHandle
    | .ok (_, c, _) => if (if write then c.mayWrite s.owner else c.mayRead s.owner) then none else some fltRunState

/-- R54, R75, R98, R105, R114, R126: what a vector instruction captures when it enters the queue. -/
def State.entry (s : State) (ins : VIns) (v : VShape) (sD sA sB : Word) (ivB : Ival) : VEntry :=
  let t := s.thr
  let stepping := v.step && rmStochastic t.csr.frm && (t.role == .solo || t.role == .computer)
  let live := t.csr.vl != 0
  { ins := ins, pc := t.pc, seq := t.vseq + 1, vl := t.csr.vl.toNat, frm := t.csr.frm
    la := s.crew.la, prM := s.crew.prM, prN := s.crew.prN, icfg := t.csr.icfg, bank := s.crew.act
    seed0 := t.seed, seed := if stepping then lfsrStep t.seed else t.seed
    sD := sD, sA := sA, sB := sB, ivB := ivB
    dst := match v.sdst with
      | some (.s n) => if n.val = 0 then none else some (t.phys n.val)
      | _ => none
    rin := if live then ringsOf v.srcs else []
    rout := if live then (match v.dst with | some (.ring k) => some k | _ => none) else none
    named := ringsOf (v.srcs ++ v.dst.toList), xmode := s.translating, interval := t.interval
    strip := t.strips, gen := s.crew.cbGen
    bufs := s.bufs.filter fun b => b.core == s.crew.coreIx && b.ctx == s.crew.ctx
    runBad := s.streamBad ins sB }

/-- R193: a queued cbload. -/
def VIns.isCbload : VIns → Bool
  | .ins (.cbload _) => true
  | _ => false

/-- R63, R64, R290: a vector instruction issues. `mode` holds its crew-mode check, `chk` its checks against
register values. With an empty queue and no lag it commits at once (log 6). A gather or scatter that has
stopped with its completion mask stays at its pc (R119). -/
def issueV (s : State) (ins : VIns) (v : VShape) (mode : R Unit) (chk : State → VEntry → R Unit)
    (eff : VEntry → State → R State) (ivB : Ival := { lo := 0, hi := 0 }) :
    Host.Outcome State Fault Refusal :=
  finish s do
    need (v.legal s) fltIllegal
    mode
    let s0 ← s.vlReady
    let sD ← s0.capture v.sD
    let sA ← s0.capture v.sA
    let sB ← s0.capture v.sB
    match v.sdst with
    | some d => s0.wrOk d
    | none => .ok ()
    need (decide (s0.thr.csr.vl.toNat * v.size ≤ s0.mvl * 4)) fltOperand
    let e := s0.entry ins v sD sA sB ivB
    chk s0 e
    e.named.forM s0.notLent
    e.rin.forM s0.ringReady
    match e.rout with
    | some k => s0.ringRoom k
    | none => .ok ()
    await (decide (s0.thr.vq.length < Config.vqEntries)) .vectorQueue
    let s1 := s0.modThr fun t => { t with seed := e.seed, vseq := e.seq }
    if s1.thr.vq.isEmpty && s1.lag == 0 then do
      let s2 ← eff e s1
      .ok (if s2.thr.cover && !s.thr.cover then s2 else s2.adv)
    else .ok (s1.modThr fun t => { t.next with vq := t.vq ++ [e] })

/-- R163, R339: a queued instruction waits as it would commit: a miss joins those outstanding, and event 217 counts its
first wait for the interlock table. -/
def State.lockWait (s : State) (w : Why) : State :=
  match w, s.thr.vq with
  | .interlock, e :: _ =>
    if s.thr.lockSeq = e.seq then s
    else (s.countCore s.crew.coreIx 217 1 (some { whoOf s.crew s.thr with pc := zext64 e.pc })).modThr fun t =>
      { t with lockSeq := e.seq }
  | _, _ => s.missed w

/-- R290, R291, R315: the oldest queued instruction commits, or faults late: the thread is unwound to it
and the fault raised. -/
def State.commitHead (s : State) (eff : VEntry → State → R State) : State :=
  match s.thr.vq with
  | [] => s
  | e :: rest =>
    match eff e s with
    | .ok s' =>
      if s'.thr.cover && !s.thr.cover then s'
      else s'.modThr fun t => { t with vq := rest, hist := t.hist.filter fun h => decide (e.seq < h.seq) }
    | .error (.stall w) => s.lockWait w
    | .error x =>
      let s1 := s.modCrew fun c => { c with consumed := c.consumed.take (c.consumed.length - s.thr.stripsBack) }
      let s2 := (s1.modCrew fun c => c.unwind s.thr).modThr Thread.unwind
      match x with
      | .trap t => s2.raise t
      | .watch el => s2.whenDue fun s' => s'.stopWatch el
      | .halt c n => s2.stopContext c n
      | .stall _ => s

/-! ## Poison (R330) -/

/-- The number of a 32-bit word of a context's register within its physical register. -/
def State.wordNo (s : State) (w : Nat) : Nat := s.thr.lgBase.toNat * (s.crew.mvl.toNat / 16) + w

/-- R330: whether a word of the thread's register is poisoned. -/
def State.poisoned (s : State) (reg w : Nat) : Bool :=
  s.crew.poison.any fun p => p.reg == (partOf s.crew s.thr.role).1 + reg && p.elem == s.wordNo w

/-- R330: the first element of `size` bytes, active and below `n`, that covers a poisoned word. -/
def State.poisonHit (s : State) (reg size n : Nat) (act : List Bool) : Option Nat :=
  if s.crew.poison.isEmpty then none
  else (List.range n).find? fun i => act.getD i false &&
    ((List.range ((size + 3) / 4)).any fun j => s.poisoned reg (i * size / 4 + j))

/-- R330: reading a poisoned word in an active element. -/
def State.unpoisoned (s : State) (reg size n : Nat) (act : List Bool) : R Unit :=
  match s.poisonHit reg size n act with
  | none => .ok ()
  | some i => .error (.trap { code := fltUncorr, elem := some i })

/-- R330: where a source is read in units of its own, the element of the instruction at which a poisoned unit
faults. -/
def elemAs {α : Type} (el : Nat → Nat) (r : R α) : R α :=
  match r with
  | .error (.trap t) => if t.code = fltUncorr then .error (.trap { t with elem := t.elem.map el }) else r
  | _ => r

/-- The first active element at or after the start of group `k` of `n` elements. -/
def firstActive (act : List Bool) (n k : Nat) : Nat := n * k + (act.drop (n * k)).findIdx id

/-! ## Sources -/

/-- R104: a ring entry's bytes as its reader sees `n` of them; what lies beyond those written is free
(log 23). -/
def State.entryBytes (s : State) (r : RingEntry) (n : Nat) : List Byte :=
  r.bytes.take n ++ (List.range (n - r.bytes.length)).map fun i => Config.beyondEntry s.draw i

/-- R48: `n` mask bits of bytes. -/
def bitsOf (n : Nat) (bs : List Byte) : List Bool :=
  ((bs.map fun b => (List.range 8).map fun i => b.getLsbD i).flatten).take n

/-- R48, R330: the mask of an instruction: v0's bits, or all true. A poisoned mask word faults at the first
element whose bit it holds. -/
def State.maskBits (s : State) (e : VEntry) (m : Bool) : R (List Bool) :=
  if m then do
    elemAs (32 * ·) (s.unpoisoned 0 4 ((e.vl + 31) / 32) (List.replicate e.vl true))
    .ok (bitsOf e.vl (s.vBytes 0 ((e.vl + 31) / 32 * 4)))
  else .ok (List.replicate e.vl true)

/-- R59, R103, R104: `n` elements of `size` bytes of a source, where `act` says which are active; a scalar
supplies `bc` to every element. -/
def State.readElems (s : State) (e : VEntry) (o : Opd) (size n : Nat) (bc : Word) (act : List Bool) :
    R (List Nat) :=
  match o with
  | .s _ => .ok (List.replicate n (bc.toNat % 2 ^ (8 * size)))
  | .v r => do
    s.unpoisoned r.val size n act
    .ok (elemsOf size n (s.vBytes r.val (n * size)))
  | .ring k =>
    if e.vl = 0 then .ok []
    else
      match s.crew.rings[k] with
      | [] => stall .ring
      | r :: _ =>
        if r.count ≠ e.vl then flt fltOperand else .ok (elemsOf size n (s.entryBytes r (n * size)))

/-- R26: the ring entries an instruction read go as it commits. -/
def State.popRings (s : State) (e : VEntry) : State :=
  let pop (v : Vector (List RingEntry) 8) (k : Fin 8) : Vector (List RingEntry) 8 := v.set k (v[k].drop 1)
  if e.rin.isEmpty then s
  else { s.modCrew fun c => { c with rings := e.rin.foldl pop c.rings } with draw := s.draw + 1 }

/-! ## Destinations -/

/-- R49: an instruction writes v1: SCALE_LEN elements of SCALE_SZ bytes. -/
def State.setScale (s : State) (reg len size : Nat) : State :=
  if reg = 1 then s.modThr fun t => { t with scaleLen := BitVec.ofNat 18 len, scaleSz := codeOfSize size } else s

/-- R327: the highest 32-bit element that the task's vector instructions have written. -/
def State.noteNeed (s : State) (bytes : Nat) : State :=
  s.modThr fun t => { t with need := Nat.max t.need ((bytes + 3) / 4) }

/-- R330: words written whole are no longer poisoned. -/
def State.heal (s : State) (reg size : Nat) (vals : List (Option Nat)) : State :=
  if s.crew.poison.isEmpty then s
  else
    let whole (w : Nat) : Bool := (List.range 4).all fun j => (vals.getD ((4 * w + j) / size) none).isSome
    s.modCrew fun c => { c with poison := c.poison.filter fun p =>
      !(p.reg == (partOf c s.thr.role).1 + reg && decide (s.wordNo 0 ≤ p.elem) && whole (p.elem - s.wordNo 0)) }

/-- One past the highest element written. -/
def topWritten {α : Type} (vals : List (Option α)) : Nat :=
  vals.length - (vals.reverse.takeWhile Option.isNone).length

/-- R103: elements of `size` bytes written to a vector register, none meaning that the old value stays. -/
def State.putVec (s : State) (reg size : Nat) (vals : List (Option Nat)) : State :=
  let old := elemsOf size vals.length (s.vBytes reg (vals.length * size))
  let new := (List.zip vals old).map fun p => p.1.getD p.2
  (((s.heal reg size vals).vPut reg 0 (bytesOfElems size new)).noteNeed (topWritten vals * size))

/-- R255, R260: the thread's unperformed stores perform. -/
def State.performStores (s : State) : State :=
  let s1 := s.thr.unperf.foldl State.performAll s
  s1.modThr fun t => { t with unperf := [] }

/-- The strip that the instruction which commits belongs to (R30). -/
def Thread.stripNow (t : Thread) : Nat :=
  match t.vq with
  | [] => t.strips
  | e :: _ => e.strip

/-- R247, R260: whether a scalar store is still held that a fence.sv put before the vector instruction that commits. -/
def Thread.fencedHeld (t : Thread) : Bool :=
  match t.held with
  | some h => h.fenced && (match t.vq with | [] => true | e :: _ => decide (h.seq < e.seq))
  | none => false

/-- R260: what a ring write releases performs: the thread's vector stores, and the scalar store that a fence.sv put
before it. -/
def State.released (s : State) : State := if s.thr.fencedHeld then s.performStores.performHeld else s.performStores

/-- R25, R260: an entry of `count` elements of `size` bytes, or of `unit` bytes for `per` elements, appended to a
ring. -/
def State.pushRing (s : State) (k : Fin 8) (count size : Nat) (bs : List Byte) (unit : Nat := size) (per : Nat := 1) : State :=
  let r : RingEntry := { count := count, esz := size, unit := unit, per := per, strip := s.thr.stripNow, bytes := bs }
  s.released.modCrew fun c => { c with rings := c.rings.set k (c.rings[k] ++ [r]) }

/-- R103, R104: a strip appended to a ring; masked-off elements are zero. -/
def State.putRing (s : State) (k : Fin 8) (size : Nat) (vals : List (Option Nat)) : State :=
  if vals.isEmpty then s else s.pushRing k vals.length size (bytesOfElems size (vals.map fun v => v.getD 0))

/-- R49, R103: the destination elements of an instruction of whole elements. -/
def State.writeElems (s : State) (o : Opd) (size : Nat) (vals : List (Option Nat)) : State :=
  match o with
  | .v r => (s.putVec r.val size vals).setScale r.val vals.length size
  | .ring k => s.putRing k size vals
  | .s _ => s

/-- R82: flags merge at commit. -/
def State.flagsV (s : State) (f : FF) : State := s.modThr fun t => t.commitFlags f 0

/-- R111: the scalar destination is written at commit. -/
def State.putDst (s : State) (e : VEntry) (v : Word) : State :=
  match e.dst with
  | none => s
  | some p => s.modThr fun t => { t with regs := t.regs.set p v }

/-- R74, R75: the rounding of element `i`: by SR only in a stepping instruction of a solo crew or a
computer. -/
def State.rmAt (s : State) (e : VEntry) (step : Bool) (i : Nat) : Rm :=
  if step && rmStochastic e.frm && (s.thr.role == .solo || s.thr.role == .computer) then .sr (srDraw e.seed i)
  else rmOf e.frm

/-- Element `i` of each source. -/
def column (xs : List (List Nat)) (i : Nat) : List Nat := xs.map fun l => l.getD i 0

/-- R82, R103: an element-wise instruction: each active element of d, of `ds` bytes, becomes `f` of the same
element of every source, given as its operand, size and broadcast value. -/
def elementwise (e : VEntry) (m : Bool) (d : Opd) (ds : Nat) (srcs : List (Opd × Nat × Word))
    (f : Nat → List Nat → Nat × FF) (s : State) : R State := do
  let act ← s.maskBits e m
  let xs ← srcs.mapM fun p => s.readElems e p.1 p.2.1 e.vl p.2.2 act
  let res := (List.range e.vl).map fun i => if act.getD i false then some (f i (column xs i)) else none
  let fl := orFlags (res.map fun r => match r with | some p => p.2 | none => 0)
  .ok (((s.writeElems d ds (res.map fun r => r.map Prod.fst)).popRings e).flagsV fl)

end Sys2Proof.Machine
end

