-- ==== Sys2Proof/Machine/VecArith.lean ====
section
/-! DEFINITION. Element-wise vector arithmetic, bitwise operations, compares, selects, conversions, and the
16-bit and packed-pixel instructions (R106-R110). -/

namespace Sys2Proof.Machine

/-! ## Operations on one element -/

/-- An operation on two elements of a type: a float form, or an integer form given the element's bytes. -/
def flOr (t : ElemTy) (ff : Fmt → Rm → Nat → Nat → FRes) (fi : Nat → Nat → Nat → Nat × FF) (rm : Rm)
    (x y : Nat) : Nat × FF :=
  match elFmt t with
  | some f => ((ff f rm x y).bits, (ff f rm x y).fl)
  | none => fi (elSize t) x y

/-- R87, R106: signed division of elements. -/
def elDivS (s x y : Nat) : Nat × FF :=
  if y = 0 then (2 ^ (8 * s) - 1, fDZ) else (wrapI s ((sInt s x).tdiv (sInt s y)), 0)

/-- R87, R106: unsigned division of elements. -/
def elDivU (s x y : Nat) : Nat × FF := if y = 0 then (2 ^ (8 * s) - 1, fDZ) else (x / y, 0)

/-- R106: signed minimum and maximum. -/
def elMinS (s x y : Nat) : Nat := if sInt s y < sInt s x then y else x
def elMaxS (s x y : Nat) : Nat := if sInt s x < sInt s y then y else x

/-- R106: vfma, rounded once. -/
def elFma (t : ElemTy) (rm : Rm) (x y z : Nat) : Nat × FF :=
  match elFmt t with
  | some f => ((f.fma rm x y z).bits, (f.fma rm x y z).fl)
  | none => (wrapI (elSize t) ((x * y + z : Nat) : Int), 0)

/-- R106: the sign bit of a float cleared, or an integer's absolute value. -/
def elAbs (t : ElemTy) (x : Nat) : Nat :=
  match elFmt t with
  | some _ => x % 2 ^ (8 * elSize t - 1)
  | none => wrapI (elSize t) (sInt (elSize t) x).natAbs

/-- R106: the sign bit of a float inverted, or an integer negated. -/
def elNeg (t : ElemTy) (x : Nat) : Nat :=
  match elFmt t with
  | some _ => x ^^^ 2 ^ (8 * elSize t - 1)
  | none => wrapI (elSize t) (-(sInt (elSize t) x))

/-- R108: the compares, as a truth and flags. -/
def elEq (t : ElemTy) (x y : Nat) : Bool × FF :=
  match elFmt t with
  | some f => (f.eq x y, 0)
  | none => (x == y, 0)
def elLess (t : ElemTy) (le : Bool) (x y : Nat) : Bool × FF :=
  match elFmt t with
  | some f => f.less le x y
  | none => (decide (sInt (elSize t) x < sInt (elSize t) y) || (le && x == y), 0)

/-- R109: the signedness and bytes of a conversion's source. -/
def cvtSize : CvtSrc → Nat
  | .el t => elSize t
  | .un w => wSize w
def cvtFmt : CvtSrc → Option Fmt
  | .el t => elFmt t
  | .un _ => none
def cvtInt (c : CvtSrc) (x : Nat) : Int :=
  match c with
  | .el t => sInt (elSize t) x
  | .un _ => x

/-- R109: source and destination are one type. -/
def cvtSame (u : Bool) (c : CvtSrc) (t : ElemTy) : Bool :=
  match c with
  | .el e => e == t && !u
  | .un w => u && wSize w == elSize t && (elFmt t).isNone

/-- R78, R109: one element converted. -/
def elCvt (u : Bool) (c : CvtSrc) (t : ElemTy) (rm : Rm) (sat : Bool) (x : Nat) : Nat × FF :=
  if cvtSame u c t then (x, 0)
  else
    match cvtFmt c, elFmt t with
    | some f, some g => ((g.convert rm sat (f.decode x)).bits, (g.convert rm sat (f.decode x)).fl)
    | some f, none =>
      let r := toInteger rm (8 * elSize t) (!u) (f.decode x)
      (r.bits, r.fl)
    | none, some g =>
      let r := g.convert rm sat (FVal.ofInt (cvtInt c x))
      (r.bits, r.fl)
    | none, none => (wrapI (elSize t) (cvtInt c x), 0)

/-- R110: vsatn on one element of 2w bytes shifted by k. -/
def elSatn (w : Nat) (uns : Bool) (x k : Nat) : Nat × FF :=
  let v := (sInt (2 * w) x + (if k = 0 then 0 else 2 ^ (k - 1))) / (2 ^ k : Int)
  let lo : Int := if uns then 0 else -(2 ^ (8 * w - 1) : Int)
  let hi : Int := if uns then 2 ^ (8 * w) - 1 else 2 ^ (8 * w - 1) - 1
  if v < lo then (wrapI w lo, fSAT) else if hi < v then (wrapI w hi, fSAT) else (wrapI w v, 0)

/-- R110: vmadd16 on 32-bit elements: two 16-bit products added to the third. -/
def elMadd16 (uns : Bool) (x y z : Nat) : Nat :=
  let h (v : Nat) : Int := if uns then v else sInt 2 v
  wrapI 4 (z + h (x % 65536) * h (y % 65536) + h (x / 65536) * h (y / 65536))

/-- R110: the rounding average. -/
def elAvg (s : Nat) (uns : Bool) (x y : Nat) : Nat :=
  if uns then (x + y + 1) / 2 else wrapI s ((sInt s x + sInt s y + 1) / 2)

/-! ## The shapes of the family -/

/-- R103: the checks against register values that most instructions do not have. -/
def noChk (_ : State) (_ : VEntry) : R Unit := .ok ()

/-- Whether a type is a float type. -/
def isFl (t : ElemTy) : Bool := (elFmt t).isSome

/-- R106: d from a and b, of one type. -/
def shape2 (d a b : Opd) (size : Nat) (step : Bool) : VShape :=
  VShape.withB { srcs := [a], dst := some d, size := size, step := step } b

/-- R106: d from a, of one type. -/
def shape1 (d a : Opd) (size : Nat) (step : Bool) : VShape :=
  { srcs := [a], dst := some d, size := size, step := step }

/-- The effect of d := f(a, b) on elements of a size. -/
def effTwo (d a b : Opd) (m : Bool) (size : Nat) (step : Bool) (f : Rm → Nat → Nat → Nat × FF) (e : VEntry)
    (s : State) : R State :=
  elementwise e m d size [(a, size, 0), (b, size, e.sB)] (fun i c => f (s.rmAt e step i) (c.getD 0 0) (c.getD 1 0)) s

/-- The effect of d := f(a). -/
def effOne (d a : Opd) (m : Bool) (ds as : Nat) (step : Bool) (f : Rm → Nat → Nat × FF) (e : VEntry)
    (s : State) : R State :=
  elementwise e m d ds [(a, as, 0)] (fun i c => f (s.rmAt e step i) (c.getD 0 0)) s

/-- R108: the effect of a compare: bits of ⌈vl / 32⌉ whole words of d. -/
def effCmp (d a b : Opd) (m : Bool) (size : Nat) (f : Nat → Nat → Bool × FF) (e : VEntry) (s : State) :
    R State := do
  let act ← s.maskBits e m
  let x ← s.readElems e a size e.vl 0 act
  let y ← s.readElems e b size e.vl e.sB act
  let res := (List.range e.vl).map fun i => if act.getD i false then f (x.getD i 0) (y.getD i 0) else (false, 0)
  let n := (e.vl + 31) / 32
  let word (k : Nat) : Nat := (List.range 32).foldl (fun v i =>
    if (res.getD (32 * k + i) (false, 0)).1 then v + 2 ^ i else v) 0
  let words := (List.range n).map fun k => some (word k)
  let s1 := match d with
    | .v r => (s.putVec r.val 4 words).setScale r.val n 4
    | _ => s
  .ok ((s1.popRings e).flagsV (orFlags (res.map Prod.snd)))

/-- R108: a compare's operands: d is a vector register. -/
def shapeCmp (d a b : Opd) (size : Nat) : VShape :=
  VShape.withB { srcs := [a], vdst := [d], size := size } b


/-- VADD (R106). -/
def effVadd (d a b : Opd) (m : Bool) (t : ElemTy) : VEntry → State → R State :=
  effTwo d a b m (elSize t) true (flOr t Fmt.add fun n x y => (wrapI n ((x + y : Nat) : Int), 0))
/-- VADD (R106). -/
def execVadd (d a b : Opd) (m : Bool) (t : ElemTy) (s : State) : Host.Outcome State Fault Refusal :=
  issueV s (.ins (.vadd d a b m t)) (shape2 d a b (elSize t) (isFl t)) (.ok ()) noChk
    (effVadd d a b m t)

/-- VSUB (R106). -/
def effVsub (d a b : Opd) (m : Bool) (t : ElemTy) : VEntry → State → R State :=
  effTwo d a b m (elSize t) true (flOr t Fmt.sub fun n x y => (wrapI n ((x : Int) - y), 0))
/-- VSUB (R106). -/
def execVsub (d a b : Opd) (m : Bool) (t : ElemTy) (s : State) : Host.Outcome State Fault Refusal :=
  issueV s (.ins (.vsub d a b m t)) (shape2 d a b (elSize t) (isFl t)) (.ok ()) noChk
    (effVsub d a b m t)

/-- VMUL (R106). -/
def effVmul (d a b : Opd) (m : Bool) (t : ElemTy) : VEntry → State → R State :=
  effTwo d a b m (elSize t) true (flOr t Fmt.mul fun n x y => (wrapI n ((x * y : Nat) : Int), 0))
/-- VMUL (R106). -/
def execVmul (d a b : Opd) (m : Bool) (t : ElemTy) (s : State) : Host.Outcome State Fault Refusal :=
  issueV s (.ins (.vmul d a b m t)) (shape2 d a b (elSize t) (isFl t)) (.ok ()) noChk
    (effVmul d a b m t)

/-- VFMA (R106): d is also the addend, so it is a vector register (R104). -/
def effVfma (d a b : Opd) (m : Bool) (t : ElemTy) (e : VEntry) (s : State) : R State :=
  elementwise e m d (elSize t) [(a, elSize t, 0), (b, elSize t, e.sB), (d, elSize t, 0)]
    (fun i c => elFma t (s.rmAt e true i) (c.getD 0 0) (c.getD 1 0) (c.getD 2 0)) s
/-- VFMA (R106). -/
def execVfma (d a b : Opd) (m : Bool) (t : ElemTy) (s : State) : Host.Outcome State Fault Refusal :=
  issueV s (.ins (.vfma d a b m t))
    (VShape.withB { srcs := [a], vdst := [d], size := elSize t, step := isFl t } b) (.ok ()) noChk
    (effVfma d a b m t)

/-- VMIN (R106). -/
def effVmin (d a b : Opd) (m : Bool) (t : ElemTy) : VEntry → State → R State :=
  effTwo d a b m (elSize t) false (flOr t (fun f _ x y => f.minmax false x y) fun n x y => (elMinS n x y, 0))
/-- VMIN (R106). -/
def execVmin (d a b : Opd) (m : Bool) (t : ElemTy) (s : State) : Host.Outcome State Fault Refusal :=
  issueV s (.ins (.vmin d a b m t)) (shape2 d a b (elSize t) false) (.ok ()) noChk
    (effVmin d a b m t)

/-- VMAX (R106). -/
def effVmax (d a b : Opd) (m : Bool) (t : ElemTy) : VEntry → State → R State :=
  effTwo d a b m (elSize t) false (flOr t (fun f _ x y => f.minmax true x y) fun n x y => (elMaxS n x y, 0))
/-- VMAX (R106). -/
def execVmax (d a b : Opd) (m : Bool) (t : ElemTy) (s : State) : Host.Outcome State Fault Refusal :=
  issueV s (.ins (.vmax d a b m t)) (shape2 d a b (elSize t) false) (.ok ()) noChk
    (effVmax d a b m t)

/-- VDIV (R106). -/
def effVdiv (d a b : Opd) (m : Bool) (t : ElemTy) : VEntry → State → R State :=
  effTwo d a b m (elSize t) true (flOr t Fmt.div elDivS)
/-- VDIV (R106). -/
def execVdiv (d a b : Opd) (m : Bool) (t : ElemTy) (s : State) : Host.Outcome State Fault Refusal :=
  issueV s (.ins (.vdiv d a b m t)) (shape2 d a b (elSize t) (isFl t)) (.ok ()) noChk
    (effVdiv d a b m t)

/-- VABS (R106). -/
def effVabs (d a : Opd) (m : Bool) (t : ElemTy) : VEntry → State → R State :=
  effOne d a m (elSize t) (elSize t) false (fun _ x => (elAbs t x, 0))
/-- VABS (R106). -/
def execVabs (d a : Opd) (m : Bool) (t : ElemTy) (s : State) : Host.Outcome State Fault Refusal :=
  issueV s (.ins (.vabs d a m t)) (shape1 d a (elSize t) false) (.ok ()) noChk
    (effVabs d a m t)

/-- VNEG (R106). -/
def effVneg (d a : Opd) (m : Bool) (t : ElemTy) : VEntry → State → R State :=
  effOne d a m (elSize t) (elSize t) false (fun _ x => (elNeg t x, 0))
/-- VNEG (R106). -/
def execVneg (d a : Opd) (m : Bool) (t : ElemTy) (s : State) : Host.Outcome State Fault Refusal :=
  issueV s (.ins (.vneg d a m t)) (shape1 d a (elSize t) false) (.ok ()) noChk
    (effVneg d a m t)

/-- VSQRT (R106: float types only). -/
def effVsqrt (d a : Opd) (m : Bool) (t : ElemTy) : VEntry → State → R State :=
  effOne d a m (elSize t) (elSize t) true (fun rm x => match elFmt t with | some f => ((f.sqrt rm x).bits, (f.sqrt rm x).fl) | none => (x, 0))
/-- VSQRT (R106: float types only). -/
def execVsqrt (d a : Opd) (m : Bool) (t : ElemTy) (s : State) : Host.Outcome State Fault Refusal :=
  issueV s (.ins (.vsqrt d a m t)) (shape1 d a (elSize t) true) (need (isFl t) fltIllegal) noChk
    (effVsqrt d a m t)

/-- VCMPEQ (R108). -/
def effVcmpeq (d a b : Opd) (m : Bool) (t : ElemTy) : VEntry → State → R State :=
  effCmp d a b m (elSize t) (elEq t)
/-- VCMPEQ (R108). -/
def execVcmpeq (d a b : Opd) (m : Bool) (t : ElemTy) (s : State) : Host.Outcome State Fault Refusal :=
  issueV s (.ins (.vcmpeq d a b m t)) (shapeCmp d a b (elSize t)) (.ok ()) noChk (effVcmpeq d a b m t)

/-- VCMPLT (R108). -/
def effVcmplt (d a b : Opd) (m : Bool) (t : ElemTy) : VEntry → State → R State :=
  effCmp d a b m (elSize t) (elLess t false)
/-- VCMPLT (R108). -/
def execVcmplt (d a b : Opd) (m : Bool) (t : ElemTy) (s : State) : Host.Outcome State Fault Refusal :=
  issueV s (.ins (.vcmplt d a b m t)) (shapeCmp d a b (elSize t)) (.ok ()) noChk (effVcmplt d a b m t)

/-- VCMPLE (R108). -/
def effVcmple (d a b : Opd) (m : Bool) (t : ElemTy) : VEntry → State → R State :=
  effCmp d a b m (elSize t) (elLess t true)
/-- VCMPLE (R108). -/
def execVcmple (d a b : Opd) (m : Bool) (t : ElemTy) (s : State) : Host.Outcome State Fault Refusal :=
  issueV s (.ins (.vcmple d a b m t)) (shapeCmp d a b (elSize t)) (.ok ()) noChk (effVcmple d a b m t)

/-- VAND (R107). -/
def effVand (d a b : Opd) (w : Width) : VEntry → State → R State :=
  effTwo d a b false (wSize w) false fun _ x y => (x &&& y, 0)
/-- VAND (R107). -/
def execVand (d a b : Opd) (w : Width) (s : State) : Host.Outcome State Fault Refusal :=
  issueV s (.ins (.vand d a b w)) (shape2 d a b (wSize w) false) (.ok ()) noChk (effVand d a b w)

/-- VOR (R107). -/
def effVor (d a b : Opd) (w : Width) : VEntry → State → R State :=
  effTwo d a b false (wSize w) false fun _ x y => (x ||| y, 0)
/-- VOR (R107). -/
def execVor (d a b : Opd) (w : Width) (s : State) : Host.Outcome State Fault Refusal :=
  issueV s (.ins (.vor d a b w)) (shape2 d a b (wSize w) false) (.ok ()) noChk (effVor d a b w)

/-- VXOR (R107). -/
def effVxor (d a b : Opd) (w : Width) : VEntry → State → R State :=
  effTwo d a b false (wSize w) false fun _ x y => (x ^^^ y, 0)
/-- VXOR (R107). -/
def execVxor (d a b : Opd) (w : Width) (s : State) : Host.Outcome State Fault Refusal :=
  issueV s (.ins (.vxor d a b w)) (shape2 d a b (wSize w) false) (.ok ()) noChk (effVxor d a b w)

/-- VANDN (R107). -/
def effVandn (d a b : Opd) (w : Width) : VEntry → State → R State :=
  effTwo d a b false (wSize w) false fun _ x y => (x ^^^ (x &&& y), 0)
/-- VANDN (R107). -/
def execVandn (d a b : Opd) (w : Width) (s : State) : Host.Outcome State Fault Refusal :=
  issueV s (.ins (.vandn d a b w)) (shape2 d a b (wSize w) false) (.ok ()) noChk (effVandn d a b w)

/-- VSLL (R107). -/
def effVsll (d a b : Opd) (w : Width) : VEntry → State → R State :=
  effTwo d a b false (wSize w) false fun _ x y => (x * 2 ^ (y % (8 * wSize w)) % 2 ^ (8 * wSize w), 0)
/-- VSLL (R107). -/
def execVsll (d a b : Opd) (w : Width) (s : State) : Host.Outcome State Fault Refusal :=
  issueV s (.ins (.vsll d a b w)) (shape2 d a b (wSize w) false) (.ok ()) noChk (effVsll d a b w)

/-- VSRL (R107). -/
def effVsrl (d a b : Opd) (w : Width) : VEntry → State → R State :=
  effTwo d a b false (wSize w) false fun _ x y => (x / 2 ^ (y % (8 * wSize w)), 0)
/-- VSRL (R107). -/
def execVsrl (d a b : Opd) (w : Width) (s : State) : Host.Outcome State Fault Refusal :=
  issueV s (.ins (.vsrl d a b w)) (shape2 d a b (wSize w) false) (.ok ()) noChk (effVsrl d a b w)

/-- VSRA (R107). -/
def effVsra (d a b : Opd) (w : Width) : VEntry → State → R State :=
  effTwo d a b false (wSize w) false fun _ x y => (wrapI (wSize w) (sInt (wSize w) x / 2 ^ (y % (8 * wSize w))), 0)
/-- VSRA (R107). -/
def execVsra (d a b : Opd) (w : Width) (s : State) : Host.Outcome State Fault Refusal :=
  issueV s (.ins (.vsra d a b w)) (shape2 d a b (wSize w) false) (.ok ()) noChk (effVsra d a b w)

/-- VSEL (R107): v0 selects the source of every element and masks nothing. -/
def effVsel (d a b : Opd) (w : Width) (e : VEntry) (s : State) : R State := do
  let sel ← s.maskBits e true
  elementwise e false d (wSize w) [(a, wSize w, 0), (b, wSize w, e.sB)]
    (fun i c => ((if sel.getD i false then c.getD 0 0 else c.getD 1 0), 0)) s
/-- VSEL (R107). -/
def execVsel (d a b : Opd) (w : Width) (s : State) : Host.Outcome State Fault Refusal :=
  issueV s (.ins (.vsel d a b w)) (shape2 d a b (wSize w) false) (.ok ()) noChk (effVsel d a b w)

/-- VMIN_UNSIGNED (R107). -/
def effVminUnsigned (d a b : Opd) (w : Width) : VEntry → State → R State :=
  effTwo d a b false (wSize w) false fun _ x y => (Nat.min x y, 0)
/-- VMIN_UNSIGNED (R107). -/
def execVminUnsigned (d a b : Opd) (w : Width) (s : State) : Host.Outcome State Fault Refusal :=
  issueV s (.ins (.vminUnsigned d a b w)) (shape2 d a b (wSize w) false) (.ok ()) noChk (effVminUnsigned d a b w)

/-- VMAX_UNSIGNED (R107). -/
def effVmaxUnsigned (d a b : Opd) (w : Width) : VEntry → State → R State :=
  effTwo d a b false (wSize w) false fun _ x y => (Nat.max x y, 0)
/-- VMAX_UNSIGNED (R107). -/
def execVmaxUnsigned (d a b : Opd) (w : Width) (s : State) : Host.Outcome State Fault Refusal :=
  issueV s (.ins (.vmaxUnsigned d a b w)) (shape2 d a b (wSize w) false) (.ok ()) noChk (effVmaxUnsigned d a b w)

/-- VCMPLT_UNSIGNED (R107, R108). -/
def effVcmpltUnsigned (d a b : Opd) (w : Width) : VEntry → State → R State :=
  effCmp d a b false (wSize w) fun x y => (decide (x < y), 0)
/-- VCMPLT_UNSIGNED (R107, R108). -/
def execVcmpltUnsigned (d a b : Opd) (w : Width) (s : State) : Host.Outcome State Fault Refusal :=
  issueV s (.ins (.vcmpltUnsigned d a b w)) (shapeCmp d a b (wSize w)) (.ok ()) noChk (effVcmpltUnsigned d a b w)

/-- VCMPLE_UNSIGNED (R107, R108). -/
def effVcmpleUnsigned (d a b : Opd) (w : Width) : VEntry → State → R State :=
  effCmp d a b false (wSize w) fun x y => (decide (x ≤ y), 0)
/-- VCMPLE_UNSIGNED (R107, R108). -/
def execVcmpleUnsigned (d a b : Opd) (w : Width) (s : State) : Host.Outcome State Fault Refusal :=
  issueV s (.ins (.vcmpleUnsigned d a b w)) (shapeCmp d a b (wSize w)) (.ok ()) noChk (effVcmpleUnsigned d a b w)

/-- VDIV_UNSIGNED (R106). -/
def effVdivUnsigned (d a b : Opd) (m : Bool) (w : Width) : VEntry → State → R State :=
  effTwo d a b m (wSize w) false fun _ x y => elDivU (wSize w) x y
/-- VDIV_UNSIGNED (R106). -/
def execVdivUnsigned (d a b : Opd) (m : Bool) (w : Width) (s : State) : Host.Outcome State Fault Refusal :=
  issueV s (.ins (.vdivUnsigned d a b m w)) (shape2 d a b (wSize w) false) (.ok ()) noChk
    (effVdivUnsigned d a b m w)

/-- R75, R109: the conversions that step S and round by SR. -/
def cvtSteps (u : Bool) (c : CvtSrc) (t : ElemTy) : Bool :=
  !cvtSame u c t && ((cvtFmt c).isSome || isFl t)

/-- VCVT (R109). -/
def effVcvt (d a : Opd) (u : Bool) (c : CvtSrc) (m : Bool) (t : ElemTy) (e : VEntry) (s : State) : R State :=
  effOne d a m (elSize t) (cvtSize c) (cvtSteps u c t) (fun rm x => elCvt u c t rm (satCvt e.frm) x) e s
/-- VCVT (R109): an unsigned destination has an integer type. -/
def execVcvt (d a : Opd) (u : Bool) (c : CvtSrc) (m : Bool) (t : ElemTy) (s : State) :
    Host.Outcome State Fault Refusal :=
  issueV s (.ins (.vcvt d a u c m t)) (shape1 d a (Nat.max (elSize t) (cvtSize c)) (cvtSteps u c t))
    (need (!u || !isFl t) fltIllegal) noChk (effVcvt d a u c m t)

/-! ## Packed pixels -/

/-- R70: samples and bytes of a group, and the bits of a sample. -/
def pixSamples : PixFmt → Nat
  | .p10 => 4 | .p12 => 2
def pixBytes : PixFmt → Nat
  | .p10 => 5 | .p12 => 3
def pixBits : PixFmt → Nat
  | .p10 => 10 | .p12 => 12

/-- R110: the bytes of a stream of `n` samples. -/
def pixLen (p : PixFmt) (n : Nat) : Nat := pixBytes p * ((n + pixSamples p - 1) / pixSamples p)

/-- R70: sample `e` of a stream. -/
def pixGet (p : PixFmt) (bs : List Nat) (e : Nat) : Nat :=
  let g := pixBytes p * (e / pixSamples p)
  let k := e % pixSamples p
  match p with
  | .p10 => bs.getD (g + k) 0 * 4 + bs.getD (g + 4) 0 / 4 ^ k % 4
  | .p12 => bs.getD (g + k) 0 * 16 + bs.getD (g + 2) 0 / 16 ^ k % 16

/-- R70: byte `j` of a stream of samples. -/
def pixByte (p : PixFmt) (xs : List Nat) (j : Nat) : Nat :=
  let g := pixSamples p * (j / pixBytes p)
  let k := j % pixBytes p
  match p with
  | .p10 =>
    if k < 4 then xs.getD (g + k) 0 / 4
    else xs.getD g 0 % 4 + 4 * (xs.getD (g + 1) 0 % 4) + 16 * (xs.getD (g + 2) 0 % 4) + 64 * (xs.getD (g + 3) 0 % 4)
  | .p12 => if k < 2 then xs.getD (g + k) 0 / 16 else xs.getD g 0 % 16 + 16 * (xs.getD (g + 1) 0 % 16)

/-- R110: the packed stream lies within the register. -/
def pixChk (p : PixFmt) (s : State) (e : VEntry) : R Unit :=
  need (decide (pixLen p e.vl ≤ s.mvl * 4)) fltOperand

/-- The bytes of a stream that hold part of an active sample. -/
def pixActive (p : PixFmt) (act : List Bool) (n : Nat) : List Bool :=
  (List.range (pixLen p n)).map fun j =>
    let g := pixSamples p * (j / pixBytes p)
    let k := j % pixBytes p
    if k < pixSamples p then act.getD (g + k) false
    else (List.range (pixSamples p)).any fun i => act.getD (g + i) false

/-- VUNPIX (R110). -/
def effVunpix (d a : Opd) (m : Bool) (p : PixFmt) (e : VEntry) (s : State) : R State := do
  let act ← s.maskBits e m
  let sample (j : Nat) : Nat :=
    if j % pixBytes p < pixSamples p then pixSamples p * (j / pixBytes p) + j % pixBytes p
    else firstActive act (pixSamples p) (j / pixBytes p)
  let bs ← elemAs sample (s.readElems e a 1 (pixLen p e.vl) 0 (pixActive p act e.vl))
  let res := (List.range e.vl).map fun i => if act.getD i false then some (pixGet p bs i) else none
  .ok ((s.writeElems d 2 res).popRings e)
/-- VUNPIX (R110). -/
def execVunpix (d a : Opd) (m : Bool) (p : PixFmt) (s : State) : Host.Outcome State Fault Refusal :=
  issueV s (.ins (.vunpix d a m p)) (shape1 d a 2 false) (.ok ()) (pixChk p) (effVunpix d a m p)

/-- R49, R70, R103: bytes written whole to a destination whose elements are not whole bytes, `unit` bytes for `per`
elements: a register from byte 0, or a ring entry of vl elements. -/
def State.putPacked (s : State) (e : VEntry) (d : Opd) (unit per : Nat) (bs : List Nat) : State :=
  match d with
  | .v r => (s.putVec r.val 1 (bs.map some)).setScale r.val bs.length 1
  | .ring k =>
    if e.vl = 0 then s else s.pushRing k e.vl 1 (bytesOfElems 1 bs) unit per
  | .s _ => s

/-- The bytes that a packed destination register holds; a ring has none. -/
def State.packedOld (s : State) (d : Opd) (n : Nat) : List Nat :=
  match d with
  | .v r => elemsOf 1 n (s.vBytes r.val n)
  | _ => List.replicate n 0

/-- VPKPIX (R110). -/
def effVpkpix (d a : Opd) (m : Bool) (p : PixFmt) (e : VEntry) (s : State) : R State := do
  let act ← s.maskBits e m
  let xs ← s.readElems e a 2 e.vl 0 act
  let top := 2 ^ pixBits p - 1
  let old := s.packedOld d (pixLen p e.vl)
  let new := (List.range e.vl).map fun i =>
    if act.getD i false then Nat.min (xs.getD i 0) top else pixGet p old i
  let sat := (List.range e.vl).any fun i => act.getD i false && decide (top < xs.getD i 0)
  let bs := (List.range (pixLen p e.vl)).map (pixByte p new)
  .ok (((s.putPacked e d (pixBytes p) (pixSamples p) bs).popRings e).flagsV (if sat then fSAT else 0))
/-- VPKPIX (R110). -/
def execVpkpix (d a : Opd) (m : Bool) (p : PixFmt) (s : State) : Host.Outcome State Fault Refusal :=
  issueV s (.ins (.vpkpix d a m p)) (shape1 d a 2 false) (.ok ()) (pixChk p) (effVpkpix d a m p)

/-! ## Narrowing shift, pairwise multiply-add and average -/

/-- VSATN (R110): a has 2W bits, so vl is limited at that size too, and b has W (DEDUCED, log 24). -/
def effVsatn (d a b : Opd) (m g : Bool) (w : Width) (e : VEntry) (s : State) : R State :=
  elementwise e m d (wSize w) [(a, 2 * wSize w, 0), (b, wSize w, e.sB)]
    (fun _ c => elSatn (wSize w) g (c.getD 0 0) (c.getD 1 0 % (16 * wSize w))) s
/-- VSATN (R110). -/
def execVsatn (d a b : Opd) (m g : Bool) (w : Width) (s : State) : Host.Outcome State Fault Refusal :=
  issueV s (.ins (.vsatn d a b m g w)) (shape2 d a b (2 * wSize w) false) (need (w != .w64) fltIllegal) noChk
    (effVsatn d a b m g w)

/-- VMADD16 (R110): the 16-bit sources are read as the pairs of 32-bit elements. -/
def effVmadd16 (d a b : Opd) (m g : Bool) (e : VEntry) (s : State) : R State :=
  elementwise e m d 4 [(a, 4, 0), (b, 4, e.sB), (d, 4, 0)]
    (fun _ c => (elMadd16 g (c.getD 0 0) (c.getD 1 0) (c.getD 2 0), 0)) s
/-- VMADD16 (R110). -/
def execVmadd16 (d a b : Opd) (m g : Bool) (s : State) : Host.Outcome State Fault Refusal :=
  issueV s (.ins (.vmadd16 d a b m g)) (VShape.withB { srcs := [a], vdst := [d], size := 4 } b) (.ok ()) noChk
    (effVmadd16 d a b m g)

/-- Bytes of the widths vavg takes. -/
def avgSize : AvgWidth → Nat
  | .w8 => 1 | .w16 => 2

/-- VAVG (R110). -/
def effVavg (d a b : Opd) (m g : Bool) (w : AvgWidth) : VEntry → State → R State :=
  effTwo d a b m (avgSize w) false fun _ x y => (elAvg (avgSize w) g x y, 0)
/-- VAVG (R110). -/
def execVavg (d a b : Opd) (m g : Bool) (w : AvgWidth) (s : State) : Host.Outcome State Fault Refusal :=
  issueV s (.ins (.vavg d a b m g w)) (shape2 d a b (avgSize w) false) (.ok ()) noChk (effVavg d a b m g w)

end Sys2Proof.Machine
end

