-- ==== Sys2Proof/Machine/VecPerm.lean ====
section
/-! DEFINITION. Reductions, scans, permutes, broadcasts and top-k (R81, R111-R113). -/

namespace Sys2Proof.Machine

/-! ## The order of float sums (R81) -/

/-- R81: one level of a tree: adjacent pairs are combined, a single child passes on, none stays absent. -/
def pairUp {α : Type} (f : α → α → α) : List (Option α) → List (Option α)
  | some x :: some y :: r => some (f x y) :: pairUp f r
  | some x :: none :: r => some x :: pairUp f r
  | none :: y :: r => y :: pairUp f r
  | [x] => [x]
  | [] => []

/-- R81: the levels of a tree until one node remains. -/
def tree {α : Type} (f : α → α → α) : Nat → List (Option α) → Option α
  | 0, l => l.headD none
  | n + 1, l => if l.length ≤ 1 then l.headD none else tree f n (pairUp f l)

/-- R81: the tree of a list of positions. -/
def treeOf {α : Type} (f : α → α → α) (l : List (Option α)) : Option α := tree f l.length l

/-- Combine what may be absent. -/
def optPair {α : Type} (f : α → α → α) : Option α → Option α → Option α
  | some x, some y => some (f x y)
  | some x, none => some x
  | none, y => y

/-- R81: the left fold of the results of groups of `p` positions. -/
def foldGroups {α : Type} (f : α → α → α) (p : Nat) : Nat → Option α → List (Option α) → Option α
  | 0, acc, _ => acc
  | n + 1, acc, l => if l.isEmpty then acc else foldGroups f p n (optPair f acc (treeOf f (l.take p))) (l.drop p)

/-- R81: the sum of all positions, begun from a value. -/
def sumAll {α : Type} (f : α → α → α) (p : Nat) (start : Option α) (l : List (Option α)) : Option α :=
  foldGroups f p l.length start l

/-- R81: the scan output at position `i`: the earlier groups' fold, plus the tree up to `i` in its own. -/
def scanAt {α : Type} (f : α → α → α) (p : Nat) (l : List (Option α)) (i : Nat) : Option α :=
  let lo := i / p * p
  optPair f (sumAll f p none (l.take lo)) (treeOf f ((l.drop lo).take (i - lo + 1)))

/-- A value with the flags of computing it. -/
abbrev VF := Nat × FF

/-- R81: one addition of a float format under RNE. -/
def addVF (f : Fmt) (x y : VF) : VF :=
  let r := f.add .rne x.1 y.1
  (r.bits, x.2 ||| y.2 ||| r.fl)

/-- R77: one step of a maximum or minimum. -/
def minmaxVF (f : Fmt) (mx : Bool) (x y : VF) : VF :=
  let r := f.minmax mx x.1 y.1
  (r.bits, x.2 ||| y.2 ||| r.fl)

/-- R68: a result that is a NaN is the canonical one. -/
def Fmt.canon (f : Fmt) (x : Nat) : Nat := if (f.decode x).isNan then f.nan false else x

/-- R111: the operations of vred and vscan. -/
inductive RedOp where
  | add | max | min | and | or | maxu | minu
  deriving DecidableEq, Repr

/-- R111: an integer operation on elements of `s` bytes. -/
def redInt (o : RedOp) (s x y : Nat) : Nat :=
  match o with
  | .add => wrapI s ((x + y : Nat) : Int)
  | .max => elMaxS s x y
  | .min => elMinS s x y
  | .and => x &&& y
  | .or => x ||| y
  | .maxu => Nat.max x y
  | .minu => Nat.min x y

/-- R111: the empty value of an integer reduction. -/
def redEmpty (o : RedOp) (s : Nat) : Nat :=
  match o with
  | .add | .or | .maxu => 0
  | .max => 2 ^ (8 * s - 1)
  | .min => 2 ^ (8 * s - 1) - 1
  | .and | .minu => 2 ^ (8 * s) - 1

/-- R111: the accumulation format of a float type. -/
def accFmt (t : ElemTy) : Fmt := if t == .f64 then fmt64 else fmt32

/-- R111: an element in its accumulation format, exactly. -/
def toAcc (t : ElemTy) (x : Nat) : Nat :=
  match elFmt t with
  | some f => if f.bits == (accFmt t).bits then x else ((accFmt t).convert .rne false (f.decode x)).bits
  | none => x

/-- R81: positions of a lane group, for elements of `s` bytes. -/
def lanePos (c : Crew) (s : Nat) : Nat := c.mvl.toNat / 16 * 4 / s

/-- R81: the positions that one tree covers. -/
def redBlock (s : State) (e : VEntry) (t : ElemTy) : Nat := if e.la then 32 else lanePos s.crew (elSize t)

/-- The active elements of a source, none where masked off. -/
def actives (xs : List Nat) (act : List Bool) : List (Option Nat) :=
  (List.zip xs act).map fun p => if p.2 then some p.1 else none

/-- R111: left fold of the active elements, for the operations whose order does not matter to the value
(log 26). -/
def foldActive {α : Type} (f : α → α → α) (l : List (Option α)) : Option α := l.foldl (optPair f) none

/-- R111: a float reduction over the active elements, with its flags. -/
def redFloat (o : RedOp) (f : Fmt) (p : Nat) (start : Option VF) (l : List (Option VF)) : Option VF :=
  match o with
  | .add => sumAll (addVF f) p start l
  | .max => foldActive (minmaxVF f true) l
  | _ => foldActive (minmaxVF f false) l

/-- R111: what a float vred writes and raises. -/
def redFloatResult (o : RedOp) (t : ElemTy) (p : Nat) (old : Option Word) (l : List (Option Nat)) : Word × FF :=
  let f := accFmt t
  let vals := l.map fun x => x.map fun y => (toAcc t y, (0 : FF))
  let start := old.map fun w => (w.toNat % 2 ^ f.bits, (0 : FF))
  if l.all Option.isNone then
    match old with
    | some w => (w, 0)
    | none => (BitVec.ofNat 64 (match o with | .max => f.inf true | .min => f.inf false | _ => 0), 0)
  else
    match redFloat o f p start vals with
    | some r => (BitVec.ofNat 64 (f.canon r.1), r.2)
    | none => (0, 0)

/-- R111: what an integer vred writes. -/
def redIntResult (o : RedOp) (s : Nat) (l : List (Option Nat)) : Word :=
  let v := (foldActive (redInt o s) l).getD (redEmpty o s)
  match o with
  | .maxu | .minu => BitVec.ofNat 64 v
  | _ => BitVec.ofInt 64 (sInt s v)

/-- R111: whether a vred accumulates into d. -/
def redAccumulates (o : RedOp) (la : Bool) (t : ElemTy) : Bool := o == .add && la && isFl t

/-- R111: the operations that take integer types only. -/
def redTypeOk (o : RedOp) (t : ElemTy) : Bool :=
  match o with
  | .add | .max | .min => true
  | _ => !isFl t

/-- R111: the effect of a vred. -/
def effRed (o : RedOp) (_d a : Opd) (m : Bool) (t : ElemTy) (e : VEntry) (s : State) : R State := do
  let act ← s.maskBits e m
  let xs ← s.readElems e a (elSize t) e.vl 0 act
  let l := actives xs act
  let r := if isFl t then
      redFloatResult o t (redBlock s e t) (if redAccumulates o e.la t then some e.sD else none) l
    else (redIntResult o (elSize t) l, 0)
  .ok (((s.putDst e r.1).popRings e).flagsV r.2)

/-- R111: a vred issues. -/
def vred (s : State) (ins : Instr) (o : RedOp) (d a : Opd) (m : Bool) (t : ElemTy) :
    Host.Outcome State Fault Refusal :=
  issueV s (.ins ins)
    { srcs := [a], sdst := some d, sD := if redAccumulates o s.crew.la t then some d else none, size := elSize t }
    (need (redTypeOk o t) fltIllegal) noChk (effRed o d a m t)

/-- R111: the scan outputs and flags of a float type. -/
def scanFloat (o : RedOp) (t : ElemTy) (p : Nat) (rm : Rm) (l : List (Option Nat)) : List (Option VF) :=
  let f := accFmt t
  let vals := l.map fun x => x.map fun y => (toAcc t y, (0 : FF))
  (List.range l.length).map fun i =>
    match l.getD i none with
    | none => none
    | some _ =>
      let r := match o with
        | .add => scanAt (addVF f) p vals i
        | .max => foldActive (minmaxVF f true) (vals.take (i + 1))
        | _ => foldActive (minmaxVF f false) (vals.take (i + 1))
      r.map fun v =>
        match elFmt t with
        | some g =>
          if g.bits == f.bits then (f.canon v.1, v.2)
          else
            let c := g.convert rm false (f.decode (f.canon v.1))
            (c.bits, v.2 ||| c.fl)
        | none => v

/-- R111: the effect of a vscan. -/
def effScan (o : RedOp) (d a : Opd) (m : Bool) (t : ElemTy) (e : VEntry) (s : State) : R State := do
  let act ← s.maskBits e m
  let xs ← s.readElems e a (elSize t) e.vl 0 act
  let l := actives xs act
  let res : List (Option VF) := if isFl t then scanFloat o t (redBlock s e t) (rmOf e.frm) l
    else (List.range l.length).map fun i => match l.getD i none with
      | none => none
      | some _ => (foldActive (redInt o (elSize t)) (l.take (i + 1))).map fun v => (v, 0)
  let fl := orFlags (res.map fun r => match r with | some p => p.2 | none => 0)
  .ok (((s.writeElems d (elSize t) (res.map fun r => r.map Prod.fst)).popRings e).flagsV fl)

/-- R111: a vscan issues. -/
def vscan (s : State) (ins : Instr) (o : RedOp) (d a : Opd) (m : Bool) (t : ElemTy) :
    Host.Outcome State Fault Refusal :=
  issueV s (.ins ins) (shape1 d a (elSize t) false) (need (redTypeOk o t) fltIllegal) noChk (effScan o d a m t)


/-- VRED_ADD (R111). -/
def effVredAdd (d a : Opd) (m : Bool) (t : ElemTy) : VEntry → State → R State := effRed .add d a m t
/-- VRED_ADD (R111). -/
def execVredAdd (d a : Opd) (m : Bool) (t : ElemTy) (s : State) : Host.Outcome State Fault Refusal :=
  vred s (.vredAdd d a m t) .add d a m t

/-- VRED_MAX (R111). -/
def effVredMax (d a : Opd) (m : Bool) (t : ElemTy) : VEntry → State → R State := effRed .max d a m t
/-- VRED_MAX (R111). -/
def execVredMax (d a : Opd) (m : Bool) (t : ElemTy) (s : State) : Host.Outcome State Fault Refusal :=
  vred s (.vredMax d a m t) .max d a m t

/-- VRED_MIN (R111). -/
def effVredMin (d a : Opd) (m : Bool) (t : ElemTy) : VEntry → State → R State := effRed .min d a m t
/-- VRED_MIN (R111). -/
def execVredMin (d a : Opd) (m : Bool) (t : ElemTy) (s : State) : Host.Outcome State Fault Refusal :=
  vred s (.vredMin d a m t) .min d a m t

/-- VRED_AND (R111). -/
def effVredAnd (d a : Opd) (m : Bool) (t : ElemTy) : VEntry → State → R State := effRed .and d a m t
/-- VRED_AND (R111). -/
def execVredAnd (d a : Opd) (m : Bool) (t : ElemTy) (s : State) : Host.Outcome State Fault Refusal :=
  vred s (.vredAnd d a m t) .and d a m t

/-- VRED_OR (R111). -/
def effVredOr (d a : Opd) (m : Bool) (t : ElemTy) : VEntry → State → R State := effRed .or d a m t
/-- VRED_OR (R111). -/
def execVredOr (d a : Opd) (m : Bool) (t : ElemTy) (s : State) : Host.Outcome State Fault Refusal :=
  vred s (.vredOr d a m t) .or d a m t

/-- VRED_MAXU (R111). -/
def effVredMaxu (d a : Opd) (m : Bool) (t : ElemTy) : VEntry → State → R State := effRed .maxu d a m t
/-- VRED_MAXU (R111). -/
def execVredMaxu (d a : Opd) (m : Bool) (t : ElemTy) (s : State) : Host.Outcome State Fault Refusal :=
  vred s (.vredMaxu d a m t) .maxu d a m t

/-- VRED_MINU (R111). -/
def effVredMinu (d a : Opd) (m : Bool) (t : ElemTy) : VEntry → State → R State := effRed .minu d a m t
/-- VRED_MINU (R111). -/
def execVredMinu (d a : Opd) (m : Bool) (t : ElemTy) (s : State) : Host.Outcome State Fault Refusal :=
  vred s (.vredMinu d a m t) .minu d a m t

/-- VSCAN_ADD (R111). -/
def effVscanAdd (d a : Opd) (m : Bool) (t : ElemTy) : VEntry → State → R State := effScan .add d a m t
/-- VSCAN_ADD (R111). -/
def execVscanAdd (d a : Opd) (m : Bool) (t : ElemTy) (s : State) : Host.Outcome State Fault Refusal :=
  vscan s (.vscanAdd d a m t) .add d a m t

/-- VSCAN_MAX (R111). -/
def effVscanMax (d a : Opd) (m : Bool) (t : ElemTy) : VEntry → State → R State := effScan .max d a m t
/-- VSCAN_MAX (R111). -/
def execVscanMax (d a : Opd) (m : Bool) (t : ElemTy) (s : State) : Host.Outcome State Fault Refusal :=
  vscan s (.vscanMax d a m t) .max d a m t

/-- VSCAN_MIN (R111). -/
def effVscanMin (d a : Opd) (m : Bool) (t : ElemTy) : VEntry → State → R State := effScan .min d a m t
/-- VSCAN_MIN (R111). -/
def execVscanMin (d a : Opd) (m : Bool) (t : ElemTy) (s : State) : Host.Outcome State Fault Refusal :=
  vscan s (.vscanMin d a m t) .min d a m t

/-- VSCAN_AND (R111). -/
def effVscanAnd (d a : Opd) (m : Bool) (t : ElemTy) : VEntry → State → R State := effScan .and d a m t
/-- VSCAN_AND (R111). -/
def execVscanAnd (d a : Opd) (m : Bool) (t : ElemTy) (s : State) : Host.Outcome State Fault Refusal :=
  vscan s (.vscanAnd d a m t) .and d a m t

/-- VSCAN_OR (R111). -/
def effVscanOr (d a : Opd) (m : Bool) (t : ElemTy) : VEntry → State → R State := effScan .or d a m t
/-- VSCAN_OR (R111). -/
def execVscanOr (d a : Opd) (m : Bool) (t : ElemTy) (s : State) : Host.Outcome State Fault Refusal :=
  vscan s (.vscanOr d a m t) .or d a m t

/-- VSCAN_MAXU (R111). -/
def effVscanMaxu (d a : Opd) (m : Bool) (t : ElemTy) : VEntry → State → R State := effScan .maxu d a m t
/-- VSCAN_MAXU (R111). -/
def execVscanMaxu (d a : Opd) (m : Bool) (t : ElemTy) (s : State) : Host.Outcome State Fault Refusal :=
  vscan s (.vscanMaxu d a m t) .maxu d a m t

/-- VSCAN_MINU (R111). -/
def effVscanMinu (d a : Opd) (m : Bool) (t : ElemTy) : VEntry → State → R State := effScan .minu d a m t
/-- VSCAN_MINU (R111). -/
def execVscanMinu (d a : Opd) (m : Bool) (t : ElemTy) (s : State) : Host.Outcome State Fault Refusal :=
  vscan s (.vscanMinu d a m t) .minu d a m t

/-! ## Permutes (R112) -/

/-- R112: the elements that a mask selects, in order. -/
def compressed (xs : List Nat) (sel : List Bool) : List Nat :=
  (List.zip xs sel).filterMap fun p => if p.2 then some p.1 else none

/-- VCOMPRESS (R112): d keeps its other elements, so it is a vector register (R104). -/
def effVcompress (d a : Opd) (t : ElemTy) (e : VEntry) (s : State) : R State := do
  let sel ← s.maskBits e true
  let xs ← s.readElems e a (elSize t) e.vl 0 sel
  let ys := compressed xs sel
  let res := ys.map some ++ List.replicate (e.vl - ys.length) none
  .ok ((s.writeElems d (elSize t) res).popRings e)
/-- VCOMPRESS (R112). -/
def execVcompress (d a : Opd) (t : ElemTy) (s : State) : Host.Outcome State Fault Refusal :=
  issueV s (.ins (.vcompress d a t)) { srcs := [a], vdst := [d], size := elSize t } (.ok ()) noChk
    (effVcompress d a t)

/-- R112: elements spread to the selected positions, lowest first. -/
def expanded : List Nat → List Bool → List (Option Nat)
  | _, [] => []
  | xs, false :: r => none :: expanded xs r
  | xs, true :: r => some (xs.headD 0) :: expanded xs.tail r

/-- VEXPAND (R112). -/
def effVexpand (d a : Opd) (t : ElemTy) (e : VEntry) (s : State) : R State := do
  let sel ← s.maskBits e true
  let n := sel.count true
  let xs ← s.readElems e a (elSize t) e.vl 0 ((List.range e.vl).map fun i => decide (i < n))
  .ok ((s.writeElems d (elSize t) (expanded xs sel)).popRings e)
/-- VEXPAND (R112). -/
def execVexpand (d a : Opd) (t : ElemTy) (s : State) : Host.Outcome State Fault Refusal :=
  issueV s (.ins (.vexpand d a t)) { srcs := [a], vdst := [d], size := elSize t } (.ok ()) noChk
    (effVexpand d a t)

/-- VSLIDE (R112): element e + k of a, or 0 outside [0, vl). -/
def effVslide (d a : Opd) (m : Bool) (t : ElemTy) (e : VEntry) (s : State) : R State := do
  let act ← s.maskBits e m
  let k := e.sB.toInt
  let used := (List.range e.vl).map fun (j : Nat) => decide (k ≤ j) && act.getD ((j : Int) - k).toNat false
  let xs ← s.readElems e a (elSize t) e.vl 0 used
  let at_ (i : Nat) : Nat := if 0 ≤ (i : Int) + k ∧ (i : Int) + k < e.vl then xs.getD ((i : Int) + k).toNat 0 else 0
  let res := (List.range e.vl).map fun i => if act.getD i false then some (at_ i) else none
  .ok ((s.writeElems d (elSize t) res).popRings e)
/-- VSLIDE (R112). -/
def execVslide (d a b : Opd) (m : Bool) (t : ElemTy) (s : State) : Host.Outcome State Fault Refusal :=
  issueV s (.ins (.vslide d a b m t)) { srcs := [a], dst := some d, sB := some b, size := elSize t } (.ok ()) noChk
    (effVslide d a m t)

/-- VBCAST (R112). -/
def effVbcast (d : Opd) (m : Bool) (t : ElemTy) (e : VEntry) (s : State) : R State :=
  elementwise e m d (elSize t) [] (fun _ _ => (e.sA.toNat % 2 ^ (8 * elSize t), 0)) s
/-- VBCAST (R112). -/
def execVbcast (d a : Opd) (m : Bool) (t : ElemTy) (s : State) : Host.Outcome State Fault Refusal :=
  issueV s (.ins (.vbcast d a m t)) { dst := some d, sA := some a, size := elSize t } (.ok ()) noChk
    (effVbcast d m t)

/-- VIDX (R112). -/
def effVidx (d : Opd) (m : Bool) (t : ElemTy) (e : VEntry) (s : State) : R State :=
  elementwise e m d (elSize t) [] (fun i _ => (i % 2 ^ (8 * elSize t), 0)) s
/-- VIDX (R112): integer types only. -/
def execVidx (d : Opd) (m : Bool) (t : ElemTy) (s : State) : Host.Outcome State Fault Refusal :=
  issueV s (.ins (.vidx d m t)) { dst := some d, size := elSize t } (need (!isFl t) fltIllegal) noChk
    (effVidx d m t)

/-- VEXTR (R112). -/
def effVextr (a : Opd) (t : ElemTy) (e : VEntry) (s : State) : R State := do
  let i := e.sB.toNat
  let xs ← s.readElems e a (elSize t) e.vl 0 ((List.range e.vl).map fun j => j == i)
  let x := xs.getD i 0
  let v : Word := if e.vl ≤ i then 0
    else if isFl t then BitVec.ofNat 64 x else BitVec.ofInt 64 (sInt (elSize t) x)
  .ok ((s.putDst e v).popRings e)
/-- VEXTR (R112). -/
def execVextr (d a b : Opd) (t : ElemTy) (s : State) : Host.Outcome State Fault Refusal :=
  issueV s (.ins (.vextr d a b t)) { srcs := [a], sdst := some d, sB := some b, size := elSize t } (.ok ()) noChk
    (effVextr a t)

/-- R112: bits 0 .. vl-1 of a mask operand. -/
def State.maskOperand (s : State) (e : VEntry) (a : Opd) : R (List Bool) := do
  let n := (e.vl + 31) / 32
  let ws ← elemAs (32 * ·) (s.readElems e a 4 n 0 (List.replicate n true))
  .ok (bitsOf e.vl (bytesOfElems 4 ws))

/-- VMPOP (R112). -/
def effVmpop (a : Opd) (e : VEntry) (s : State) : R State := do
  let bs ← s.maskOperand e a
  .ok ((s.putDst e (BitVec.ofNat 64 (bs.count true))).popRings e)
/-- VMPOP (R112). -/
def execVmpop (d a : Opd) (s : State) : Host.Outcome State Fault Refusal :=
  issueV s (.ins (.vmpop d a)) { srcs := [a], sdst := some d, size := 1 } (.ok ()) noChk (effVmpop a)

/-- VMFIRST (R112). -/
def effVmfirst (a : Opd) (e : VEntry) (s : State) : R State := do
  let bs ← s.maskOperand e a
  let v : Word := match bs.findIdx? id with
    | some i => BitVec.ofNat 64 i
    | none => -1
  .ok ((s.putDst e v).popRings e)
/-- VMFIRST (R112). -/
def execVmfirst (d a : Opd) (s : State) : Host.Outcome State Fault Refusal :=
  issueV s (.ins (.vmfirst d a)) { srcs := [a], sdst := some d, size := 1 } (.ok ()) noChk (effVmfirst a)

/-! ## Top-k (R113) -/

/-- R113: the rank of a value: a larger rank is a larger value; every NaN ranks alike above all. -/
def rankOf (t : ElemTy) (x : Nat) : Int :=
  match elFmt t with
  | none => sInt (elSize t) x
  | some f =>
    let h : Nat := 2 ^ (f.e + f.m)
    if (f.decode x).isNan then h
    else if x < h then x else (h : Int) - 1 - x

/-- R113: a candidate put behind every one that ranks at least as high. -/
def rankInsert (c : Int × Nat × Nat) : List (Int × Nat × Nat) → List (Int × Nat × Nat)
  | [] => [c]
  | h :: r => if c.1 ≤ h.1 then h :: rankInsert c r else c :: h :: r

/-- R113: the outputs of one row: k pairs of value and index. -/
def topRow (t : ElemTy) (k : Nat) (row : List (Option Nat)) : List (Nat × Nat) :=
  let cands := (List.range row.length).filterMap fun j => (row.getD j none).map fun x => (rankOf t x, x, j)
  let best := (cands.foldl (fun l c => rankInsert c l) []).map fun c => (c.2.1, c.2.2)
  let pad : Nat × Nat := (match elFmt t with | some f => f.inf true | none => 2 ^ (8 * elSize t - 1), 0xFFFF)
  (best ++ List.replicate k pad).take k

/-- R113: k and L of the control operand. -/
def topK (w : Word) : Nat := w.toNat % 65536
def topL (w : Word) : Nat := w.toNat / 65536 % 65536

/-- R113: the limits. The indices, two bytes each, must fit d + 1 as the values must fit d (DEDUCED, log
27). -/
def topChk (t : ElemTy) (s : State) (e : VEntry) : R Unit := do
  let k := topK e.sB
  let l := topL e.sB
  need (decide (1 ≤ k) && decide (k ≤ 256) && decide (1 ≤ l) && e.sB.toNat / 2 ^ 32 == 0) fltOperand
  need (e.vl % l == 0 && decide (e.vl / l * k * Nat.max (elSize t) 2 ≤ s.mvl * 4)) fltOperand

/-- R113: the register after an even vector register. -/
def nextReg (d : Opd) : Opd :=
  match d with
  | .v r => if h : r.val + 1 < 64 then .v ⟨r.val + 1, h⟩ else .s 0
  | _ => .s 0

/-- R113: an even vector register. -/
def evenReg (d : Opd) : Bool :=
  match d with
  | .v r => r.val % 2 == 0
  | _ => false

/-- VTOPK (R113). -/
def effVtopk (d a : Opd) (m : Bool) (t : ElemTy) (e : VEntry) (s : State) : R State := do
  let act ← s.maskBits e m
  let xs ← s.readElems e a (elSize t) e.vl 0 act
  let l := topL e.sB
  let rows := chunksOf l (e.vl / l) (actives xs act)
  let outs := (rows.map (topRow t (topK e.sB))).flatten
  let s1 := (s.writeElems d (elSize t) (outs.map fun p => some p.1)).writeElems (nextReg d) 2 (outs.map fun p => some p.2)
  .ok (s1.popRings e)
/-- VTOPK (R113). -/
def execVtopk (d a b : Opd) (m : Bool) (t : ElemTy) (s : State) : Host.Outcome State Fault Refusal :=
  issueV s (.ins (.vtopk d a b m t)) { srcs := [a], vdst := [d, nextReg d], sB := some b, size := elSize t }
    (need (evenReg d) fltIllegal) (topChk t) (effVtopk d a m t)

end Sys2Proof.Machine
end

