-- ==== Sys2Proof/Machine/Interval.lean ====
section
/-! DEFINITION. Intervals: their kinds and canonical form, outward-rounded arithmetic, the relational
quotient, contractors with their progress, and the scalar and vector interval instructions (R197-R209). -/

namespace Sys2Proof.Machine

/-! ## Interval values -/

/-- R197: an interval operand as it is read: none is empty; the endpoints are never NaN and zero is +0. -/
abbrev IvV := Option (FVal × FVal)

/-- R197: zero has no sign. -/
def FVal.plain : FVal → FVal
  | .fin s m e => if m = 0 then .fin false 0 0 else .fin s m e
  | v => v

/-- The order of endpoints. -/
def fvLe (a b : FVal) : Bool := decide (a.cmp b ≤ 0)
def fvLt (a b : FVal) : Bool := decide (a.cmp b < 0)
def fvMin (a b : FVal) : FVal := if fvLe a b then a else b
def fvMax (a b : FVal) : FVal := if fvLe b a then a else b
def FVal.isInf : FVal → Bool
  | .inf _ => true
  | _ => false

/-- R197: bounds as a set of reals. -/
def ivOf (l h : FVal) : IvV :=
  if fvLt h l || l == .inf false || h == .inf true then none else some (l, h)

/-- R197: two endpoint codes of a format: whether one is NaN, and the set. -/
def ivRead (f : Fmt) (lo hi : Nat) : Bool × IvV :=
  let l := (f.decode lo).plain
  let h := (f.decode hi).plain
  if l.isNan || h.isNan then (true, none) else (false, ivOf l h)

/-- The code of an endpoint that the format holds. -/
def endCode (f : Fmt) : FVal → Nat
  | .inf s => f.inf s
  | .fin s m e => if m = 0 then 0 else (f.round .rne s m e false).bits
  | .nan _ => 0

/-- R197: the codes of a result in canonical form. -/
def ivCodes (f : Fmt) : IvV → Nat × Nat
  | none => (f.inf false, f.inf true)
  | some (l, h) => (endCode f l, endCode f h)

/-- R198: an endpoint rounded outward: down for a lower one, up for an upper one. -/
def outward (f : Fmt) (up : Bool) : FVal → FVal
  | .fin s m e => if m = 0 then .fin false 0 0 else (f.decode (f.round (if up then .rup else .rdn) s m e false).bits).plain
  | v => v

/-! ## Arithmetic of endpoints -/

/-- The exact sum of a signed total. -/
def FVal.ofSum (p : Int × Int) : FVal := FVal.plain (.fin (decide (p.1 < 0)) p.1.natAbs p.2)

/-- R201: the sum of endpoints; infinities of both signs never meet in a bound of non-empty sets. -/
def endAdd (a b : FVal) : FVal :=
  match a, b with
  | .inf s, _ => .inf s
  | _, .inf s => .inf s
  | .fin s m e, .fin t n k => FVal.ofSum (sumExact [(s, m, e), (t, n, k)])
  | x, _ => x

/-- R198: the product of endpoints, with 0 × ±∞ = 0. -/
def endMul (a b : FVal) : FVal :=
  match mulExact a b with
  | (.nan _, _) => .fin false 0 0
  | (v, _) => v.plain

/-- R198: the quotient of endpoints rounded outward; ±∞ ÷ ±∞ has none, and a finite value by ±∞ is 0. -/
def endDiv (f : Fmt) (up : Bool) (a b : FVal) : Option FVal :=
  match a, b with
  | .inf _, .inf _ => none
  | .inf s, .fin t _ _ => some (.inf (s != t))
  | .fin _ _ _, .inf _ => some (.fin false 0 0)
  | .fin s m e, .fin t n k =>
    if m = 0 then some (.fin false 0 0)
    else
      let q := divMag (f.m + 40) m e n k
      some (f.decode (f.round (if up then .rup else .rdn) (s != t) q.1 q.2.1 q.2.2).bits).plain
  | _, _ => none

/-- R201: the square root of an endpoint at or above 0, rounded outward. -/
def endSqrt (f : Fmt) (up : Bool) : FVal → FVal
  | .fin _ m e =>
    if m = 0 then .fin false 0 0
    else
      let q := sqrtMag (f.m + 40) m e
      (f.decode (f.round (if up then .rup else .rdn) false q.1 q.2.1 q.2.2).bits).plain
  | v => v

/-- The least and greatest of a non-empty list of endpoints. -/
def endsMin (l : List FVal) : FVal := l.foldl fvMin (.inf false)
def endsMax (l : List FVal) : FVal := l.foldl fvMax (.inf true)

/-- The zero endpoint. -/
def fvZero : FVal := .fin false 0 0
/-- The endpoint 1. -/
def fvOne : FVal := .fin false 1 0

/-! ## Forward operations (R201, R202) -/

/-- An operation on two non-empty sets. -/
def ivMap2 (g : FVal → FVal → FVal → FVal → IvV) (a b : IvV) : IvV :=
  match a, b with
  | some (a1, a2), some (b1, b2) => g a1 a2 b1 b2
  | _, _ => none

/-- R201: iadd. -/
def ivAdd (f : Fmt) : IvV → IvV → IvV := ivMap2 fun a1 a2 b1 b2 =>
  some (outward f false (endAdd a1 b1), outward f true (endAdd a2 b2))

/-- R201: isub. -/
def ivSub (f : Fmt) : IvV → IvV → IvV := ivMap2 fun a1 a2 b1 b2 =>
  some (outward f false (endAdd a1 b2.negate), outward f true (endAdd a2 b1.negate))

/-- R201: imul. -/
def ivMul (f : Fmt) : IvV → IvV → IvV := ivMap2 fun a1 a2 b1 b2 =>
  let p := [endMul a1 b1, endMul a1 b2, endMul a2 b1, endMul a2 b2]
  some (outward f false (endsMin p), outward f true (endsMax p))

/-- R202: the pieces of the relational quotient of non-empty sets; the rounded least quotient is the least
of the rounded ones. -/
def rdivEnds (f : Fmt) (c1 c2 b1 b2 : FVal) : List (FVal × FVal) :=
  let qs (up : Bool) : List FVal :=
    [endDiv f up c1 b1, endDiv f up c1 b2, endDiv f up c2 b1, endDiv f up c2 b2].filterMap id
  let q (up : Bool) (x y : FVal) : FVal := (endDiv f up x y).getD fvZero
  if fvLt fvZero b1 || fvLt b2 fvZero then [(endsMin (qs false), endsMax (qs true))]
  else if fvLe c1 fvZero && fvLe fvZero c2 then [(.inf true, .inf false)]
  else if fvLe fvZero b1 && fvLe b2 fvZero then []
  else if fvLt fvZero c1 then
    (if fvLe fvZero b1 then [(q false c1 b2, .inf false)]
     else if fvLe b2 fvZero then [(.inf true, q true c1 b1)]
     else [(.inf true, q true c1 b1), (q false c1 b2, .inf false)])
  else
    (if fvLe fvZero b1 then [(.inf true, q true c2 b2)]
     else if fvLe b2 fvZero then [(q false c2 b1, .inf false)]
     else [(.inf true, q true c2 b2), (q false c2 b1, .inf false)])

/-- R202: rdiv. -/
def rdiv (f : Fmt) (c b : IvV) : List (FVal × FVal) :=
  match c, b with
  | some (c1, c2), some (b1, b2) => rdivEnds f c1 c2 b1 b2
  | _, _ => []

/-- R206: the hull of two sets. -/
def ivHull (a b : IvV) : IvV :=
  match a, b with
  | some (a1, a2), some (b1, b2) => some (fvMin a1 b1, fvMax a2 b2)
  | some x, none => some x
  | none, y => y

/-- The hull of pieces. -/
def hullOf (ps : List IvV) : IvV := ps.foldl ivHull none

/-- R203: the exact intersection. -/
def ivMeet : IvV → IvV → IvV := ivMap2 fun a1 a2 b1 b2 => ivOf (fvMax a1 b1) (fvMin a2 b2)

/-- R203: the intersection with a set of pieces. -/
def ivMeets (x : IvV) (ps : List (FVal × FVal)) : IvV := hullOf (ps.map fun p => ivMeet x (some p))

/-- R201: idiv: the hull of rdiv; a zero divisor gives empty. -/
def ivDiv (f : Fmt) (a b : IvV) : IvV :=
  if b = some (fvZero, fvZero) then none else hullOf ((rdiv f a b).map some)

/-- An operation on one non-empty set. -/
def ivMap1 (g : FVal → FVal → IvV) (a : IvV) : IvV :=
  match a with
  | some (a1, a2) => g a1 a2
  | none => none

/-- R201: isqr. -/
def ivSqr (f : Fmt) : IvV → IvV := ivMap1 fun a1 a2 =>
  let q1 := endMul a1 a1
  let q2 := endMul a2 a2
  if fvLe fvZero a1 then some (outward f false q1, outward f true q2)
  else if fvLe a2 fvZero then some (outward f false q2, outward f true q1)
  else some (fvZero, outward f true (fvMax q1 q2))

/-- R201: isqrt. -/
def ivSqrt (f : Fmt) (a : IvV) : IvV :=
  ivMap1 (fun a1 a2 => some (endSqrt f false a1, endSqrt f true a2)) (ivMeet a (some (fvZero, .inf false)))

/-- R201: ineg. -/
def ivNeg : IvV → IvV := ivMap1 fun a1 a2 => some (a2.negate.plain, a1.negate.plain)

/-! ## Contractors (R203-R205) -/

/-- The contractors. -/
inductive Contract where
  | add | sub | mul | div | sqr | sqrt
  deriving DecidableEq, Repr

/-- The values of the registers a contractor names. -/
abbrev IvEnv := List (Nat × IvV)

/-- A register's value. -/
def IvEnv.at_ (env : IvEnv) (k : Nat) : IvV := (kvGet env k).getD none

/-- R203: one narrowing step; an empty value ends the contractor. -/
def narrowTo (k : Nat) (v : IvV) (env : IvEnv) : Option IvEnv := if v.isSome then some (kvSet env k v) else none

/-- R203: the three steps, each reading what the ones before it left. -/
def Contract.run (f : Fmt) (x : Contract) (c a b : Nat) (env : IvEnv) : Option IvEnv :=
  let at_ (e : IvEnv) (k : Nat) : IvV := IvEnv.at_ e k
  let meet (k : Nat) (v : IvV) (e : IvEnv) : Option IvEnv := narrowTo k (ivMeet (at_ e k) v) e
  let meets (k : Nat) (ps : List (FVal × FVal)) (e : IvEnv) : Option IvEnv := narrowTo k (ivMeets (at_ e k) ps) e
  match x with
  | .add => do
    let e1 ← meet c (ivAdd f (at_ env a) (at_ env b)) env
    let e2 ← meet a (ivSub f (at_ e1 c) (at_ e1 b)) e1
    meet b (ivSub f (at_ e2 c) (at_ e2 a)) e2
  | .sub => do
    let e1 ← meet c (ivSub f (at_ env a) (at_ env b)) env
    let e2 ← meet a (ivAdd f (at_ e1 c) (at_ e1 b)) e1
    meet b (ivSub f (at_ e2 a) (at_ e2 c)) e2
  | .mul => do
    let e1 ← meet c (ivMul f (at_ env a) (at_ env b)) env
    let e2 ← meets a (rdiv f (at_ e1 c) (at_ e1 b)) e1
    meets b (rdiv f (at_ e2 c) (at_ e2 a)) e2
  | .div => do
    let e1 ← meet c (ivDiv f (at_ env a) (at_ env b)) env
    let e2 ← meet a (ivMul f (at_ e1 c) (at_ e1 b)) e1
    meets b (rdiv f (at_ e2 a) (at_ e2 c)) e2
  | .sqr => do
    let e1 ← meet c (ivSqr f (at_ env a)) env
    match ivSqrt f (at_ e1 c) with
    | some (r1, r2) => meets a [(r2.negate.plain, r1.negate.plain), (r1, r2)] e1
    | none => none
  | .sqrt => do
    let e1 ← meet c (ivSqrt f (at_ env a)) env
    match at_ e1 c with
    | some (c1, c2) =>
      let c0 := fvMax c1 fvZero
      meet a (some (outward f false (endMul c0 c0), outward f true (endMul c2 c2))) e1
    | none => none

/-- R205: whether an interval that was X has progressed. -/
def progressed (thr : Nat) (old new : IvV) : Bool :=
  match old, new with
  | some (l, h), some (l', h') =>
    let dl : FVal := if l.isInf || l'.isInf then fvZero else endAdd l' l.negate
    let dh : FVal := if h.isInf || h'.isInf then fvZero else endAdd h h'.negate
    let d := fvMax dl dh
    let moved := fvLt fvZero d
    let fin := !l.isInf && !h.isInf
    (fin && moved && fvLe (endMul (.fin false thr (-8)) (endAdd h l.negate)) d) ||
      (l.isInf && !l'.isInf) || (h.isInf && !h'.isInf) || (thr == 0 && moved)
  | _, _ => false

/-- R204, R205: what a contractor on named registers writes and the iflags it sets; `wr` are the registers
it may write, with `bad` when an operand is invalid. -/
def contractOut (f : Fmt) (x : Contract) (thr : Nat) (c a b : Nat) (wr : List Nat) (bad : Bool) (env : IvEnv) :
    IvEnv × BitVec 3 :=
  match (if bad then none else x.run f c a b env) with
  | none => (wr.map fun k => (k, none), iEMP ||| (if bad then iNAI else 0))
  | some e =>
    (wr.map fun k => (k, IvEnv.at_ e k),
     if wr.any (fun k => progressed thr (IvEnv.at_ env k) (IvEnv.at_ e k)) then iPROG else 0)

/-! ## Scalar interval registers -/

/-- R199: an iv field. -/
def ivReg (o : Opd) : R (Fin 32) :=
  match o with
  | .s n => if h : n.val < 32 then .ok ⟨n.val, h⟩ else flt fltIllegal
  | _ => flt fltIllegal

/-- R44, R199: a predicate field. -/
def prReg (o : Opd) : R (Fin 8) :=
  match o with
  | .s n => if h : n.val < 8 then .ok ⟨n.val, h⟩ else flt fltIllegal
  | _ => flt fltIllegal

/-- R197: an interval register as an operand: whether it is invalid, and its set. -/
def Thread.ivGet (t : Thread) (k : Fin 32) : Bool × IvV := ivRead fmt64 (t.iv[k]).lo.toNat (t.iv[k]).hi.toNat

/-- R85, R197: write an interval register. -/
def Thread.ivPut (t : Thread) (k : Fin 32) (v : IvV) : Thread :=
  let c := ivCodes fmt64 v
  { t.record (.iv k t.iv[k]) with
    iv := t.iv.set k { lo := BitVec.ofNat 64 c.1, hi := BitVec.ofNat 64 c.2 } }

/-- R85: write a predicate. -/
def Thread.prPut (t : Thread) (k : Fin 8) (v : BitVec 2) : Thread :=
  { t.record (.pr k t.pr[k]) with pr := t.pr.set k v }

/-- R198: the iflags of operands and a result. -/
def ivFlags (bad : Bool) (emptyRead : Bool) (res : IvV) : BitVec 3 :=
  (if bad || emptyRead || res.isNone then iEMP else 0) ||| (if bad then iNAI else 0)

/-- A forward operation with one result: R201, R206. `prog` is the PROG it sets besides. -/
def ivForward2 (d a b : Opd) (op : IvV → IvV → IvV) (prog : Nat → IvV → IvV → Bool) (s : State) :
    Host.Outcome State Fault Refusal :=
  finish s do
    let kd ← ivReg d
    let ka ← ivReg a
    let kb ← ivReg b
    let x := s.thr.ivGet ka
    let y := s.thr.ivGet kb
    let bad := x.1 || y.1
    let r := if bad then none else op x.2 y.2
    let fl := ivFlags bad (x.2.isNone || y.2.isNone) r |||
      (if prog s.thr.csr.icfg.toNat x.2 r then iPROG else 0)
    (s.modThr fun t => (t.ivPut kd r).mergeI fl).adv.histKept

/-- A forward operation on one interval. -/
def ivForward1 (d a : Opd) (op : IvV → IvV) (s : State) : Host.Outcome State Fault Refusal :=
  finish s do
    let kd ← ivReg d
    let ka ← ivReg a
    let x := s.thr.ivGet ka
    let r := op x.2
    (s.modThr fun t => (t.ivPut kd r).mergeI (ivFlags x.1 x.2.isNone r)).adv.histKept

/-- No progress. -/
def noProg (_ : Nat) (_ _ : IvV) : Bool := false

/-- IADD (R201). -/
def execIadd (d a b : Opd) (s : State) : Host.Outcome State Fault Refusal := ivForward2 d a b (ivAdd fmt64) noProg s
/-- ISUB (R201). -/
def execIsub (d a b : Opd) (s : State) : Host.Outcome State Fault Refusal := ivForward2 d a b (ivSub fmt64) noProg s
/-- IMUL (R201). -/
def execImul (d a b : Opd) (s : State) : Host.Outcome State Fault Refusal := ivForward2 d a b (ivMul fmt64) noProg s
/-- IDIV (R201). -/
def execIdiv (d a b : Opd) (s : State) : Host.Outcome State Fault Refusal := ivForward2 d a b (ivDiv fmt64) noProg s
/-- ISQR (R201). -/
def execIsqr (d a : Opd) (s : State) : Host.Outcome State Fault Refusal := ivForward1 d a (ivSqr fmt64) s
/-- ISQRT (R201). -/
def execIsqrt (d a : Opd) (s : State) : Host.Outcome State Fault Refusal := ivForward1 d a (ivSqrt fmt64) s
/-- INEG (R201). -/
def execIneg (d a : Opd) (s : State) : Host.Outcome State Fault Refusal := ivForward1 d a ivNeg s

/-- R203-R205: a scalar contractor. When two fields name one register, its old value for R205 is the one
before the instruction (DEDUCED, log 32). -/
def contractS (x : Contract) (c a b : Opd) (two : Bool) (s : State) : Host.Outcome State Fault Refusal :=
  finish s do
    let kc ← ivReg c
    let ka ← ivReg a
    let kb ← if two then ivReg b else .ok ka
    let ks := [kc, ka, kb].eraseDups
    let env : IvEnv := ks.map fun k => (k.val, (s.thr.ivGet k).2)
    let bad := ks.any fun k => (s.thr.ivGet k).1
    let out := contractOut fmt64 x s.thr.csr.icfg.toNat kc.val ka.val kb.val (ks.map fun k => k.val) bad env
    (s.modThr fun t =>
      (ks.foldl (fun (t' : Thread) k => t'.ivPut k (IvEnv.at_ out.1 k.val)) t).mergeI out.2).adv.histKept

/-- CADD (R203). -/
def execCadd (d a b : Opd) (s : State) : Host.Outcome State Fault Refusal := contractS .add d a b true s
/-- CSUB (R203). -/
def execCsub (d a b : Opd) (s : State) : Host.Outcome State Fault Refusal := contractS .sub d a b true s
/-- CMUL (R203). -/
def execCmul (d a b : Opd) (s : State) : Host.Outcome State Fault Refusal := contractS .mul d a b true s
/-- CDIV (R203). -/
def execCdiv (d a b : Opd) (s : State) : Host.Outcome State Fault Refusal := contractS .div d a b true s
/-- CSQR (R203). -/
def execCsqr (d a : Opd) (s : State) : Host.Outcome State Fault Refusal := contractS .sqr d a a false s
/-- CSQRT (R203). -/
def execCsqrt (d a : Opd) (s : State) : Host.Outcome State Fault Refusal := contractS .sqrt d a a false s

/-- IINTER (R206): X of R205 is a. -/
def execIinter (d a b : Opd) (s : State) : Host.Outcome State Fault Refusal := ivForward2 d a b ivMeet progressed s
/-- IHULL (R206). -/
def execIhull (d a b : Opd) (s : State) : Host.Outcome State Fault Refusal := ivForward2 d a b ivHull noProg s

/-- R206: the split point of a non-empty interval. -/
def splitPoint (f : Fmt) (a1 a2 : FVal) : FVal :=
  let mag : FVal → FVal
    | .fin _ m e => .fin false m e
    | v => v
  let m : FVal :=
    match a1.isInf, a2.isInf with
    | false, false =>
      match (endAdd a1 a2).scale (-1) with
      | .fin s m e => if m = 0 then fvZero else (f.decode (f.round .rne s m e false).bits).plain
      | v => v
    | true, true => fvZero
    | true, false => outward f false (endAdd a2 (fvMax (mag a2) fvOne).negate)
    | false, true => outward f true (endAdd a1 (fvMax (mag a1) fvOne))
  match m with
  | .inf s => .fin s f.maxFin.1 f.maxFin.2
  | v => v

/-- ISPLIT (R206). -/
def execIsplit (d a : Opd) (s : State) : Host.Outcome State Fault Refusal :=
  finish s do
    let kd ← ivReg d
    let ka ← ivReg a
    need (kd != ka) fltIllegal
    let x := s.thr.ivGet ka
    let out : IvV × IvV :=
      match x.2 with
      | some (a1, a2) => (some (a1, splitPoint fmt64 a1 a2), some (splitPoint fmt64 a1 a2, a2))
      | none => (none, none)
    (s.modThr fun t => ((t.ivPut kd out.1).ivPut ka out.2).mergeI (ivFlags x.1 x.2.isNone out.1)).adv.histKept

/-- R206: the width of an interval as f64 bits. -/
def widthBits : IvV → Nat
  | none => fmt64.inf true
  | some (l, h) => if l.isInf || h.isInf then fmt64.inf false else endCode fmt64 (outward fmt64 true (endAdd h l.negate))

/-- IWID (R206). -/
def execIwid (d a : Opd) (s : State) : Host.Outcome State Fault Refusal :=
  finish s do
    let ka ← ivReg a
    s.wrOk d
    let x := s.thr.ivGet ka
    ((s.put d (BitVec.ofNat 64 (widthBits x.2))).modThr fun t => t.mergeI (ivFlags x.1 false x.2)).adv.histKept

/-- ICLRP (R206). -/
def execIclrp (d : Opd) (s : State) : Host.Outcome State Fault Refusal :=
  finish s do
    s.wrOk d
    s.drained
    .ok ((s.put d (if s.thr.iflags &&& iPROG = 0 then 0 else 1)).modThr fun t =>
      { t with iflags := t.iflags &&& ~~~iPROG }).adv

/-- R207: a three-valued compare: 1 true, 0 false, 2 unknown; an empty or invalid operand gives false. -/
def icmp (p a b : Opd) (two : Bool) (test : FVal → FVal → FVal → FVal → BitVec 2) (s : State) :
    Host.Outcome State Fault Refusal :=
  finish s do
    let kp ← prReg p
    let ka ← ivReg a
    let kb ← if two then ivReg b else .ok ka
    let x := s.thr.ivGet ka
    let y := s.thr.ivGet kb
    let v : BitVec 2 :=
      match x.2, y.2 with
      | some (a1, a2), some (b1, b2) => test a1 a2 b1 b2
      | _, _ => 0
    let fl := ivFlags (x.1 || y.1) (x.2.isNone || y.2.isNone) (some (fvZero, fvZero))
    (s.modThr fun t => (t.prPut kp v).mergeI fl).adv.histKept

/-- ICMP_LT (R207). -/
def execIcmpLt (d a b : Opd) (s : State) : Host.Outcome State Fault Refusal :=
  icmp d a b true (fun a1 a2 b1 b2 => if fvLt a2 b1 then 1 else if fvLe b2 a1 then 0 else 2) s
/-- ICMP_LE (R207). -/
def execIcmpLe (d a b : Opd) (s : State) : Host.Outcome State Fault Refusal :=
  icmp d a b true (fun a1 a2 b1 b2 => if fvLe a2 b1 then 1 else if fvLt b2 a1 then 0 else 2) s
/-- ICMP_SUB (R207). -/
def execIcmpSub (d a b : Opd) (s : State) : Host.Outcome State Fault Refusal :=
  icmp d a b true (fun a1 a2 b1 b2 => if fvLe b1 a1 && fvLe a2 b2 then 1 else 0) s
/-- ICMP_CZ (R207). -/
def execIcmpCz (d a : Opd) (s : State) : Host.Outcome State Fault Refusal :=
  icmp d a a false (fun a1 a2 _ _ => if fvLe a1 fvZero && fvLe fvZero a2 then 1 else 0) s

/-- ISET (R200). -/
def execIset (d a b : Opd) (s : State) : Host.Outcome State Fault Refusal :=
  finish s do
    let kd ← ivReg d
    let x ← s.rd a
    let y ← s.rd b
    let v := ivRead fmt64 x.toNat y.toNat
    (s.modThr fun t => (t.ivPut kd v.2).mergeI (ivFlags v.1 false v.2)).adv.histKept

/-- R200: read an endpoint: an empty register gives its canonical endpoint; of an invalid one the stored
bits are returned (DEDUCED, log 32). -/
def iget (d a : Opd) (hi : Bool) (s : State) : Host.Outcome State Fault Refusal :=
  finish s do
    let ka ← ivReg a
    s.wrOk d
    let x := s.thr.ivGet ka
    let raw := s.thr.iv[ka]
    let c := ivCodes fmt64 x.2
    let v : Word := if x.1 then (if hi then raw.hi else raw.lo) else BitVec.ofNat 64 (if hi then c.2 else c.1)
    ((s.put d v).modThr fun t => t.mergeI (ivFlags x.1 false x.2)).adv.histKept

/-- IGET_LO (R200). -/
def execIgetLo (d a : Opd) (s : State) : Host.Outcome State Fault Refusal := iget d a false s
/-- IGET_HI (R200). -/
def execIgetHi (d a : Opd) (s : State) : Host.Outcome State Fault Refusal := iget d a true s

/-! ## Vector interval pairs (R208) -/

/-- The registers of a pair. -/
def pairOf (o : Opd) : List Opd := [o, nextReg o]

/-- R208: b is a pair or a broadcast interval register. -/
def ivB (b : Opd) : List Opd :=
  match b with
  | .s _ => []
  | _ => pairOf b

/-- R208: the operand classes. -/
def pairsLegal (d a b : Opd) : R Unit :=
  need (evenReg d && evenReg a && (match b with | .s n => decide (n.val < 32) | _ => evenReg b)) fltIllegal

/-- R208: the interval that b broadcasts, read at queue entry. -/
def State.broadcastIv (s : State) (b : Opd) : Ival :=
  match ivReg b with
  | .ok k => s.thr.iv[k]
  | .error _ => { lo := 0, hi := 0 }

/-- R59, R208: the f32 code that an f64 bound broadcasts as. -/
def ivBound (rm : Rm) (x : Word) : Nat := (fmt32.convert rm false (fmt64.decode x.toNat)).bits

/-- R59: a scalar interval as every element of a broadcast reads it: the lower bound rounded down and the upper
bound up to f32; an empty one stays empty. -/
def ivBroadcast (v : Ival) : Bool × IvV :=
  match ivRead fmt64 v.lo.toNat v.hi.toNat with
  | (false, none) => (false, none)
  | _ => ivRead fmt32 (ivBound .rdn v.lo) (ivBound .rup v.hi)

/-- The elements of a pair, or of a broadcast. -/
def readPair (s : State) (e : VEntry) (o : Opd) (act : List Bool) : R (List (Bool × IvV)) :=
  match o with
  | .s _ => .ok (List.replicate e.vl (ivBroadcast e.ivB))
  | _ => do
    let lo ← s.readElems e o 4 e.vl 0 act
    let hi ← s.readElems e (nextReg o) 4 e.vl 0 act
    .ok ((List.zip lo hi).map fun p => ivRead fmt32 p.1 p.2)

/-- Write the elements of a pair, none where the old value stays. -/
def writePair (s : State) (o : Opd) (vals : List (Option IvV)) : State :=
  let codes := vals.map fun v => v.map fun x => ivCodes fmt32 x
  (s.writeElems o 4 (codes.map fun c => c.map Prod.fst)).writeElems (nextReg o) 4 (codes.map fun c => c.map Prod.snd)

/-- R208: the OR of elements' iflags. -/
def orI (l : List (BitVec 3)) : BitVec 3 := l.foldl (· ||| ·) 0

/-- A forward vector operation (R208). -/
def effForwardV (op : IvV → IvV → IvV) (d a b : Opd) (m : Bool) (e : VEntry) (s : State) : R State := do
  let act ← s.maskBits e m
  let xs ← readPair s e a act
  let ys ← readPair s e b act
  let res : List (Option (IvV × BitVec 3)) := (List.range e.vl).map fun i =>
    if act.getD i false then
      let x := xs.getD i (false, none)
      let y := ys.getD i (false, none)
      let bad := x.1 || y.1
      let r := if bad then none else op x.2 y.2
      some (r, ivFlags bad (x.2.isNone || y.2.isNone) r)
    else none
  let s1 := writePair s d (res.map fun r => r.map Prod.fst)
  .ok (s1.modThr fun t => t.commitFlags 0 (orI (res.map fun r => match r with | some p => p.2 | none => 0)))

/-- A vector contractor (R208): the pairs it names are written, a broadcast b is not. -/
def effContractV (x : Contract) (d a b : Opd) (m : Bool) (e : VEntry) (s : State) : R State := do
  let act ← s.maskBits e m
  let cs ← readPair s e d act
  let xs ← readPair s e a act
  let ys ← readPair s e b act
  let kc := opdNum d
  let ka := opdNum a
  let kb := opdNum b
  let wr := ([kc, ka] ++ (if isScalar b then [] else [kb])).eraseDups
  let res : List (Option (IvEnv × BitVec 3)) := (List.range e.vl).map fun i =>
    if act.getD i false then
      let c := cs.getD i (false, none)
      let p := xs.getD i (false, none)
      let q := ys.getD i (false, none)
      let env : IvEnv := kvSet (kvSet [(kc, c.2)] ka p.2) kb q.2
      some (contractOut fmt32 x e.icfg.toNat kc ka kb wr (c.1 || p.1 || q.1) env)
    else none
  let put (s' : State) (o : Opd) : State :=
    if wr.contains (opdNum o) then
      writePair s' o (res.map fun r => r.map fun p => IvEnv.at_ p.1 (opdNum o))
    else s'
  let s1 := put (put (put s d) a) b
  .ok (s1.modThr fun t => t.commitFlags 0 (orI (res.map fun r => match r with | some p => p.2 | none => 0)))

/-- How a vector interval instruction issues (R208). -/
def issueI (s : State) (i : Instr) (d a b : Opd) (eff : VEntry → State → R State) : Host.Outcome State Fault Refusal :=
  issueV s (.ins i) { vdst := pairOf d ++ pairOf a ++ ivB b, size := 4 } (pairsLegal d a b) (fun _ _ => .ok ()) eff
    (s.broadcastIv b)

/-- VIADD (R208). -/
def effViadd (d a b : Opd) (m : Bool) (e : VEntry) (s : State) : R State := effForwardV (ivAdd fmt32) d a b m e s
/-- VIADD (R208). -/
def execViadd (d a b : Opd) (m : Bool) (s : State) : Host.Outcome State Fault Refusal :=
  issueI s (.viadd d a b m) d a b (effViadd d a b m)
/-- VISUB (R208). -/
def effVisub (d a b : Opd) (m : Bool) (e : VEntry) (s : State) : R State := effForwardV (ivSub fmt32) d a b m e s
/-- VISUB (R208). -/
def execVisub (d a b : Opd) (m : Bool) (s : State) : Host.Outcome State Fault Refusal :=
  issueI s (.visub d a b m) d a b (effVisub d a b m)
/-- VIMUL (R208). -/
def effVimul (d a b : Opd) (m : Bool) (e : VEntry) (s : State) : R State := effForwardV (ivMul fmt32) d a b m e s
/-- VIMUL (R208). -/
def execVimul (d a b : Opd) (m : Bool) (s : State) : Host.Outcome State Fault Refusal :=
  issueI s (.vimul d a b m) d a b (effVimul d a b m)
/-- VCADD (R208). -/
def effVcadd (d a b : Opd) (m : Bool) (e : VEntry) (s : State) : R State := effContractV .add d a b m e s
/-- VCADD (R208). -/
def execVcadd (d a b : Opd) (m : Bool) (s : State) : Host.Outcome State Fault Refusal :=
  issueI s (.vcadd d a b m) d a b (effVcadd d a b m)
/-- VCSUB (R208). -/
def effVcsub (d a b : Opd) (m : Bool) (e : VEntry) (s : State) : R State := effContractV .sub d a b m e s
/-- VCSUB (R208). -/
def execVcsub (d a b : Opd) (m : Bool) (s : State) : Host.Outcome State Fault Refusal :=
  issueI s (.vcsub d a b m) d a b (effVcsub d a b m)
/-- VCMUL (R208). -/
def effVcmul (d a b : Opd) (m : Bool) (e : VEntry) (s : State) : R State := effContractV .mul d a b m e s
/-- VCMUL (R208). -/
def execVcmul (d a b : Opd) (m : Bool) (s : State) : Host.Outcome State Fault Refusal :=
  issueI s (.vcmul d a b m) d a b (effVcmul d a b m)

end Sys2Proof.Machine
end

