-- ==== Sys2Proof/Machine/Narrow.lean ====
section
/-! DEFINITION. Narrow formats: code tables, six-bit planes, pruning and scaled conversion (R71-R73, R79, R80,
R192-R196). -/

namespace Sys2Proof.Machine

/-! ## Packed fields -/

/-- R72: nibble `e` of bytes. -/
def nibble (bs : List Nat) (e : Nat) : Nat := bs.getD (e / 2) 0 / 16 ^ (e % 2) % 16

/-- R72: 2-bit position `e` of bytes. -/
def crumb (bs : List Nat) (e : Nat) : Nat := bs.getD (e / 4) 0 / 4 ^ (e % 4) % 4

/-- Bytes with nibbles replaced: `f e` is the new nibble at position `e`, none where it stays. -/
def setNibbles (bs : List Nat) (f : Nat → Option Nat) : List Nat :=
  (List.range bs.length).map fun i => (f (2 * i)).getD (nibble bs (2 * i)) + 16 * (f (2 * i + 1)).getD (nibble bs (2 * i + 1))

/-- Bytes with 2-bit fields replaced. -/
def setCrumbs (bs : List Nat) (f : Nat → Option Nat) : List Nat :=
  (List.range bs.length).map fun i =>
    (List.range 4).foldr (fun k acc => acc * 4 + (f (4 * i + k)).getD (crumb bs (4 * i + k))) 0

/-- The first `n` bytes of a register as numbers. -/
def State.regBytes (s : State) (o : Opd) (n : Nat) : List Nat :=
  match o with
  | .v r => elemsOf 1 n (s.vBytes r.val n)
  | _ => List.replicate n 0

/-- Bytes `lo` and on of a register written, with v1's scale length (R49). -/
def State.putBytes (s : State) (o : Opd) (bs : List Nat) (scaleLen : Nat) : State :=
  match o with
  | .v r => (s.putVec r.val 1 (bs.map some)).setScale r.val scaleLen 1
  | _ => s

/-! ## Scales (R79, R80) -/

/-- R49, R79: the scale bytes available. -/
def Thread.scaleBytes (t : Thread) : Nat := t.scaleLen.toNat * sizeOf2 t.scaleSz

/-- R79: enough scale bytes, or FLT_SCALE_COUNT before any result. -/
def State.scales (s : State) (n : Nat) (act : List Bool) : R (List Nat) := do
  need (decide (n ≤ s.thr.scaleBytes)) fltScaleCount
  s.unpoisoned 1 1 n act
  .ok (s.regBytes (.v 1) n)

/-! ## Code tables -/

/-- R73: the 32-bit entry `n` of a bank. -/
def cbEntry (c : Crew) (bank : Bool) (n : Nat) : Nat := (if bank then c.cb1 else c.cb0).nat (4 * n) 4

/-- R73: weight `k` of an index, as a value; its sign bit is s(k) even where the magnitude is 0 (DEDUCED, log
30). -/
def cbWeight (c : Crew) (bank : Bool) (x k : Nat) : FVal :=
  let m := cbEntry c bank (x / 256) / 16 ^ k % 16
  let bit (i : Nat) : Bool := x / 2 ^ i % 2 == 1
  let neg := if k < 7 then bit (k + 1)
    else (List.range 7).foldl (fun b i => b != bit (i + 1)) false
  .fin neg (2 * m + x % 2) (-3)

/-- R192: the format of a wide type. -/
def wideFmt : WideTy → Fmt
  | .bf16 => fmtBf | .f16 => fmt16 | .f32 => fmt32
/-- Bytes of a wide type. -/
def wideSize : WideTy → Nat
  | .f32 => 4 | _ => 2

/-- The queued instructions of the crew's other threads. -/
def State.otherQueued (s : State) : List VEntry := (s.mates.map Thread.vq).flatten

/-- R193: an instruction decodes with the table of its own bank: no cbload that another thread's queue holds from
before it has still to write. -/
def State.tableReady (s : State) (e : VEntry) : Bool :=
  s.otherQueued.all fun x => !x.ins.isCbload || decide (e.gen ≤ x.gen)

/-- R193: the bank that a cbload writes is free: no earlier instruction of another thread that captured it is still
queued. -/
def State.bankFree (s : State) (e : VEntry) : Bool :=
  s.otherQueued.all fun x => x.bank == e.bank || decide (e.gen < x.gen)

/-- VDECB (R192). -/
def effVdecb (d a : Opd) (m : Bool) (t : WideTy) (e : VEntry) (s : State) : R State := do
  await (s.tableReady e) .commit
  let act ← s.maskBits e m
  let xs ← elemAs (firstActive act 8) (s.readElems e a 2 (e.vl / 8) 0 ((List.range (e.vl / 8)).map fun i =>
    (List.range 8).any fun k => act.getD (8 * i + k) false))
  let w (i : Nat) : Nat := ((wideFmt t).convert .rne false (cbWeight s.crew e.bank (xs.getD (i / 8) 0) (i % 8))).bits
  .ok ((s.writeElems d (wideSize t) ((List.range e.vl).map fun i => if act.getD i false then some (w i) else none)).popRings e)
/-- VDECB (R192): the indices stand in a vector register. -/
def execVdecb (d a : Opd) (m : Bool) (t : WideTy) (s : State) : Host.Outcome State Fault Refusal :=
  issueV s (.ins (.vdecb d a m t)) { dst := some d, vdst := [a], size := wideSize t } (.ok ())
    (fun _ e => need (e.vl % 8 == 0) fltOperand) (effVdecb d a m t)

/-- R51, R184, R193: a solo thread that is no forked child, or the computer of a trio. -/
def State.engineRole (s : State) : R Unit :=
  need (if s.crew.trio then s.thr.role == .computer else s.thr.parent.isNone) fltCrewMode

/-- CBLOAD (R193): the bytes go to the bank other than the one captured; the flip is complete. Where the thread's
registers hold fewer than 1,024 bytes, after two forks, the lane groups that follow its own give the rest (DESIGN
CHOICE, log 16). -/
def effCbload (a : Opd) (e : VEntry) (s : State) : R State := do
  await (s.bankFree e) .commit
  (match a with
   | .v r => s.unpoisoned r.val 1 1024 (List.replicate 1024 true)
   | _ => .ok ())
  let bs : Mem := Mem.put [] 0 (bytesOfElems 1 (s.regBytes a 1024))
  let more := (s.thr.vq.filter fun q => q.ins.isCbload && decide (e.seq < q.seq)).isEmpty
  .ok (s.modCrew fun c => { c with
    cb0 := if e.bank then bs else c.cb0, cb1 := if e.bank then c.cb1 else bs, pend := c.pend && !more })
/-- CBLOAD (R193): from its entry on, later instructions capture the other bank, and PEND reads 1 until it
commits. -/
def execCbload (a : Opd) (s : State) : Host.Outcome State Fault Refusal :=
  match issueV s (.ins (.cbload a)) { vdst := [a], size := 0 } s.engineRole (fun _ _ => .ok ())
      (fun e s1 => (effCbload a e s1).map fun s2 => s2.modCrew fun c => { c with act := !e.bank, cbGen := c.cbGen + 1 }) with
  | .next s' =>
    if s'.thr.vq.length = s.thr.vq.length + 1 ∧ s'.crew.id = s.crew.id then
      .next (s'.modCrew fun c => { c with act := !c.act, pend := true, cbGen := c.cbGen + 1 })
    else .next s'
  | r => r

/-! ## Six-bit planes -/

/-- The number of a vector register. -/
def vNum : Opd → Nat
  | .v r => r.val
  | _ => 0

/-- R194: the 2-bit offset of a plane register, by the number of its 4-bit plane. -/
def planeH (o : Opd) : Nat := vNum o % 2 * 1024

/-- R194: at most 1,024 codes, whose 2-bit plane lies within the register (DEDUCED, log 31). -/
def planeChk (o : Opd) (s : State) (e : VEntry) : R Unit :=
  need (decide (e.vl ≤ 1024) && decide ((planeH o + e.vl + 3) / 4 ≤ s.mvl * 4)) fltOperand

/-- VSPLIT6 (R194). -/
def effVsplit6 (d a b : Opd) (e : VEntry) (s : State) : R State := do
  let xs ← s.readElems e a 1 e.vl 0 (List.replicate e.vl true)
  let h := planeH d
  let lo := setNibbles (s.regBytes d ((e.vl + 1) / 2)) fun i => if i < e.vl then some (xs.getD i 0 % 16) else none
  let hi := setCrumbs (s.regBytes b ((h + e.vl + 3) / 4)) fun i =>
    if h ≤ i ∧ i < h + e.vl then some (xs.getD (i - h) 0 / 16 % 4) else none
  let s1 := s.putBytes d lo ((e.vl + 1) / 2)
  .ok ((s1.putBytes b (if e.vl = 0 then [] else hi) ((h + e.vl + 3) / 4)).popRings e)
/-- VSPLIT6 (R194). -/
def execVsplit6 (d a b : Opd) (f : SixFmt) (s : State) : Host.Outcome State Fault Refusal :=
  issueV s (.ins (.vsplit6 d a b f)) { srcs := [a], vdst := [d, b], size := 1 } (need (d != b) fltIllegal)
    (planeChk d) (effVsplit6 d a b)

/-- VJOIN6 (R194). -/
def effVjoin6 (d a b : Opd) (e : VEntry) (s : State) : R State := do
  let h := planeH a
  let all (n : Nat) : List Bool := List.replicate n true
  elemAs (2 * ·) (s.unpoisoned (vNum a) 1 ((e.vl + 1) / 2) (all ((e.vl + 1) / 2)))
  elemAs (4 * · - h) (s.unpoisoned (vNum b) 1 ((h + e.vl + 3) / 4) (List.replicate (h / 4) false ++ all ((e.vl + 3) / 4)))
  let lo := s.regBytes a ((e.vl + 1) / 2)
  let hi := s.regBytes b ((h + e.vl + 3) / 4)
  .ok ((s.writeElems d 1 ((List.range e.vl).map fun i => some (nibble lo i + 16 * crumb hi (h + i)))).popRings e)
/-- VJOIN6 (R194). -/
def execVjoin6 (d a b : Opd) (f : SixFmt) (s : State) : Host.Outcome State Fault Refusal :=
  issueV s (.ins (.vjoin6 d a b f)) { dst := some d, vdst := [a, b], size := 1 } (.ok ()) (planeChk a)
    (effVjoin6 d a b)

/-! ## Pruning -/

/-- R195: N and M of a pattern. -/
def pruneNM (p : PrunePat) (e : VEntry) : Nat × Nat :=
  match p with
  | .p1of2 => (1, 2) | .p2of4 => (2, 4) | .p4of8 => (4, 8) | .p1of4 => (1, 4) | .p2of8 => (2, 8)
  | .p4of16 => (4, 16) | .p8of16 => (8, 16)
  | .prcfg => (e.prN.toNat, e.prM.toNat)

/-- R55, R195: prcfg holds a legal pattern, and vl is a whole number of groups. -/
def pruneChk (p : PrunePat) (_ : State) (e : VEntry) : R Unit := do
  let (n, m) := pruneNM p e
  need (decide (1 ≤ n) && decide (n ≤ m) && (m == 2 || m == 4 || m == 8 || m == 16)) fltOperand
  need (e.vl % m == 0) fltOperand

/-- R195: the rank of a magnitude: every NaN ranks alike, above infinity. -/
def magRank (t : ElemTy) (x : Nat) : Nat :=
  match elFmt t with
  | none => (sInt (elSize t) x).natAbs
  | some f => if (f.decode x).isNan then 2 ^ (f.e + f.m) else x % 2 ^ (f.e + f.m)

/-- R195: the positions kept of a group, ascending: those that fewer than N others beat, by a larger magnitude
or an equal one at a lower position. -/
def kept (t : ElemTy) (n : Nat) (g : List Nat) : List Nat :=
  (List.range g.length).filter fun i =>
    decide (((List.range g.length).countP fun j =>
      decide (magRank t (g.getD i 0) < magRank t (g.getD j 0)) ||
        (magRank t (g.getD i 0) == magRank t (g.getD j 0) && decide (j < i))) < n)

/-- VPRUNE (R195). -/
def effVprune (d a : Opd) (t : ElemTy) (p : PrunePat) (e : VEntry) (s : State) : R State := do
  let xs ← s.readElems e a (elSize t) e.vl 0 (List.replicate e.vl true)
  let (n, m) := pruneNM p e
  let outs := ((chunksOf m (e.vl / m) xs).map fun g => (kept t n g).map fun i => (g.getD i 0, i)).flatten
  let s1 := s.writeElems d (elSize t) (outs.map fun o => some o.1)
  let cnt := outs.length
  let nb := setNibbles (s1.regBytes (nextReg d) ((cnt + 1) / 2)) fun i =>
    if i < cnt then some (outs.getD i (0, 0)).2 else none
  .ok ((s1.putBytes (nextReg d) nb ((cnt + 1) / 2)).popRings e)
/-- VPRUNE (R195). -/
def execVprune (d a : Opd) (t : ElemTy) (p : PrunePat) (s : State) : Host.Outcome State Fault Refusal :=
  issueV s (.ins (.vprune d a t p)) { srcs := [a], vdst := [d, nextReg d], size := elSize t }
    (need (evenReg d) fltIllegal) (pruneChk p) (effVprune d a t p)

/-! ## Scaled conversion -/

/-- R196: the narrow formats. -/
def narrowFmt : NarrowFmt → Fmt
  | .e4m3 => fmtE4m3 | .e5m2 => fmtE5m2 | .e2m3 => fmtE2m3 | .e3m2 => fmtE3m2 | .e2m1 => fmtE2m1

/-- R80, R196: a conversion with a scale code: a NaN scale acts as a NaN of the element's sign, with NV. -/
def scaledConvert (src dst : Fmt) (rm : Rm) (sat : Bool) (up : Bool) (scale x : Nat) : Nat × FF :=
  let v := src.decode x
  if scale = 255 then
    let r := dst.convert rm sat (.nan v.neg)
    (r.bits, r.fl ||| fNV)
  else
    let k : Int := if up then (scale : Int) - 127 else 127 - scale
    let r := dst.convert rm sat (v.scale k)
    (r.bits, r.fl)

/-- R79: bytes of the scales of vl elements. -/
def scaleCount (vl : Nat) : Nat := (vl + 31) / 32

/-- R80: which blocks have an active element. -/
def blockActive (act : List Bool) (vl : Nat) : List Bool :=
  (List.range (scaleCount vl)).map fun b => (List.range 32).any fun i => act.getD (32 * b + i) false

/-- VCVTS_TO_NARROW (R196). -/
def effVcvtsToNarrow (d a : Opd) (n : NarrowFmt) (m : Bool) (t : WideTy) (e : VEntry) (s : State) : R State := do
  let act ← s.maskBits e m
  let sc ← elemAs (firstActive act 32) (s.scales (scaleCount e.vl) (blockActive act e.vl))
  let xs ← s.readElems e a (wideSize t) e.vl 0 act
  let res := (List.range e.vl).map fun i =>
    if act.getD i false then
      some (scaledConvert (wideFmt t) (narrowFmt n) (s.rmAt e true i) (satCvt e.frm) false (sc.getD (i / 32) 0) (xs.getD i 0))
    else none
  let vals := res.map fun r => r.map Prod.fst
  let s1 := if n = .e2m1 then
      s.putPacked e d 1 2 (setNibbles (s.packedOld d ((e.vl + 1) / 2)) fun i => vals.getD i none)
    else s.writeElems d 1 vals
  .ok ((s1.popRings e).flagsV (orFlags (res.map fun r => match r with | some p => p.2 | none => 0)))
/-- VCVTS_TO_NARROW (R196). -/
def execVcvtsToNarrow (d a : Opd) (n : NarrowFmt) (m : Bool) (t : WideTy) (s : State) :
    Host.Outcome State Fault Refusal :=
  issueV s (.ins (.vcvtsToNarrow d a n m t)) (shape1 d a (wideSize t) true) (.ok ()) (fun _ _ => .ok ())
    (effVcvtsToNarrow d a n m t)

/-- VCVTS_FROM_NARROW (R196). -/
def effVcvtsFromNarrow (d a : Opd) (n : NarrowFmt) (m : Bool) (t : WideTy) (e : VEntry) (s : State) : R State := do
  let act ← s.maskBits e m
  let sc ← elemAs (firstActive act 32) (s.scales (scaleCount e.vl) (blockActive act e.vl))
  let xs ← if n = .e2m1 then do
      let bs ← elemAs (firstActive act 2) (s.readElems e a 1 ((e.vl + 1) / 2) 0 ((List.range ((e.vl + 1) / 2)).map fun i =>
        act.getD (2 * i) false || act.getD (2 * i + 1) false))
      .ok ((List.range e.vl).map fun i => nibble bs i)
    else s.readElems e a 1 e.vl 0 act
  let f := narrowFmt n
  let res := (List.range e.vl).map fun i =>
    if act.getD i false then
      some (scaledConvert f (wideFmt t) (s.rmAt e true i) (satCvt e.frm) true (sc.getD (i / 32) 0)
        (xs.getD i 0 % 2 ^ f.bits))
    else none
  .ok (((s.writeElems d (wideSize t) (res.map fun r => r.map Prod.fst)).popRings e).flagsV
    (orFlags (res.map fun r => match r with | some p => p.2 | none => 0)))
/-- VCVTS_FROM_NARROW (R196). -/
def execVcvtsFromNarrow (d a : Opd) (n : NarrowFmt) (m : Bool) (t : WideTy) (s : State) :
    Host.Outcome State Fault Refusal :=
  issueV s (.ins (.vcvtsFromNarrow d a n m t)) (shape1 d a (wideSize t) true) (.ok ()) (fun _ _ => .ok ())
    (effVcvtsFromNarrow d a n m t)

end Sys2Proof.Machine
end

