-- ==== Sys2Proof/Machine/Matrix.lean ====
section
/-! DEFINITION. The matrix engine: accumulators, mma and mmas (R51, R184-R191). -/

namespace Sys2Proof.Machine

/-! ## Accumulators -/

/-- The key of an element of a bank of the core's accumulator: bank 0 is the working one, 1 the visible. -/
def accKey (core a bank row col : Nat) : Nat := ((core * 4 + a) * 2 + bank) * 65536 + (row * 1024 + col) * 4

/-- R51: an accumulator that the crew's slot may name. -/
def State.accOk (s : State) (a : BitVec 2) : Bool := a.toNat % crewsOf s.crew.crews == s.crew.slot.toNat

/-- R51, R182: the roles that may issue mrd. -/
def State.readRole (s : State) : R Unit :=
  need (if s.crew.trio then s.thr.role != .loader else s.thr.parent.isNone) fltCrewMode

/-- R51: the accumulator, then the role. -/
def State.accGate (s : State) (a : BitVec 2) (role : R Unit) : R Unit := do
  need (s.accOk a) fltIllegal
  role

/-- R51: whether an accumulator is typed i32. -/
def State.accIsInt (s : State) (a : BitVec 2) : Bool := s.accInt.get (s.crew.coreIx * 4 + a.toNat) == 1

/-- The first elements of a row of a bank. -/
def State.accRow (s : State) (a : BitVec 2) (bank row n : Nat) : List Nat :=
  elemsOf 4 n (s.acc.bytes (accKey s.crew.coreIx a.toNat bank row 0) (n * 4))

/-- Write the first elements of a row of the working bank. -/
def State.accPut (s : State) (a : BitVec 2) (row : Nat) (xs : List Nat) : State :=
  { s with acc := s.acc.put (accKey s.crew.coreIx a.toNat 0 row 0) (bytesOfElems 4 xs) }

/-- Clear whole banks: from bank `lo` up to `hi`. -/
def State.accClear (s : State) (a : BitVec 2) (lo hi : Nat) : State :=
  { s with acc := SMap.clear (n := 8) s.acc (accKey s.crew.coreIx a.toNat lo 0 0) (accKey s.crew.coreIx a.toNat hi 0 0) }

/-! ## Operand formats (R185) -/

/-- Bytes of an A element. -/
def mmaASize : MmaTy → Nat
  | .bf16 | .f16 => 2
  | _ => 1

/-- Bytes that each B register must provide. -/
def mmaBBytes (f : MmaTy) (vl : Nat) : Nat :=
  match f with
  | .bf16 | .f16 | .cb2 => 2 * vl
  | .e4m3 | .e5m2 | .i8 => vl
  | .e2m3 | .e3m2 => Nat.max ((vl + 1) / 2) 512
  | .e2m1 => (vl + 1) / 2

/-- R186: registers of the B group after its base. -/
def mmaGroup : MmaTy → Nat
  | .e2m3 | .e3m2 => 11
  | .cb2 => 0
  | _ => 7

/-- A register some places after another; a code past v63 is none. -/
def regPlus (o : Opd) (k : Nat) : Opd :=
  match o with
  | .v r => if h : r.val + k < 64 then .v ⟨r.val + k, h⟩ else .s 0
  | _ => .s 0

/-- The format of an A element. -/
def mmaAFmt : MmaTy → Fmt
  | .bf16 => fmtBf | .f16 => fmt16 | .e4m3 => fmtE4m3 | .e5m2 => fmtE5m2 | .i8 => fmtE4m3
  | .e2m3 => fmtE2m3 | .e3m2 => fmtE3m2 | .e2m1 => fmtE2m1 | .cb2 => fmtE4m3

/-- R185: B[k][j] as a code of its format, given the bytes of the group's registers. -/
def mmaBCode (f : MmaTy) (regs : Nat → List Nat) (k j : Nat) : Nat :=
  match f with
  | .bf16 | .f16 => (regs k).getD (2 * j) 0 + 256 * (regs k).getD (2 * j + 1) 0
  | .e4m3 | .e5m2 | .i8 => (regs k).getD j 0
  | .e2m3 | .e3m2 => nibble (regs k) j + 16 * crumb (regs (8 + k / 2)) (k % 2 * 1024 + j)
  | .e2m1 => nibble (regs k) j
  | .cb2 => (regs 0).getD (2 * j) 0 + 256 * (regs 0).getD (2 * j + 1) 0

/-- R185: B[k][j] as a value. -/
def mmaBVal (c : Crew) (bank : Bool) (f : MmaTy) (regs : Nat → List Nat) (k j : Nat) : FVal :=
  match f with
  | .cb2 => cbWeight c bank (mmaBCode f regs k j) k
  | _ => (mmaAFmt f).decode (mmaBCode f regs k j)

/-- R187, R188: one product, scaled by 2^k, or made a NaN with NV by a NaN scale. -/
def mmaTerm (a b : FVal) (scale : Option Int) : FVal × FF :=
  match scale with
  | none => (.nan false, fNV)
  | some k => ((mulExact a b).1.scale k, (mulExact a b).2)

/-- R188: the exponent of a pair of scales, none when one is NaN. -/
def scalePair (ea eb : Nat) : Option Int :=
  if ea = 255 ∨ eb = 255 then none else some ((ea : Int) + eb - 254)

/-- R187: one element of a float accumulator: the old value and eight products, rounded once. -/
def mmaElem (rm : Rm) (c : Nat) (ts : List (FVal × FF)) : Nat × FF :=
  let r := fmt32.sumVals rm (fmt32.decode c :: ts.map Prod.fst)
  (r.bits, r.fl ||| orFlags (ts.map Prod.snd))

/-- R187: one element of an i32 accumulator. -/
def mmaElemInt (c : Nat) (ps : List (Nat × Nat)) : Nat :=
  wrapI 4 (ps.foldl (fun t p => t + sInt 1 p.1 * sInt 1 p.2) (c : Int))

/-- R186: an accumulator's type fits the format. -/
def State.mmaTyped (s : State) (a : BitVec 2) (f : MmaTy) : R Unit :=
  need (s.accIsInt a == (f == .i8)) fltOperand

/-- R186, R330: the operands hold no poisoned word that is read. -/
def State.mmaClean (s : State) (f : MmaTy) (g vl : Nat) (a b : Opd) : R Unit := do
  s.unpoisoned (vNum a) (mmaASize f) (8 * g) (List.replicate (8 * g) true)
  (List.range (mmaGroup f + 1)).forM fun k =>
    elemAs (· * vl / mmaBBytes f vl)
      (s.unpoisoned (vNum (regPlus b k)) 1 (mmaBBytes f vl) (List.replicate (mmaBBytes f vl) true))

/-- R187, R188: the effect of mma and mmas: `sc g j` is the exponent of the scales of row g and column j. -/
def State.mmaRun (s : State) (e : VEntry) (acc : BitVec 2) (g : Nat) (a b : Opd) (f : MmaTy)
    (sc : Nat → Nat → Option Int) : State :=
  let as := elemsOf (mmaASize f) (8 * g) (bytesOfElems 1 (s.regBytes a (8 * g * mmaASize f)))
  let bank := (List.range (mmaGroup f + 1)).map fun k => s.regBytes (regPlus b k) (mmaBBytes f e.vl)
  let regs (k : Nat) : List Nat := bank.getD k []
  let aCode (r k : Nat) : Nat := as.getD (8 * r + k) 0 % 2 ^ (if f = .i8 then 8 else (mmaAFmt f).bits)
  let rm := rmOf e.frm
  let row (st : State × FF) (r : Nat) : State × FF :=
    let old := st.1.accRow acc 0 r e.vl
    let out : List (Nat × FF) := (List.range e.vl).map fun j =>
      if f = .i8 then
        (mmaElemInt (old.getD j 0) ((List.range 8).map fun k => (aCode r k, mmaBCode f regs k j)), 0)
      else
        mmaElem rm (old.getD j 0) ((List.range 8).map fun k =>
          mmaTerm ((mmaAFmt f).decode (aCode r k)) (mmaBVal s.crew e.bank f regs k j) (sc r j))
    (st.1.accPut acc r (out.map Prod.fst), st.2 ||| orFlags (out.map Prod.snd))
  let r := (List.range g).foldl row (s, 0)
  r.1.flagsV r.2

/-- R186: legal registers of mma and mmas. -/
def mmaShape (a b : Opd) (f : MmaTy) : VShape :=
  { vdst := a :: (List.range (mmaGroup f + 1)).map (regPlus b), size := 0 }

/-- R186: a B base that is a multiple of 8. -/
def mmaBase (b : Opd) (f : MmaTy) : Bool := f == .cb2 || vNum b % 8 == 0

/-- R186: vl and the bytes of a B register. -/
def mmaChk (f : MmaTy) (s : State) (e : VEntry) : R Unit :=
  need (decide (e.vl ≤ 1024) && decide (mmaBBytes f e.vl ≤ s.mvl * 4)) fltOperand

/-- MMA (R187). -/
def effMma (c : BitVec 2) (g : BitVec 4) (a b : Opd) (f : MmaTy) (e : VEntry) (s : State) : R State := do
  s.mmaTyped c f
  if e.vl = 0 then .ok s
  else do
    s.mmaClean f (g.toNat + 1) e.vl a b
    .ok (s.mmaRun e c (g.toNat + 1) a b f fun _ _ => some 0)
/-- MMA (R187). -/
def execMma (c : BitVec 2) (g : BitVec 4) (a b : Opd) (f : MmaTy) (s : State) : Host.Outcome State Fault Refusal :=
  issueV s (.ins (.mma c g a b f)) (mmaShape a b f)
    (do need (mmaBase b f) fltIllegal; s.accGate c s.engineRole) (mmaChk f) (effMma c g a b f)

/-- MMAS (R188): it needs vl + G scale bytes. -/
def effMmas (c : BitVec 2) (g : BitVec 4) (a b : Opd) (f : MmaTy) (e : VEntry) (s : State) : R State := do
  s.mmaTyped c f
  let n := e.vl + g.toNat + 1
  let sc ← s.scales n (List.replicate n (e.vl != 0))
  if e.vl = 0 then .ok s
  else do
    s.mmaClean f (g.toNat + 1) e.vl a b
    .ok (s.mmaRun e c (g.toNat + 1) a b f fun r j => scalePair (sc.getD (e.vl + r) 0) (sc.getD j 0))
/-- MMAS (R188): the i8 format has no scaled form. -/
def execMmas (c : BitVec 2) (g : BitVec 4) (a b : Opd) (f : MmaTy) (s : State) : Host.Outcome State Fault Refusal :=
  issueV s (.ins (.mmas c g a b f)) (mmaShape a b f)
    (do need (mmaBase b f && f != .i8) fltIllegal; s.accGate c s.engineRole) (mmaChk f) (effMmas c g a b f)

/-! ## Accumulator instructions (R189, R190) -/

/-- MZERO (R189). -/
def effMzero (c : BitVec 2) (_ : VEntry) (s : State) : R State := .ok (s.accClear c 0 1)
/-- MZERO (R189). -/
def execMzero (c : BitVec 2) (s : State) : Host.Outcome State Fault Refusal :=
  issueV s (.ins (.mzero c)) { size := 0 } (s.accGate c s.engineRole) (fun _ _ => .ok ()) (effMzero c)

/-- MSWAP (R190): the banks exchange their contents. -/
def effMswap (c : BitVec 2) (_ : VEntry) (s : State) : R State :=
  let k := accKey s.crew.coreIx c.toNat 0 0 0
  let w : Mem := SMap.slice (n := 8) s.acc k (k + 65536)
  let v : Mem := SMap.slice (n := 8) s.acc (k + 65536) (k + 131072)
  .ok { s with acc := (s.acc.paste k 65536 v).paste (k + 65536) 65536 w }
/-- MSWAP (R190). -/
def execMswap (c : BitVec 2) (s : State) : Host.Outcome State Fault Refusal :=
  issueV s (.ins (.mswap c)) { size := 0 } (s.accGate c s.engineRole) (fun _ _ => .ok ()) (effMswap c)

/-- R189: vl of a row access. -/
def rowChk (s : State) (e : VEntry) : R Unit :=
  need (decide (e.vl ≤ 1024) && decide (e.vl ≤ s.mvl)) fltOperand

/-- MRD (R189): the G field is the row, a the destination. -/
def effMrd (c : BitVec 2) (r : BitVec 4) (a : Opd) (e : VEntry) (s : State) : R State :=
  .ok (s.writeElems a 4 ((s.accRow c 1 r.toNat e.vl).map some))
/-- MRD (R189). -/
def execMrd (c : BitVec 2) (r : BitVec 4) (a : Opd) (s : State) : Host.Outcome State Fault Refusal :=
  issueV s (.ins (.mrd c r a)) { vdst := [a], size := 0 } (s.accGate c s.readRole) rowChk (effMrd c r a)

/-- MWR (R189). -/
def effMwr (c : BitVec 2) (r : BitVec 4) (a : Opd) (e : VEntry) (s : State) : R State := do
  let xs ← s.readElems e a 4 e.vl 0 (List.replicate e.vl true)
  .ok (s.accPut c r.toNat xs)
/-- MWR (R189). -/
def execMwr (c : BitVec 2) (r : BitVec 4) (a : Opd) (s : State) : Host.Outcome State Fault Refusal :=
  issueV s (.ins (.mwr c r a)) { vdst := [a], size := 0 } (s.accGate c s.engineRole) rowChk (effMwr c r a)

/-- MCFG (R189): both banks are typed and zeroed. -/
def effMcfg (c : BitVec 2) (t : AccTy) (_ : VEntry) (s : State) : R State :=
  .ok { s.accClear c 0 2 with accInt := s.accInt.write (s.crew.coreIx * 4 + c.toNat) [if t = .i32 then 1 else 0] }
/-- MCFG (R189). -/
def execMcfg (c : BitVec 2) (t : AccTy) (s : State) : Host.Outcome State Fault Refusal :=
  issueV s (.ins (.mcfg c t)) { size := 0 } (s.accGate c s.engineRole) (fun _ _ => .ok ()) (effMcfg c t)

end Sys2Proof.Machine
end

