-- ==== Sys2Proof/Machine/Streams.lean ====
section
/-! DEFINITION. How a run or the scratchpad is reached by an access: handles and states, the pages a range
touches, the bytes themselves, the interlock rules, and what a store leaves behind (R114-R117, R123-R130,
R255, R256, R310, R311). -/

namespace Sys2Proof.Machine

/-! ## Runs -/

/-- R126: a run that the crew's context may read now. -/
def State.readable (s : State) (h : Word) : R (Nat × CabEntry × Mem) := do
  let (i, e, d) ← s.handle h
  needObj (e.mayRead s.owner) fltRunState h
  .ok (i, e, d)

/-- R126: a run that the crew's context may write now. -/
def State.writable (s : State) (h : Word) : R (Nat × CabEntry × Mem) := do
  let (i, e, d) ← s.handle h
  needObj (e.mayWrite s.owner) fltRunState h
  .ok (i, e, d)

/-- R128, R129: the device virtual address of an entry's extents. -/
def State.entryVa (s : State) (e : CabEntry) : Nat :=
  match s.ext? e.ext with
  | some x => x.va.toNat
  | none => 0

/-- R114, R311: whether an access to a run walks the page tables: under the TRANSLATE mode it captured at issue,
where there are extents. -/
def walks (x : VEntry) (e : CabEntry) : Bool := x.xmode && e.ext.isSome

/-- R311: bind the pages that an access to a run touches. -/
def State.bindRun (s : State) (x : VEntry) (e : CabEntry) (pages : List Nat) (write : Bool) :
    Binds × Option (Nat × Nat) × State :=
  if walks x e then s.bindList s.crew.ctx s.crew.coreIx write pages else ([], none, s)

/-- The first element of `size` bytes that reaches into a page, with `va` the address of element 0. -/
def firstIn (va size p : Nat) : Nat := (p * 65536 - va) / size

/-- R115, R117: the pages that the active elements of a unit-stride access touch, below a limit of `lim` bytes,
lowest first. -/
def activePages (va size lim : Nat) (act : List Bool) : List Nat :=
  let n := Nat.min (act.length * size) lim
  (pagesOf va n).filter fun p =>
    let lo := firstIn va size p
    let hi := ((p + 1) * 65536 - va + size - 1) / size
    ((act.drop lo).take (hi - lo)).any id

/-- The bytes of a run that the crew reads, through bound pages or from its extents, as its key decrypts them
(R312), with the stores that its speculative task holds back (R35). -/
def State.runBytes (s : State) (x : VEntry) (b : Binds) (e : CabEntry) (off n : Nat) : List Byte :=
  overlayRun s.crew.heldBack e.ext off
    (if walks x e then s.boundBytes s.owner b (n / 65536 + 2) (s.entryVa e + off) n else s.extBytes s.owner e.ext off n)

/-! ## Interlocks (R255, R256) -/

/-- R247, R255, R256: a vector access of the thread may enter the interlock table for its ranges, and no scalar
store that a fence.sv orders before it is still held. -/
def State.vecRoom (s : State) (x : VEntry) (rs : List (IlTarget × Nat × Nat × Bool)) : R Unit := do
  await (match s.thr.held with | some h => !(h.fenced && decide (h.seq < x.seq)) | none => true) .performed
  s.ilockRoom rs

/-- The target of a run of the crew's context. -/
def State.runTarget (s : State) (idx : Nat) : IlTarget := .run s.crew.ctx idx

/-! ## Stores -/

/-- Contiguous elements are joined, so that a whole store is one write. -/
def joinCells : List (Nat × List Byte) → List (Nat × List Byte)
  | [] => []
  | (a, x) :: r =>
    match joinCells r with
    | (b, y) :: q => if a + x.length = b then (a, x ++ y) :: q else (a, x) :: (b, y) :: q
    | [] => [(a, x)]

/-- R255: a committed store: its elements perform at once, or join the thread's unperformed ones (log 6). -/
def State.perform (s : State) (u : Unperf) : State :=
  if s.slack = 0 ∧ s.thr.unperf.isEmpty then s.performAll { u with cells := joinCells u.cells }
  else s.modThr fun t => { t with unperf := t.unperf ++ [u] }

/-- The lowest address and the end of a list of elements of `n` bytes. -/
def hull (n : Nat) : List Nat → Nat × Nat
  | [] => (0, 0)
  | a :: r => (r.foldl Nat.min a, r.foldl Nat.max a + n)

/-- The interlock range of a store's cells (R256). -/
def cellHull (cells : List (Nat × List Byte)) : Nat × Nat :=
  hull ((cells.map fun c => c.2.length).foldl Nat.max 0) (cells.map Prod.fst)

/-- R126, R127, R130, R131, R255: a vector store to a run commits: the elements at their run offsets, in the
ordering interval that its instruction entered in. -/
def State.storeRun (s : State) (x : VEntry) (b : Binds) (idx : Nat) (e : CabEntry) (cells : List (Nat × List Byte)) : State :=
  if cells.isEmpty then s
  else if s.crew.speculating then
    (joinCells cells).foldl (fun s' c => s'.journal (.store idx e.ext (s.entryVa e) (if walks x e then b else []) c.1 c.2)) s
  else
    let h := cellHull cells
    let s1 := s.perform { target := s.runTarget idx, ext := e.ext, va := s.entryVa e, pages := if walks x e then b else []
                          lo := h.1, hi := h.2, cells := cells, interval := x.interval, seq := x.seq }
    s1.setEntry s1.crew.ctx idx (e.stored h.2)

/-- R35, R255: a store to the scratchpad commits. -/
def State.storeSpad (s : State) (x : VEntry) (cells : List (Nat × List Byte)) : State :=
  if cells.isEmpty then s
  else if s.crew.speculating then (joinCells cells).foldl (fun s' c => s'.journal (.spad c.1 c.2)) s
  else
    let h := cellHull cells
    s.perform { target := .spad s.crew.coreIx, ext := none, va := 0, pages := [], lo := h.1, hi := h.2
                cells := cells, interval := x.interval, seq := x.seq }

end Sys2Proof.Machine
end

