-- ==== Sys2Proof/Machine/Runs.lean ====
section
/-! DEFINITION. Runs: records and their order, the Cabinet instructions, the run engine operations of the
runs chapter at issue, and how an operation reads its sources and publishes (R121-R142, R210, R256). -/

namespace Sys2Proof.Machine

/-! ## Records (R121, R122) -/

/-- R122: ord of a key of `w` bits. -/
def ordKey (w : Nat) (kmode : BitVec 2) (k : Nat) : Nat :=
  match kmode.toNat with
  | 0 => k
  | 1 => k ^^^ 2 ^ (w - 1)
  | _ => if k / 2 ^ (w - 1) % 2 = 1 then 2 ^ w - 1 - k else k ^^^ 2 ^ (w - 1)

/-- R121: the key of a record. -/
def recKey (e : CabEntry) (r : List Byte) : Nat := leNat (r.take e.keySize)

/-- R122: the order value of a record's key. -/
def recOrd (e : CabEntry) (r : List Byte) : Nat := ordKey (8 * e.keySize) e.kmode (recKey e r)

/-- R121: the tag of a record. -/
def recTag (e : CabEntry) (r : List Byte) : Nat := leNat ((r.drop e.keySize).take 4)

/-- R139: the order of records, by key or by key then tag. -/
def recLe (e : CabEntry) (kt : Bool) (a b : List Byte) : Bool :=
  decide (recOrd e a < recOrd e b) || (recOrd e a == recOrd e b && (!kt || decide (recTag e a ≤ recTag e b)))

/-- R148: equal in every compared field. -/
def recEq (e : CabEntry) (kt : Bool) (a b : List Byte) : Bool :=
  recOrd e a == recOrd e b && (!kt || recTag e a == recTag e b)

/-- R139: the stable order of records. -/
def sortRecs (e : CabEntry) (kt : Bool) (l : List (List Byte)) : List (List Byte) :=
  l.insertionSort fun a b => recLe e kt a b = true

/-- The records of a run's bytes. -/
def recsOf (e : CabEntry) (n : Nat) (bs : List Byte) : List (List Byte) := chunksOf e.recSize n bs

/-- R127: whether a run satisfies a sortedness; an empty run always does (R145). -/
def CabEntry.sorted (e : CabEntry) (kt : Bool) : Bool :=
  e.len == 0 || (match e.sort with | .unsorted => false | .key => !kt | .keyTag => true)

/-- R133, R146: the formats agree. -/
def sameFmt (a b : CabEntry) : Bool := a.rsz == b.rsz && a.ksz == b.ksz && a.kmode == b.kmode

/-! ## The descriptor word (R124) -/

/-- R124: the codes of STATE and SORT. -/
def RunSt.code : RunSt → Nat
  | .opened => 0 | .published => 1 | .closed => 2
def SortSt.code : SortSt → Nat
  | .unsorted => 0 | .key => 1 | .keyTag => 2

/-- R124: the descriptor word of an entry. -/
def CabEntry.desc (e : CabEntry) : Word :=
  let b (x : Bool) (k : Nat) : Nat := if x then 2 ^ k else 0
  BitVec.ofNat 64 (e.owner.toNat * 2 ^ 48 + e.pgsz.toNat * 2 ^ 41 + e.die.toNat * 2 ^ 39 + e.home.toNat * 2 ^ 34 +
    b e.place 33 + b e.tol 32 + b e.comp 31 + e.sort.code * 2 ^ 26 + e.st.code * 2 ^ 24 + e.kmode.toNat * 2 ^ 4 +
    b e.ksz 2 + e.rsz.toNat)

/-- R124, R134: the RO and RSV fields of the format argument. -/
def fmtReserved (w : Word) : Bool :=
  w.extractLsb' 43 21 == 0 && w.extractLsb' 6 27 == 0 && !w.getLsbD 3

/-- R124, R134: the entry that a format argument creates. -/
def entryOfFmt (w : Word) (gen : BitVec 16) (owner : BitVec 10) : CabEntry :=
  { live := true, gen := gen, len := 0, cap := 0, ext := none, ver := 0, owner := owner
    pgsz := w.extractLsb' 41 2, die := w.extractLsb' 39 2, home := w.extractLsb' 34 5, place := w.getLsbD 33
    tol := false, comp := false, sort := .unsorted, st := .opened, kmode := w.extractLsb' 4 2, ksz := w.getLsbD 2
    rsz := w.extractLsb' 0 2, tval := 0, tabs := false, etype := .i8, esz := 0, roots := []
    spillOf := none, shared := none }

/-- R123: the generation of an index's next use. -/
def nextGen (g : BitVec 16) : BitVec 16 := if g = 0xFFFF then 1 else g + 1

/-! ## The Cabinet instructions -/

/-- R131: the indices that held-back creations of the context's tasks have taken (DEDUCED, log 33). -/
def State.indicesHeld (s : State) (ctx : BitVec 16) : List Nat :=
  ((s.crewsHeld.filter fun c => c.ctx == ctx).map fun c =>
    c.heldBack.filterMap fun o => match o with | .newRun i _ => some i | _ => none).flatten

/-- R126: the lowest free index of a context's Cabinet. -/
def State.freeIndex (s : State) (ctx : BitVec 16) : Option Nat :=
  match s.ctxOf ctx with
  | none => none
  | some c => lowestFree (((c.cab.filter fun p => (s.freed ctx p).2.live).map Prod.fst) ++ s.indicesHeld ctx) 1 65535

/-- R123: the generation an index holds; a creation that an abort discards is no use of its index (log 33). -/
def State.genAt (s : State) (ctx : BitVec 16) (idx : Nat) : BitVec 16 :=
  match s.ctxOf ctx with
  | none => 0
  | some c => match kvGet c.cab idx with | some e => e.gen | none => 0

/-- R134: a new run of a capacity with its extents, or FLT_RUN_SPACE when they cannot be supplied; a speculative
task's entry is held back and its extents are provisional (R35, R131). -/
def State.createRun (s : State) (idx : Nat) (e : CabEntry) : R State :=
  match s.newExt s.crew.ctx e (e.cap * e.recSize) [] with
  | some (x, s1) =>
    let e1 : CabEntry := { e with ext := x, ver := s1.fresh }
    .ok (if s.crew.speculating then s1.journal (.newRun idx e1) else s1.setEntry s.crew.ctx idx e1)
  | none => flt fltRunSpace

/-- ROPEN (R134): the create form. -/
def execRopen (d a b : Opd) (s : State) : Host.Outcome State Fault Refusal :=
  finish s do
    need (opdNum d != 0) fltIllegal
    let f ← s.rd a
    let n ← s.rd b
    need (fmtReserved f && f.extractLsb' 41 2 != 3 && f.extractLsb' 4 2 != 3 && decide (n.toNat < 2 ^ 36)) fltOperand
    s.wrOk d
    s.drained
    match s.freeIndex s.crew.ctx with
    | none => flt fltRunTable
    | some i => do
      let e0 := entryOfFmt f (nextGen (s.genAt s.crew.ctx i)) s.owner
      let e := { e0 with cap := e0.capFor n.toNat }
      let s1 ← s.createRun i e
      .ok (s1.put d (handleWord e.gen i)).adv

/-- ROPEN_ACQ (R134): the acquire form. -/
def execRopenAcq (d b : Opd) (s : State) : Host.Outcome State Fault Refusal :=
  finish s do
    need (opdNum d != 0) fltIllegal
    let h ← s.rd b
    let (_, e, _) ← s.handle h
    needObj (e.st == .published) fltRunState h
    s.wrOk d
    .ok (s.put d h).adv

/-- R131: edit a run's entry `e`, or hold the edit back in a speculative task. -/
def State.editEntry (s : State) (idx : Nat) (e : CabEntry) (x : REdit) : State :=
  if s.crew.speculating then s.journal (.edit idx e.gen x) else s.setEntry s.crew.ctx idx (e.edited x)

/-- R135: whether a pending run engine operation names a run as its destination. -/
def State.opWrites (s : State) (ctx : BitVec 16) (idx : Nat) (p : Op → Bool) : Bool :=
  s.ops.any fun o => o.ctx == ctx && p o && (match o.kind with | .run _ ds _ _ _ _ => ds.contains idx | _ => false)

/-- R137, R220, R232: whether a pending operation names a run as its destination: a run engine operation, a copy-out,
or an xput whose route ends here, or may after a relay. -/
def State.opFills (s : State) (ctx : BitVec 16) (idx : Nat) (p : Op → Bool) : Bool :=
  s.opWrites ctx idx p ||
    s.ops.any fun o => o.ctx == ctx && p o && (match o.kind with
      | .cpy ctl b _ _ => ctl.getLsbD 63 && b.idx == idx
      | .xput _ route _ h _ _ => (s.endsHere route || Route.relays route) && h.toNat % 65536 == idx
      | _ => false)

/-- RPUB (R135). -/
def execRpub (a : Opd) (s : State) : Host.Outcome State Fault Refusal :=
  finish s do
    let h ← s.rd a
    let (i, e, _) ← s.handle h
    needObj (e.st == .opened) fltRunState h
    s.drained
    await (!(s.opWrites s.crew.ctx i fun _ => true)) .runEngine
    await (s.thr.unperf.isEmpty && s.thr.held.isNone) .performed
    .ok (s.editEntry i e (.state .published)).adv

/-- RCLOSE (R136). -/
def execRclose (a : Opd) (s : State) : Host.Outcome State Fault Refusal :=
  finish s do
    let h ← s.rd a
    let (i, e, _) ← s.handle h
    needObj (e.st != .closed) fltRunState h
    s.drained
    let s1 := s.editEntry i e (.state .closed)
    .ok (if s.crew.speculating then s1 else s1.freeClosed).adv

/-- Consecutive registers written. -/
def State.putBlock (s : State) (d : Opd) : Nat → List Word → R State
  | _, [] => .ok s
  | k, v :: r => do
    let o ← opdPlus d k
    let s1 ← s.wr o v
    s1.putBlock d (k + 1) r

/-- R124: the four words of an entry. -/
def State.infoWords (s : State) (e : CabEntry) : List Word :=
  [BitVec.ofNat 64 e.len, BitVec.ofNat 64 e.cap, e.desc, if e.cap = 0 then 0 else BitVec.ofNat 64 (s.entryVa e)]

/-- RINFO (R137). -/
def execRinfo (d a : Opd) (s : State) : Host.Outcome State Fault Refusal :=
  finish s do
    let _ ← opdPlus d 3
    let h ← s.rd a
    let (i, e, _) ← s.handle h
    needObj (e.st != .closed) fltRunState h
    s.drained
    await (!(s.opFills s.crew.ctx i fun o => o.crew == s.crew.id && o.thread == s.thr.idx)) .runEngine
    let s1 ← s.putBlock d 0 (s.infoWords e)
    .ok s1.adv

/-! ## Engine operations at issue (R133, R210, R256) -/

/-- R210: a token register. -/
def tokenReg (d : Opd) : R Unit := need (isScalar d && opdNum d != 0) fltIllegal

/-- R210, R247, R257: what every operation with a token waits for: its register, the limit of pending tokens, the
thread's earlier vector instructions (log 6), a scalar store that a fence.sv put before it, and the transfers that a
fence.ee did. -/
def State.engineReady (s : State) (d : Opd) : R Unit := do
  s.wrOk d
  await (decide ((s.ops.filter fun o => o.crew == s.crew.id && o.thread == s.thr.idx).length < Config.maxTokens)) .tokens
  s.drained
  await (match s.thr.held with | some h => !h.fenced | none => true) .performed
  await (!(s.ops.any fun o => s.thr.eeWait.contains o.id)) .tokens

/-- Ranges that an operation enters in the interlock table. -/
abbrev Ranges := List (IlTarget × Nat × Nat × Bool)

/-- R210, R256: an operation is accepted: its token register is pending and its ranges are held. -/
def State.startOp (s : State) (d : Opd) (kind : OpKind) (rs : Ranges) : State :=
  let id := s.fresh
  let tok : TokDest := match d with
    | .s n => .live s.crew.id s.thr.idx (s.thr.phys n.val)
    | _ => .dropped
  let o : Op := { id := id, kind := kind, tok := tok, crew := s.crew.id, thread := s.thr.idx, ctx := s.crew.ctx
                  owner := s.owner, core := s.crew.coreIx, translate := s.translating, pages := [], ts := s.crew.ts
                  slot := threadSlot s.crew s.thr, pc := s.thr.pc }
  (State.ilockAdd { s with fresh := id + 1, ops := s.ops ++ [o] } id rs).adv

/-- A run that a register names, with its handle. -/
structure Named where
  h : Word
  idx : Nat
  e : CabEntry
  d : Mem
  deriving DecidableEq, Repr

/-- R123: the run of a handle. -/
def State.named (s : State) (h : Word) : R Named := do
  let (i, e, d) ← s.handle h
  .ok { h := h, idx := i, e := e, d := d }

/-- R256: the ranges of a run engine operation: each source as it stands, every byte of each destination. -/
def State.runRanges (s : State) (dsts srcs : List Word) (spad : List (Nat × Nat)) : Ranges :=
  let idx (h : Word) : Nat := h.toNat % 65536
  (srcs.map fun h => (s.runTarget (idx h), 0,
    (match s.runOf s.crew (idx h) with | some (e, _) => e.len * e.recSize | none => 0), false)) ++
  (dsts.map fun h => (s.runTarget (idx h), 0, 2 ^ 63, true)) ++
  spad.map fun r => (.spad s.crew.coreIx, r.1, r.2, false)

/-- R133, R256: the entry of a run engine operation, which comes before its checks. -/
def State.enterRun (s : State) (d : Opd) (rs : Ranges) : R Unit := do
  s.engineReady d
  await (decide ((s.ops.filter fun o => o.core == s.crew.coreIx &&
    (match o.kind with | .run .. => true | _ => false)).length < Config.runEngineOps)) .runEngine
  s.ilockRoom rs

/-- R133: states of the runs that an operation names. -/
def State.statesOk (s : State) (dsts srcs : List Named) : R Unit := do
  dsts.forM fun n => needObj (n.e.mayWrite s.owner) fltRunState n.h
  srcs.forM fun n => needObj (n.e.mayRead s.owner) fltRunState n.h

/-- R129: a source is bound to its current version. -/
def Named.bound (n : Named) : Bound :=
  { idx := n.idx, ver := n.e.ver, ext := n.e.ext, len := n.e.len }

/-- R36, R131: the reads of a timestamped task's operation. -/
def State.touchSources (s : State) (srcs : List Named) : R State :=
  srcs.foldlM (fun s' n => s'.touch (s'.runTarget n.idx) 0 (n.e.len * n.e.recSize) false) s

/-- R133: a run engine operation is accepted. -/
def State.startRun (s : State) (d : Opd) (f : RunFn) (dsts srcs : List Named) (ctl : Word) (extra : List Word)
    (user : Option UserMerge) (rs : Ranges) : R State := do
  let s1 ← s.touchSources srcs
  .ok (s1.startOp d (.run f (dsts.map Named.idx) (srcs.map Named.bound) ctl extra user) rs)

/-- RSPLICE (R141). -/
def execRsplice (d a b : Opd) (s : State) : Host.Outcome State Fault Refusal :=
  finish s do
    tokenReg d
    let b1 ← opdPlus b 1
    let hd ← s.rd a
    let hx ← s.rd b
    let hy ← s.rd b1
    let rs := s.runRanges [hd] [hx, hy] []
    s.enterRun d rs
    let n ← s.named hd
    let x ← s.named hx
    let y ← s.named hy
    s.statesOk [n] [x, y]
    needObj (sameFmt x.e y.e) fltRunFormat hy
    needObj (sameFmt x.e n.e) fltRunFormat hd
    s.startRun d .splice [n] [x, y] 0 [] none rs

/-- RTAG (R138). -/
def execRtag (d a b : Opd) (s : State) : Host.Outcome State Fault Refusal :=
  finish s do
    tokenReg d
    let b1 ← opdPlus b 1
    let hd ← s.rd a
    let hx ← s.rd b
    let ctl ← s.rd b1
    let rs := s.runRanges [hd] [hx] []
    s.enterRun d rs
    let swap := ctl.getLsbD 32
    need (ctl.extractLsb' 33 31 == 0 && !(swap && ctl.extractLsb' 0 32 != 0)) fltOperand
    let n ← s.named hd
    let x ← s.named hx
    s.statesOk [n] [x]
    need (!(swap && x.e.ksz)) fltOperand
    needObj (!(x.e.ksz && x.e.rsz == 0)) fltRunFormat hx
    needObj (sameFmt x.e n.e) fltRunFormat hd
    s.startRun d .tag [n] [x] ctl [] none rs

/-- R139: rsort. A sort in place of a run already in order moves no data. -/
def rsort (kt : Bool) (d a b : Opd) (s : State) : Host.Outcome State Fault Refusal :=
  finish s do
    tokenReg d
    let hd ← s.rd a
    let hx ← s.rd b
    let rs := s.runRanges [hd] [hx] []
    s.enterRun d rs
    let n ← s.named hd
    let x ← s.named hx
    s.statesOk [n] [x]
    needObj (!(kt && x.e.ksz && x.e.rsz == 0)) fltRunFormat hx
    needObj (sameFmt x.e n.e) fltRunFormat hd
    let ordered := match x.e.sort with | .unsorted => false | .key => !kt | .keyTag => true
    s.startRun d (.sort kt) [n] [x] 0 (if n.idx == x.idx && ordered then [1] else []) none rs

/-- RSORT_K (R139). -/
def execRsortK (d a b : Opd) (s : State) : Host.Outcome State Fault Refusal := rsort false d a b s

/-- RSORT_KT (R139). -/
def execRsortKt (d a b : Opd) (s : State) : Host.Outcome State Fault Refusal := rsort true d a b s

/-- Registers of a block that starts at a code. -/
def State.rdBlock (s : State) (o : Opd) (k n : Nat) : R (List Word) :=
  (List.range n).mapM fun i => do
    let r ← opdPlus o (k + i)
    s.rd r

/-- RPART (R140): the splitters are read as the operation is accepted; its control word holds the source's
SORT as bound. -/
def execRpart (d a b : Opd) (s : State) : Host.Outcome State Fault Refusal :=
  finish s do
    tokenReg d
    let _ ← opdPlus a 0
    let _ ← opdPlus b 2
    let b1 ← opdPlus b 1
    let b2 ← opdPlus b 2
    let hx ← s.rd b
    let p ← s.rd b1
    let addr ← s.rd b2
    need (decide (2 ≤ p.toNat) && decide (p.toNat ≤ 16)) fltOperand
    need (decide (opdNum a + p.toNat ≤ 56)) fltOperand
    let hds ← s.rdBlock a 0 p.toNat
    let m := 8 * (p.toNat - 1)
    let rs := s.runRanges hds [hx] [(addr.toNat, addr.toNat + m)]
    s.enterRun d rs
    need (hds.eraseDups.length == hds.length) fltOperand
    if addr.toNat / 2 ^ 22 ≠ 0 then fltAt fltOperand addr 0
    let ns ← hds.mapM s.named
    let x ← s.named hx
    if addr.toNat % 8 ≠ 0 then fltAt fltAlign addr 0
    if addr.toNat + m > Config.spadBytes then fltAt fltSpadRange addr 0
    s.statesOk ns [x]
    s.spadCheck addr m false
    ns.forM fun n => needObj (sameFmt x.e n.e) fltRunFormat n.h
    s.watch false false addr.toNat m none
    let s1 ← s.touch (.spad s.crew.coreIx) addr.toNat (addr.toNat + m) false
    let spl := (chunksOf 8 (p.toNat - 1) (s.spadRead addr.toNat m)).map fun w =>
      BitVec.ofNat 64 (leNat w)
    s1.startRun d .part ns [x] (BitVec.ofNat 64 x.e.sort.code) spl none rs

/-! ## What the operations of this chapter compute -/

/-- The output of one destination: its records, its LEN and SORT. -/
structure Output where
  idx : Nat
  recs : List (List Byte)
  sort : SortSt
  deriving DecidableEq, Repr

/-- R138: the tags rtag writes. -/
def tagRec (e : CabEntry) (ctl : Word) (i : Nat) (r : List Byte) : List Byte :=
  let k := e.keySize
  if ctl.getLsbD 32 then (r.drop 4).take 4 ++ r.take 4 ++ r.drop 8
  else r.take k ++ leBytes 4 (ctl.toNat % 2 ^ 32 + i) ++ r.drop (k + 4)

/-- R140: the part of a record. -/
def partOfRec (e : CabEntry) (spl : List Word) (r : List Byte) : Nat :=
  spl.countP fun w => decide (ordKey (8 * e.keySize) e.kmode (w.toNat % 2 ^ (8 * e.keySize)) ≤ recOrd e r)

/-- The SORT an rsort writes. -/
def sortedBy (kt : Bool) : SortSt := if kt then .keyTag else .key

/-! ## Reading sources and publishing at completion -/

/-- R35: an entry as the operation's task sees it. -/
def State.opRun (s : State) (o : Op) (idx : Nat) : Option (CabEntry × Mem) :=
  match s.opCrew o with
  | some c => s.runOf c idx
  | none => s.globalRun o.ctx idx

/-- R274, R311: an operation binds the pages of a range that it has not bound yet. -/
def State.opBind (s : State) (o : Op) (va n : Nat) (write : Bool) : Except Code Binds × State :=
  match s.bindList o.ctx o.core write ((pagesOf va n).filter fun p => (kvGet o.pages p).isNone) with
  | (bs, none, s1) => (.ok (bs ++ o.pages), s1)
  | (_, some (_, r), s1) => if r < 3 then (.error fltPage, s1) else (.error fltUncorr, s1.withdraw ((r - 3) / 1024))

/-- R35: the changes that an operation's task holds back. -/
def State.opHeld (s : State) (o : Op) : List WOp :=
  match s.opCrew o with
  | some c => c.heldBack
  | none => []

/-- R358: what an operation reads: bytes, or FLT_UNCORR where a sub-beat among them is bad, whose frame is
withdrawn. -/
def State.unlessBad (s : State) (bad : Option Nat) (bs : List Byte) : Except Code (List Byte) × State :=
  match bad with
  | some d => (.error fltUncorr, s.withdraw (d / 1024))
  | none => (.ok bs, s)

/-- R129, R311, R312: the bytes of a bound source with the stores that its task holds back (R35); in TRANSLATE mode
its pages are walked first. -/
def State.boundData (s : State) (o : Op) (b : Bound) (off n : Nat) : Except Code (List Byte) × State :=
  match s.ext? b.ext with
  | none => (.ok (List.replicate n 0), s)
  | some x =>
    if o.translate then
      let va := x.va.toNat + off
      match s.opBind o va n false with
      | (.error c, s1) => (.error c, s1)
      | (.ok bs, s1) =>
        s1.unlessBad (s1.boundBad bs (n / 65536 + 2) va n)
          (overlayRun (s1.opHeld o) b.ext off (s1.boundBytes o.owner bs (n / 65536 + 2) va n))
    else s.unlessBad (s.extBad b.ext off n) (overlayRun (s.opHeld o) b.ext off (s.extBytes o.owner b.ext off n))

/-- The records of every source, with the entries as they stand. -/
def State.sourceRecs (s : State) (o : Op) : List Bound → Except Code (List (CabEntry × List (List Byte))) × State
  | [] => (.ok [], s)
  | b :: rest =>
    match s.opRun o b.idx with
    | none => (.error fltRunHandle, s)
    | some (e, _) =>
      match s.boundData o b 0 (b.len * e.recSize) with
      | (.error c, s1) => (.error c, s1)
      | (.ok bs, s1) =>
        match s1.sourceRecs o rest with
        | (.error c, s2) => (.error c, s2)
        | (.ok l, s2) => (.ok ((e, recsOf e b.len bs) :: l), s2)

/-- R126, R133, R154: why outputs cannot be published. -/
def State.publishBad (s : State) (o : Op) (outs : List Output) : Option Code :=
  if outs.any (fun x => match s.opRun o x.idx with | some (e, _) => e.st != .opened | none => true) then some fltRunState
  else if outs.any (fun x => decide (2 ^ 36 ≤ x.recs.length)) then some fltRunSpace
  else none

/-- R128: publish one output directly. -/
def State.publishOut (s : State) (o : Op) (x : Output) : Option State :=
  s.publish o.ctx x.idx x.recs.length x.sort (Mem.put [] 0 x.recs.flatten)

/-- R35, R128: the current crew's speculative task publishes one output: it takes its extents and holds the change of
the entry back. -/
def State.publishHeld (s : State) (o : Op) (x : Output) : Option State :=
  match s.runOf s.crew x.idx with
  | none => none
  | some (e, _) =>
    match s.newExt o.ctx e (e.capFor x.recs.length * e.recSize) (Mem.put [] 0 x.recs.flatten) with
    | none => none
    | some (id, s1) => some (s1.journal (.publish x.idx e.gen x.recs.length id x.sort))

/-- R35, R131: whether the speculative task of an operation is off its core, where its publication can abort no task;
the operation ends once the task is back or has become the oldest. -/
def State.opAway (s : State) (o : Op) : Bool :=
  (s.focusCrew o.crew).isNone && ((s.opCrew o).map Crew.speculating).getD false

/-- R35, R128, R133: publish outputs: all of them or none, each in fresh extents beside the old ones. A speculative
task's are held back, and recorded as writes of the whole run, as long as it was or becomes (R131; DEDUCED, log 33). -/
def State.publishAll (s : State) (o : Op) (outs : List Output) : R (Option State) :=
  do
    await (!(s.opAway o)) .commit
    match s.focusCrew o.crew with
    | none => .ok (outs.foldlM (fun s' x => s'.publishOut o x) s)
    | some s1 =>
      let s2 ← outs.foldlM (fun (s' : State) x => match s'.runOf s'.crew x.idx with
        | some (e, _) => s'.touch (s'.runTarget x.idx) 0 (Nat.max e.len x.recs.length * e.recSize) true
        | none => .ok s') s1
      .ok (outs.foldlM (fun s' x => if s1.crew.speculating then s'.publishHeld o x else s'.publishOut o x) s2)

/-- R133, R210: an operation ends with outputs: the token receives the bytes published, or a negative fault
number. A stop means that it cannot end yet. -/
def State.endRun (s : State) (o : Op) (outs : List Output) (fl : FF) : R State :=
  match s.publishBad o outs with
  | some c => .ok (s.failRun o c)
  | none => do
    let r ← s.publishAll o outs
    match r with
    | none => .ok (s.failRun o fltRunSpace)
    | some s1 => .ok ((s1.endOp o (BitVec.ofNat 64 (outs.map fun x => x.recs.flatten.length).sum) fl).countCore
        o.core 169 1 (some o.who))

end Sys2Proof.Machine
end

