-- ==== Sys2Proof/Machine/VecMem.lean ====
section
/-! DEFINITION. Vector loads and stores, first-fault truncation, gathers, scatters and gather windows
(R114-R120). -/

namespace Sys2Proof.Machine

/-! ## Which element stops an access -/

/-- R115, R117, R349: the lowest active element whose access stops, and how. -/
def firstStop (act : List Bool) (at_ : Nat → Option Stop) : Option (Nat × Stop) :=
  (List.range act.length).findSome? fun i => if act.getD i false then (at_ i).map fun x => (i, x) else none

/-- A stop with the element it was met at (R317, R349). -/
def Stop.atElem (i : Nat) : Stop → Stop
  | .trap t => .trap { t with elem := some i }
  | .watch _ => .watch (some i)
  | x => x

/-- A trap about an address and an object. -/
def trapAt (c : Code) (a : Nat) (obj val : Word) : Stop :=
  .trap { code := c, addr := BitVec.ofNat 64 a, obj := obj, value := val }

/-- R114, R115, R215, R349: how an element of `n` bytes at a scratchpad address stops: its range, the state of
a buffer as the instruction found it at issue (R216), a watchpoint. -/
def State.spadStop (s : State) (bufs : List Buf) (a n : Nat) (write : Bool) : Option Stop :=
  if Config.spadBytes < a + n then some (trapAt fltSpadRange a 0 0)
  else
    match bufBadIn bufs s.crew.coreIx s.crew.ctx a n write with
    | some b => some (trapAt fltBufState a (BitVec.ofNat 64 b.id) (BitVec.ofNat 64 b.st.code))
    | none => if s.watched false write a n then some (.watch none) else none

/-- R64, R114, R116, R117: a misaligned access: a stop of the lowest active element, ranked before the alignment,
is reported instead; in a first-fault load only that of element 0. -/
def misaligned (ff : Bool) (a : Word) (act : List Bool) (range : Nat → Option Stop) : R Unit :=
  match firstStop act range with
  | some (i, x) => if ff && decide (0 < i) then fltAt fltAlign a 0 else .error (x.atElem i)
  | none => fltAt fltAlign a 0

/-- R114: an element of a unit-stride access beyond the scratchpad. -/
def beyondSpad (a n : Nat) : Option Stop :=
  if Config.spadBytes < a + n then some (trapAt fltSpadRange a 0 0) else none

/-- R114-R116, R119: the scratchpad addresses of a unit-stride or strided access, or of offsets. -/
def unitAddr (a size : Nat) (i : Nat) : Nat := a + i * size

/-! ## Truncation (R117, R353) -/

/-- R117, R351, R353: a first-fault instruction truncates at `f`, or does not: logged, or held to the log. -/
def State.truncPoint (s : State) (ordinal : Nat) (f : Option Nat) : R State :=
  let ctx := s.crew.ctx
  match f, s.logged ctx fun e => e.w0 == 6 * 2 ^ 60 + s.slotTask with
  | some n, none => s.record ctx 6 s.slotTask (ordinal % 2 ^ 46 * 2 ^ 18 + n % 2 ^ 18)
  | some _, some none => .error (.halt 5 (s.rplAt ctx))
  | some n, some (some e) =>
    if e.w1 = ordinal % 2 ^ 46 * 2 ^ 18 + n % 2 ^ 18 then .ok (s.useEntry ctx e) else .error (.halt 5 e.ix)
  | none, some (some e) => if e.w1 / 2 ^ 18 = ordinal % 2 ^ 46 then .error (.halt 5 e.ix) else .ok s
  | none, _ => .ok s

/-- R30: the entries that the loader has written in the strip of a truncating instruction take the short length.
Its reader has taken none of them, since it waits for that strip's length (R29). -/
def RingEntry.shorten (strip f : Nat) (r : RingEntry) : RingEntry :=
  if r.strip = strip ∧ f < r.count then { r with count := f, bytes := r.bytes.take (r.unit * ((f + r.per - 1) / r.per)) } else r

/-- R339, R347: an event of a vector instruction as it commits, in the chunk of an element. -/
def State.countAs (s : State) (e : VEntry) (ev f : Nat) : State :=
  s.countCore s.crew.coreIx ev 1 (some { whoOf s.crew s.thr with pc := zext64 e.pc, elem := some (f / 64 * 64) })

/-- R118: the recorded writes after a truncating load, newest first, once it has left vl at `f`: what they would restore
has the short length up to the first cwr of vl; and whether there has been none, so that vl itself is `f`. -/
def shortHist (f : BitVec 18) : List Hist → List Hist × Bool
  | [] => ([], true)
  | h :: r =>
    let q := shortHist f r
    match h.undo with
    | .csr old => (if q.2 then { h with undo := .csr { old with vl := f } } :: q.1 else h :: q.1, q.2)
    | .vlw old => (if q.2 then { h with undo := .vlw { old with vl := f } } :: q.1 else h :: q.1, false)
    | _ => (h :: q.1, q.2)

/-- R117, R118: a truncation leaves vl at `f` in program order. -/
def Thread.shortened (t : Thread) (f : BitVec 18) : Thread :=
  let q := shortHist f t.hist
  { t.commitFlags fFF 0 with hist := q.1, csr := { t.csr with vl := if q.2 then f else t.csr.vl } }

/-- R30, R117: vl := f and fflags.FF; the entries of the same strip in a loader's rings keep f elements. -/
def State.truncate (s : State) (e : VEntry) (f : Nat) : State :=
  let s1 := if s.thr.role = .loader then
      s.modCrew fun c => { c with rings := Vector.ofFn fun (k : Fin 8) =>
        if k.val < 4 then c.rings[k].map (RingEntry.shorten e.strip f) else c.rings[k] }
    else s
  (s1.modThr fun t => t.shortened (BitVec.ofNat 18 f)).trace1 9 (some f) (zext64 e.pc) 0

/-- R115, R117: what a load does about its first stopping element: nothing, a shorter length, or the stop. A
watch hit never truncates (R349). -/
def settleLoad (ff : Bool) (vl : Nat) (st : Option (Nat × Stop)) : R Nat :=
  match st with
  | none => .ok vl
  | some (i, x) =>
    match x with
    | .trap _ => if ff && decide (0 < i) then .ok i else .error (x.atElem i)
    | _ => .error (x.atElem i)

/-- R103, R117: the loaded elements up to a length are written, with the effects of a truncation. -/
def State.finishLoad (s : State) (e : VEntry) (d : Opd) (size f : Nat) (ff : Bool) (vals : List (Option Nat)) :
    R State := do
  let s0 ← if ff then s.truncPoint e.seq (if f < e.vl then some f else none) else .ok s
  let s1 := s0.writeElems d size (vals.take f)
  .ok (if f < e.vl then (s1.truncate e f).countAs e 232 f else s1)

/-! ## Unit-stride scratchpad access -/

/-- R114, R115, R117: a load of elements from the scratchpad. The operand and its alignment are checked whatever is
active; range, buffer state and watchpoint at each active element, of which the lowest that stops is reported
(DESIGN CHOICE, log 75). -/
def State.loadSpad (s : State) (e : VEntry) (d : Opd) (size : Nat) (ff : Bool) (act : List Bool) : R State := do
  let a := e.sA.toNat
  if a / 2 ^ 22 ≠ 0 then fltAt fltOperand e.sA 0
  if a % size ≠ 0 then misaligned ff e.sA act fun i => beyondSpad (unitAddr a size i) size
  let f ← settleLoad ff e.vl (firstStop act fun i => s.spadStop e.bufs (unitAddr a size i) size false)
  if !(act.take f).any id then s.finishLoad e d size f ff (List.replicate f none)
  else do
    let t := IlTarget.spad s.crew.coreIx
    s.vecRoom e [(t, a, a + f * size, false)]
    let s1 ← s.touch t a (a + f * size) false
    let xs := elemsOf size f (s1.spadRead a (f * size))
    s1.finishLoad e d size f ff ((List.range f).map fun i => if act.getD i false then some (xs.getD i 0) else none)

/-- The active elements of a store with the place of each. -/
def cellsOf (size : Nat) (act : List Bool) (xs : List Nat) (at_ : Nat → Nat) : List (Nat × List Byte) :=
  (List.range act.length).filterMap fun i =>
    if act.getD i false then some (at_ i, leBytes size (xs.getD i 0)) else none

/-- R104, R115, R116: a store of elements to scratchpad addresses, all checked first; a ring entry is read, and
checked, whatever is active. -/
def State.storeAt (s : State) (e : VEntry) (d : Opd) (size : Nat) (act : List Bool) (at_ : Nat → Nat) : R State := do
  match firstStop act fun i => s.spadStop e.bufs (at_ i) size true with
  | some (i, x) => .error (x.atElem i)
  | none => .ok ()
  let xs ← s.readElems e d size e.vl 0 act
  let cells := cellsOf size act xs at_
  let h := hull size (cells.map Prod.fst)
  let t := IlTarget.spad s.crew.coreIx
  if cells.isEmpty then .ok (s.popRings e)
  else do
    s.vecRoom e [(t, h.1, h.2, true)]
    let s1 ← s.touch t h.1 h.2 true
    .ok ((s1.storeSpad e cells).popRings e)

/-! ## Run streams -/

/-- R114, R126, R129: the entry, as it stands, of the run that a stream named when it issued. -/
def State.streamEntry (s : State) (e : VEntry) : R (Nat × CabEntry × Mem) :=
  if e.runBad = some fltRunHandle then fltAt fltRunHandle 0 e.sB else s.handle e.sB

/-- R114, R126: the run that a stream names, in a state that allowed the access when it issued. -/
def State.streamRun (s : State) (e : VEntry) : R (Nat × CabEntry × Mem) := do
  let r ← s.streamEntry e
  needObj e.runBad.isNone fltRunState e.sB
  .ok r

/-- R64, R114: the alignment of a stream's offset, which ranks after the handle, where that is checked at element
`first` or whatever is active (`always`), and before the run's state. -/
def State.streamAlign (s : State) (e : VEntry) (size : Nat) (first : Option Nat) (always : Bool) : R Unit :=
  if e.sA.toNat % size = 0 then .ok ()
  else
    match s.streamEntry e, first with
    | .error x, some i => .error (x.atElem i)
    | .error x, none => if always then .error x else fltAt fltAlign e.sA e.sB
    | _, _ => fltAt fltAlign e.sA e.sB

/-- R310, R358: how an access at a device virtual address stops on a page whose walk fails. -/
def pageStop (r a : Nat) (h : Word) : Stop := .trap (pageFault r { code := fltPage, addr := BitVec.ofNat 64 a, obj := h })

/-- R115, R117, R310: how an element of a stream stops: beyond the run, or on a page that is not there. The
bound is reported before the page (DEDUCED, log 29). -/
def streamStop (lim va : Nat) (bad : Option (Nat × Nat)) (h : Word) (off n : Nat) : Option Stop :=
  if lim < off + n then some (trapAt fltRunBounds off h 0)
  else
    match bad with
    | some (p, r) => if (va + off) / 65536 = p then some (pageStop r (va + off) h) else none
    | none => none

/-- R358: the bad sub-beat that an access to `n` bytes of a run at an offset reads, through bound pages or not. -/
def State.runBad (s : State) (x : VEntry) (b : Binds) (c : CabEntry) (off n : Nat) : Option Nat :=
  if walks x c then s.boundBad b (n / 65536 + 2) (s.entryVa c + off) n else s.extBad c.ext off n

/-- R358: a read of a bad sub-beat: FLT_UNCORR, which withdraws its frame. -/
def badRead (d off : Nat) (h : Word) : Stop :=
  .trap { code := fltUncorr, addr := BitVec.ofNat 64 off, obj := h, frame := some (d / 1024) }

/-- R115, R117, R358: how an element that is read from a stream stops. -/
def State.readStop (s : State) (x : VEntry) (b : Binds) (bad : Option (Nat × Nat)) (c : CabEntry) (off n : Nat) : Option Stop :=
  match streamStop (c.len * c.recSize) (s.entryVa c) bad x.sB off n with
  | some y => some y
  | none => (s.runBad x b c off n).map fun d => badRead d off x.sB

/-- R114, R117: a load of elements from a run stream. A bad handle or state is the failure of the lowest active
element: it is raised when that is element 0, and truncates otherwise; with no active element neither is checked
(DESIGN CHOICE, log 75). -/
def State.loadRun (s : State) (e : VEntry) (d : Opd) (size : Nat) (act : List Bool) : R State := do
  let off := e.sA.toNat
  let first := act.findIdx? id
  s.streamAlign e size (if first = some 0 then first else none) false
  match s.streamRun e, first with
  | _, none => s.finishLoad e d size e.vl true (List.replicate e.vl none)
  | .error x, some 0 => .error (x.atElem 0)
  | .error _, some f => s.finishLoad e d size f true (List.replicate f none)
  | .ok (idx, c, _), some _ => do
    let lim := c.len * c.recSize
    let b := s.bindRun e c (activePages (s.entryVa c + off) size (lim - off) act) false
    let s1 := b.2.2
    let f ← settleLoad true e.vl (firstStop act fun i => s1.readStop e b.1 b.2.1 c (off + i * size) size)
    s1.vecRoom e [(s1.runTarget idx, off, off + f * size, false)]
    let s2 ← s1.touch (s1.runTarget idx) off (off + f * size) false
    let xs := elemsOf size f (s2.runBytes e b.1 c off (f * size))
    s2.finishLoad e d size f true ((List.range f).map fun i => if act.getD i false then some (xs.getD i 0) else none)

/-- R104, R114, R115, R130: a store of elements to a run stream, all checked first. The handle, the alignment and
the state are checked whatever is active. -/
def State.storeStream (s : State) (e : VEntry) (d : Opd) (size : Nat) (act : List Bool) : R State := do
  let off := e.sA.toNat
  let first := act.findIdx? id
  s.streamAlign e size first true
  match s.streamRun e with
  | .error x => .error (match first with | some i => x.atElem i | none => x)
  | .ok (idx, c, _) => do
    let lim := c.cap * c.recSize
    let b := s.bindRun e c (activePages (s.entryVa c + off) size (lim - off) act) true
    match firstStop act fun i => streamStop lim (s.entryVa c) b.2.1 e.sB (off + i * size) size with
    | some (i, x) => .error (x.atElem i)
    | none => .ok ()
    let s1 := b.2.2
    let xs ← s1.readElems e d size e.vl 0 act
    let cells := cellsOf size act xs fun i => off + i * size
    let h := hull size (cells.map Prod.fst)
    if cells.isEmpty then .ok (s1.popRings e)
    else do
      s1.vecRoom e [(s1.runTarget idx, h.1, h.2, true)]
      let s2 ← s1.touch (s1.runTarget idx) h.1 h.2 true
      .ok ((s2.storeRun e b.1 idx c cells).popRings e)

/-! ## vld, vst, vldff -/

/-- R114: s0 in b names the scratchpad. -/
def toSpad (b : Opd) : Bool := b == .s 0

/-- VLD (R115): from the scratchpad, or first-fault from a run stream. -/
def effVld (d b : Opd) (m : Bool) (t : ElemTy) (e : VEntry) (s : State) : R State := do
  let act ← s.maskBits e m
  if toSpad b then s.loadSpad e d (elSize t) false act else s.loadRun e d (elSize t) act
/-- VLD (R115). -/
def execVld (d a b : Opd) (m : Bool) (t : ElemTy) (s : State) : Host.Outcome State Fault Refusal :=
  issueV s (.ins (.vld d a b m t)) { dst := some d, sA := some a, sB := some b, size := elSize t } (.ok ()) noChkM
    (effVld d b m t)
where
  /-- The checks of a load are made at its elements. -/
  noChkM (_ : State) (_ : VEntry) : R Unit := .ok ()

/-- VST (R115): d is the data source. -/
def effVst (d b : Opd) (m : Bool) (t : ElemTy) (e : VEntry) (s : State) : R State := do
  let act ← s.maskBits e m
  if toSpad b then do
    let a := e.sA.toNat
    if a / 2 ^ 22 ≠ 0 then fltAt fltOperand e.sA 0
    if a % elSize t ≠ 0 then misaligned false e.sA act fun i => beyondSpad (unitAddr a (elSize t) i) (elSize t)
    s.storeAt e d (elSize t) act (unitAddr a (elSize t))
  else s.storeStream e d (elSize t) act
/-- VST (R115). -/
def execVst (d a b : Opd) (m : Bool) (t : ElemTy) (s : State) : Host.Outcome State Fault Refusal :=
  issueV s (.ins (.vst d a b m t)) { srcs := [d], sA := some a, sB := some b, size := elSize t } (.ok ())
    (fun _ _ => .ok ()) (effVst d b m t)

/-- VLDFF (R117). -/
def effVldff (d b : Opd) (m : Bool) (t : ElemTy) (e : VEntry) (s : State) : R State := do
  let act ← s.maskBits e m
  if toSpad b then s.loadSpad e d (elSize t) true act else s.loadRun e d (elSize t) act
/-- VLDFF (R117). -/
def execVldff (d a b : Opd) (m : Bool) (t : ElemTy) (s : State) : Host.Outcome State Fault Refusal :=
  issueV s (.ins (.vldff d a b m t)) { dst := some d, sA := some a, sB := some b, size := elSize t } (.ok ())
    (fun _ _ => .ok ()) (effVldff d b m t)

/-! ## Strided access -/

/-- R116: element `i` lies at a + i × stride, modulo 2^64. -/
def strideAddr (e : VEntry) (i : Nat) : Nat := (e.sA + BitVec.ofInt 64 (i * e.sB.toInt)).toNat

/-- R114, R116, R119: an element address outside the 4 MiB of a scratchpad address, or one of the stops of a
scratchpad element. -/
def State.farStop (s : State) (bufs : List Buf) (align : Bool) (a n : Nat) (write : Bool) : Option Stop :=
  if a / 2 ^ 22 ≠ 0 then some (trapAt fltOperand a 0 0)
  else if align && a % n ≠ 0 then some (trapAt fltAlign a 0 0)
  else s.spadStop bufs a n write

/-- R64, R116: the pointer and stride of a strided access, whatever is active. Limits of an address rank first, then
the alignment of the stride, the range of the elements and the alignment of the pointer. -/
def State.strideChk (s : State) (e : VEntry) (size : Nat) (act : List Bool) (write : Bool) : R Unit := do
  let far (i : Nat) : Option Stop :=
    if strideAddr e i / 2 ^ 22 ≠ 0 then s.farStop e.bufs false (strideAddr e i) size write else none
  if e.sA.toNat / 2 ^ 22 ≠ 0 then fltAt fltOperand e.sA 0
  if e.sB.toInt % size ≠ 0 then misaligned false e.sA act far
  if e.sA.toNat % size ≠ 0 then
    misaligned false e.sA act fun i => (far i).or (beyondSpad (strideAddr e i) size)

/-- VLDS (R116). -/
def effVlds (d : Opd) (m : Bool) (t : ElemTy) (e : VEntry) (s : State) : R State := do
  let act ← s.maskBits e m
  let n := elSize t
  s.strideChk e n act false
  match firstStop act fun i => s.farStop e.bufs false (strideAddr e i) n false with
  | some (i, x) => .error (x.atElem i)
  | none => .ok ()
  let as := (List.range e.vl).filterMap fun i => if act.getD i false then some (strideAddr e i) else none
  if as.isEmpty then .ok (s.writeElems d n (List.replicate e.vl none))
  else do
    let h := hull n as
    let tg := IlTarget.spad s.crew.coreIx
    s.vecRoom e [(tg, h.1, h.2, false)]
    let s1 ← s.touch tg h.1 h.2 false
    let val (i : Nat) : Nat := leNat (s1.spadRead (strideAddr e i) n)
    .ok (s1.writeElems d n ((List.range e.vl).map fun i => if act.getD i false then some (val i) else none))
/-- VLDS (R116). -/
def execVlds (d a b : Opd) (m : Bool) (t : ElemTy) (s : State) : Host.Outcome State Fault Refusal :=
  issueV s (.ins (.vlds d a b m t)) { dst := some d, sA := some a, sB := some b, size := elSize t } (.ok ())
    (fun _ _ => .ok ()) (effVlds d m t)

/-- VSTS (R116): with stride 0 the highest active element leaves the value. -/
def effVsts (d : Opd) (m : Bool) (t : ElemTy) (e : VEntry) (s : State) : R State := do
  let act ← s.maskBits e m
  s.strideChk e (elSize t) act true
  match firstStop act fun i => s.farStop e.bufs false (strideAddr e i) (elSize t) true with
  | some (i, x) => .error (x.atElem i)
  | none => .ok ()
  s.storeAt e d (elSize t) act (strideAddr e)
/-- VSTS (R116). -/
def execVsts (d a b : Opd) (m : Bool) (t : ElemTy) (s : State) : Host.Outcome State Fault Refusal :=
  issueV s (.ins (.vsts d a b m t)) { srcs := [d], sA := some a, sB := some b, size := elSize t } (.ok ())
    (fun _ _ => .ok ()) (effVsts d m t)

/-! ## Gather and scatter -/

/-- R119: the address of an element: a plus its b32 offset, modulo 2^64 (DESIGN CHOICE, log 75). -/
def gatherAddr (e : VEntry) (offs : List Nat) (i : Nat) : Nat := (e.sA + BitVec.ofNat 64 (offs.getD i 0)).toNat

/-- R119: vl is limited to MVL. -/
def gatherChk (s : State) (e : VEntry) : R Unit := need (decide (e.vl ≤ s.mvl)) fltOperand

/-- R119, R320: the active elements that the completion mask has not recorded. -/
def State.todo (s : State) (act : List Bool) : List Bool :=
  (List.range act.length).map fun i => act.getD i false && !s.thr.cmask.getLsbD i

/-- R119, R320: the elements that have performed when a gather or scatter stops at a fault: a free choice
among those that do not fault, and of elements at one address none before a lower one (log 18). -/
def State.freeDone (s : State) (todo : List Bool) (at_ : Nat → Nat) (ok : Nat → Bool) : List Bool :=
  let pick := Config.gatherDone s.draw
  let chosen (i : Nat) : Bool := todo.getD i false && pick.getLsbD i && ok i
  (List.range todo.length).map fun i => chosen i &&
    (List.range i).all fun j => !(todo.getD j false) || at_ j != at_ i || chosen j

/-- The completion mask with further elements. -/
def cmaskAdd (c : BitVec 32768) (done : List Bool) : BitVec 32768 :=
  (List.range done.length).foldl (fun m i => if done.getD i false then m ||| BitVec.ofNat 32768 (2 ^ i) else m) c

/-- The completion mask is cleared when the instruction completes. -/
def State.uncover (s : State) : State := s.modThr fun t => { t with cmask := 0, cover := false }

/-- R119: a gather or scatter as it stands: its active elements that have not performed, their addresses and size,
whether it writes the scratchpad, the buffers it found (R215), how the elements that a list selects move, and
whether a part of them may perform before a stop (DEDUCED, log 18: not where the part would change an offset or mask
bit that the rest still needs, nor into a ring). -/
structure Gather where
  todo : List Bool
  at_ : Nat → Nat
  size : Nat
  write : Bool
  bufs : List Buf
  part : Bool
  move : List Bool → State → State

/-- How an element of a gather or scatter stops. -/
def Gather.stop (g : Gather) (s : State) (i : Nat) : Option Stop := s.farStop g.bufs true (g.at_ i) g.size g.write

/-- R256: the range that a gather or scatter enters: the hull of the addresses it still has to reach. -/
def Gather.range (g : Gather) (s : State) : IlTarget × Nat × Nat × Bool :=
  let h := hull g.size ((List.range g.todo.length).filterMap fun i => if g.todo.getD i false then some (g.at_ i) else none)
  (.spad s.crew.coreIx, h.1, h.2, g.write)

/-- R119, R320: some elements that do not stop perform, which being free (log 18), and the completion mask records
them. -/
def State.performPart (s : State) (g : Gather) : State :=
  let done := s.freeDone g.todo g.at_ fun j => (g.stop s j).isNone
  (g.move done { s with draw := s.draw + 1 }).modThr fun t => { t with cmask := cmaskAdd t.cmask done }

/-- R119, R256: a gather or scatter completes, or stops at its lowest failing element. The first such stop of a thread
at this instruction enters the interlock table and records what has performed; then the fault is raised. -/
def State.scattered (s : State) (e : VEntry) (g : Gather) : R State := do
  match firstStop g.todo (g.stop s) with
  | none =>
    if !g.todo.any id then .ok (g.move g.todo s).uncover
    else do
      s.vecRoom e [g.range s]
      let r := g.range s
      let s1 ← s.touch r.1 r.2.1 r.2.2.1 g.write
      .ok (g.move g.todo s1).uncover
  | some (i, x) =>
    match x with
    | .trap _ =>
      if s.thr.cover || s.crew.speculating || !g.part then .error (x.atElem i)
      else do
        s.vecRoom e [g.range s]
        .ok ((s.performPart g).modThr fun t => { t with cover := true })
    | _ => .error (x.atElem i)

/-- VGATHS (R119): all offsets are read before any element is written. -/
def gatherOf (d b : Opd) (m : Bool) (t : ElemTy) (e : VEntry) (s : State) : R Gather := do
  let act ← s.maskBits e m
  let n := elSize t
  let offs ← s.readElems e b 4 e.vl 0 act
  let at_ := gatherAddr e offs
  let move (sel : List Bool) (s1 : State) : State :=
    let vals := (List.range e.vl).map fun i => if sel.getD i false then some (leNat (s1.spadRead (at_ i) n)) else none
    match d with
    | .v r => s1.putVec r.val n vals
    | .ring k => s1.putRing k n vals
    | .s _ => s1
  .ok { todo := s.todo act, at_ := at_, size := n, write := false, bufs := e.bufs, move := move
        part := s.vregOk d && !(m && d == .v 0) && (d != b || n == 4) }

/-- VGATHS (R119): SCALE_LEN changes as it completes (R49). -/
def effVgaths (d b : Opd) (m : Bool) (t : ElemTy) (e : VEntry) (s : State) : R State := do
  let g ← gatherOf d b m t e s
  let s1 ← s.scattered e g
  .ok (match d with
    | .v r => if s1.thr.cover then s1 else s1.setScale r.val e.vl (elSize t)
    | _ => s1)
/-- VGATHS (R119): the offsets stand in a vector register; a ring there is illegal (DESIGN CHOICE, log 75). -/
def execVgaths (d a b : Opd) (m : Bool) (t : ElemTy) (s : State) : Host.Outcome State Fault Refusal :=
  issueV s (.ins (.vgaths d a b m t)) { dst := some d, vdst := [b], sA := some a, size := elSize t } (.ok ())
    gatherChk (effVgaths d b m t)

/-- VSCATS (R119): the highest active element of an address leaves the value. -/
def scatterOf (d b : Opd) (m : Bool) (t : ElemTy) (e : VEntry) (s : State) : R Gather := do
  let act ← s.maskBits e m
  let n := elSize t
  let offs ← s.readElems e b 4 e.vl 0 act
  let xs ← s.readElems e d n e.vl 0 act
  let at_ := gatherAddr e offs
  .ok { todo := s.todo act, at_ := at_, size := n, write := true, bufs := e.bufs, part := true
        move := fun sel s1 => s1.storeSpad e (cellsOf n sel xs at_) }

/-- VSCATS (R119). -/
def effVscats (d b : Opd) (m : Bool) (t : ElemTy) (e : VEntry) (s : State) : R State := do
  let g ← scatterOf d b m t e s
  let s1 ← s.scattered e g
  .ok (if s1.thr.cover then s1 else s1.popRings e)
/-- VSCATS (R119). A ring of offsets is illegal (DESIGN CHOICE, log 75). -/
def execVscats (d a b : Opd) (m : Bool) (t : ElemTy) (s : State) : Host.Outcome State Fault Refusal :=
  issueV s (.ins (.vscats d a b m t)) { srcs := [d], vdst := [b], sA := some a, size := elSize t } (.ok ())
    gatherChk (effVscats d b m t)

/-! ## Gather windows (R120) -/

/-- R120: a declared buffer that the window would overlap. -/
def State.windowBuf (s : State) (a n : Nat) : Option Buf :=
  s.bufs.find? fun b => b.core == s.crew.coreIx && b.ctx == s.crew.ctx && decide (a < b.base + b.size) &&
    decide (b.base < a + n)

/-- R120: the window's operands. -/
def windowChk (_ : State) (e : VEntry) : R Unit := do
  if e.sD.toNat / 2 ^ 22 ≠ 0 then fltAt fltOperand e.sD 0

/-- R64, R120: the probe pass: every failure is found before a byte is written. A window of no bytes has its
alignment, handle and state checked and no range (DESIGN CHOICE, log 75). -/
def State.probe (s : State) (e : VEntry) : R (Nat × CabEntry × Binds × State) := do
  if e.sD.toNat % 256 ≠ 0 then fltAt fltAlign e.sD 0
  if e.sA.toNat % 256 ≠ 0 then fltAt fltAlign e.sA e.sB
  let (idx, c, _) ← s.streamEntry e
  if e.vl ≠ 0 ∧ Config.spadBytes < e.sD.toNat + e.vl then fltAt fltSpadRange e.sD 0
  needObj e.runBad.isNone fltRunState e.sB
  if e.vl = 0 then .ok (idx, c, [], s)
  else do
    match s.windowBuf e.sD.toNat e.vl with
    | some b => bufFault (some b) b.id e.sD
    | none => .ok ()
    if c.len * c.recSize < e.sA.toNat + e.vl then fltAt fltRunBounds e.sA e.sB
    let b := s.bindRun e c (pagesOf (s.entryVa c + e.sA.toNat) e.vl) false
    match b.2.1 with
    | some (p, r) => .error (pageStop r (Nat.max (p * 65536) (s.entryVa c + e.sA.toNat)) e.sB)
    | none =>
      match b.2.2.runBad e b.1 c e.sA.toNat e.vl with
      | some d => .error (badRead d e.sA.toNat e.sB)
      | none => .ok (idx, c, b.1, b.2.2)

/-- R349: the lowest byte of a window that a watchpoint covers. -/
def State.windowWatch (s : State) (e : VEntry) : Option Nat :=
  (List.range e.vl).find? fun i => s.watched false true (e.sD.toNat + i) 1

/-- WBIND (R120): the copy pass follows the probe pass. -/
def effWbind (e : VEntry) (s : State) : R State := do
  let (idx, c, b, s1) ← s.probe e
  if e.vl = 0 then .ok s
  else do
    match s1.windowWatch e with
    | some i => .error (.watch (some i))
    | none => .ok ()
    let src := (s1.runTarget idx, e.sA.toNat, e.sA.toNat + e.vl, false)
    let dst := (IlTarget.spad s1.crew.coreIx, e.sD.toNat, e.sD.toNat + e.vl, true)
    s1.vecRoom e [src, dst]
    let s2 ← s1.touch src.1 src.2.1 src.2.2.1 false
    let s3 ← s2.touch dst.1 dst.2.1 dst.2.2.1 true
    .ok (s3.storeSpad e [(e.sD.toNat, s3.runBytes e b c e.sA.toNat e.vl)])
/-- WBIND (R120). -/
def execWbind (d a b : Opd) (s : State) : Host.Outcome State Fault Refusal :=
  issueV s (.ins (.wbind d a b)) { sD := some d, sA := some a, sB := some b, size := 1 } (.ok ()) windowChk
    effWbind

end Sys2Proof.Machine
end

