-- ==== Sys2Proof/Machine/Queues.lean ====
section
/-! DEFINITION. The Bureau: queue handles, segments and spill runs, the queue instructions, arriving pushes,
queue misses, and the Settles with their firing (R161-R177, R309). -/

namespace Sys2Proof.Machine

/-! ## Bureau entries -/

/-- R162: bytes of a queue record. -/
def BEntry.recSize (b : BEntry) : Nat := 8 * 2 ^ b.rsz.toNat

/-- R161: the queue a handle names. -/
def State.queueOf (s : State) (h : Word) : R (Nat × BEntry) :=
  let idx := h.toNat % 65536
  let gen := BitVec.ofNat 16 (h.toNat / 65536)
  if h.toNat / 2 ^ 32 ≠ 0 ∨ idx = 0 then fltAt fltQueueHandle 0 h
  else
    match s.ctxOf s.crew.ctx with
    | none => fltAt fltQueueHandle 0 h
    | some c =>
      match kvGet c.bureau idx with
      | none => fltAt fltQueueHandle 0 h
      | some b => if b.live && b.gen == gen then .ok (idx, b) else fltAt fltQueueHandle 0 h

/-- R164: a queue is reached only from its home die; a bound launch queue has none (DEDUCED, log 36). -/
def State.queueHere (s : State) (h : Word) (b : BEntry) : R Unit :=
  needObj (b.launchQ.isSome || b.die == s.crew.die) fltOperand h

/-- R163: the segment of a queue is there. -/
def resident (idx : Nat) (b : BEntry) : R Unit := await (b.inSram || b.launchQ.isSome) (.queueMiss idx)

/-! ## Records, space and spill (R165-R167) -/

/-- Every record a queue holds, claimed ones first. -/
def BEntry.all (b : BEntry) : List QRec := (b.claims.map Claim.recs).flatten ++ b.recs

/-- R162: the records a segment holds. -/
def BEntry.segCap (b : BEntry) : Nat := b.quota.toNat * 1024 / b.recSize

/-- Records in the segment. -/
def BEntry.inSeg (b : BEntry) : Nat := b.all.countP fun r => !r.spilled

/-- Records in the spill run. -/
def BEntry.inSpill (b : BEntry) : Nat := b.all.countP fun r => r.spilled

/-- R166: the capacity of a queue's spill run. -/
def State.spillCap (s : State) (ctx : BitVec 16) (b : BEntry) : Nat :=
  match b.spill with
  | none => 0
  | some i => match s.globalRun ctx i with | some (e, _) => e.cap | none => 0

/-- R167: how many records a queue can still accept; those on their way count. -/
def State.queueRoom (s : State) (q : QRef) (b : BEntry) : Nat :=
  (b.segCap - b.inSeg) + (s.spillCap q.ctx b - b.inSpill) - ((s.pushesTo q).map fun p => p.recs.length).sum

/-- R166, R312: the spill run holds the spilled records, oldest first from its first byte (DEDUCED, log 35), under the
key of its context. -/
def State.syncSpill (s : State) (q : QRef) : State :=
  match s.queueAt q with
  | none => s
  | some b =>
    match b.spill with
    | none => s
    | some i =>
      match s.globalRun q.ctx i with
      | none => s
      | some (e, _) =>
        let l := (b.all.filter QRec.spilled).map QRec.data
        let s1 := s.setEntry q.ctx i { e with len := l.length, sort := .unsorted }
        match e.ext with
        | none => s1
        | some x => { s1 with exts := s1.exts.map fun (y : Extent) =>
            if y.id = x then s1.extWritten (s1.ownerOf q.ctx) y 0 l.flatten else y }

/-- R166, R358: the bad sub-beat that `n` spilled records of a queue meet in its spill run, from the `k`th of all. -/
def State.spillBad (s : State) (q : QRef) (b : BEntry) (k n : Nat) : Option Nat :=
  if n = 0 then none
  else
    match b.spill.bind (s.globalRun q.ctx) with
    | some (e, _) => s.extBad e.ext (k * b.recSize) (n * b.recSize)
    | none => none

/-- R173: the age limit and class promotion of an armed Settle at a cycle. -/
def BEntry.refresh (b : BEntry) (clk : Nat) : BEntry :=
  match b.arm, b.recs with
  | some a, r :: _ =>
    { b with eligible := decide (r.arrival + a.age.toNat ≤ clk), promoted := decide (r.arrival + 2 * a.age.toNat ≤ clk) }
  | _, _ => { b with eligible := false, promoted := false }

/-- R173, R339: a Settle has been judged: event 324 counts its promotion to class 0. -/
def State.countPromotion (s : State) (old new : BEntry) : State :=
  if new.promoted && !old.promoted then s.countDie new.die 324 else s

/-- R173: judge a Settle again at the present cycle. -/
def State.judge (s : State) (q : QRef) (b : BEntry) : State :=
  (s.modQueue q.ctx q.idx fun x => x.refresh s.clk).countPromotion b (b.refresh s.clk)

/-- R173: every armed Settle is judged. -/
def State.judgeAll (s : State) : State :=
  s.segments.foldl (fun s' q => if q.2.arm.isSome then s'.judge q.1 q.2 else s') s

/-- Change a queue, judge its Settle again and bring its spill run up to date. -/
def State.updQueue (s : State) (q : QRef) (f : BEntry → BEntry) : State :=
  let s1 := s.modQueue q.ctx q.idx f
  (match s1.queueAt q with
   | some b => s1.judge q b
   | none => s1).syncSpill q

/-! ## qopen, qdone, qstat -/

/-- R162: the reserved bits of a descriptor. -/
def qdescReserved (w : Word) : Bool :=
  w.extractLsb' 40 24 == 0 && w.extractLsb' 29 3 == 0 && w.extractLsb' 4 17 == 0

/-- R162: the kind of a code. -/
def qkindOf (k : BitVec 2) : QKind :=
  match k.toNat with
  | 0 => .launch | 1 => .task | 2 => .expert | _ => .stream

/-- R162: the code of a kind. -/
def QKind.code : QKind → Nat
  | .launch => 0 | .task => 1 | .expert => 2 | .stream => 3

/-- R161, R169: the lowest free index of a context's Bureau. -/
def State.freeQueueIndex (s : State) (ctx : BitVec 16) : Option Nat :=
  match s.ctxOf ctx with
  | none => none
  | some c => lowestFree ((c.bureau.filter fun p => p.2.live).map Prod.fst) 1 65535

/-- The generation a Bureau index holds. -/
def State.queueGen (s : State) (ctx : BitVec 16) (idx : Nat) : BitVec 16 :=
  match s.queueAt { ctx := ctx, idx := idx } with
  | some b => b.gen
  | none => 0

/-- R162, R169: the entry a descriptor creates; the enqueue sequence of a TASK queue starts at 0 (DESIGN CHOICE, log
34). -/
def entryOfDesc (w : Word) (gen : BitVec 16) (spill : Option Nat) : BEntry :=
  { live := true, gen := gen, kind := qkindOf (w.extractLsb' 0 2), rsz := w.extractLsb' 2 2, res := w.getLsbD 21
    home := w.extractLsb' 22 5, die := w.extractLsb' 27 2, quota := w.extractLsb' 32 8, inSram := false
    spill := spill, closed := false, recs := [], arm := none, eligible := false, promoted := false, claims := []
    fired := 0, seq := 0, touched := 0, launchQ := none }

/-- R166, R169: the spill run of a new queue. -/
def State.spillRun (s : State) (b : Opd) (h : Word) (k : QKind) (rsz : BitVec 2) : R (Option Nat) :=
  if b = .s 0 then .ok none
  else do
    let (i, e, _) ← s.handle h
    needObj (e.mayWrite s.owner) fltRunState h
    need (k == .expert || k == .stream) fltQueueKind
    needObj (e.rsz == rsz) fltRunFormat h
    .ok (some i)

/-- Set a Bureau entry. -/
def State.setQueue (s : State) (ctx : BitVec 16) (idx : Nat) (b : BEntry) : State :=
  s.modCtx ctx fun c => { c with bureau := kvSet c.bureau idx b }

/-- R166: a new queue takes its spill run: the run is the queue's, and empty. A run that only the view of the
crew's speculative task holds is marked there (R131). -/
def State.takeSpill (s : State) (q : QRef) (r : Nat) : State :=
  let s1 := match s.globalRun q.ctx r with
    | some (e, _) => s.setEntry q.ctx r (e.edited (.spill q.idx))
    | none => s
  if s.crew.speculating then
    (match s.runOf s.crew r with
     | some (e, _) => s1.journal (.edit r e.gen (.spill q.idx))
     | none => s1)
  else s1

/-- QOPEN (R169). -/
def execQopen (d a b : Opd) (s : State) : Host.Outcome State Fault Refusal :=
  finish s do
    let w ← s.rd a
    let h ← s.rd b
    let k := qkindOf (w.extractLsb' 0 2)
    if k == .launch then need s.crew.priv fltPriv
    need (qdescReserved w && w.extractLsb' 32 8 != 0) fltOperand
    need (!(k == .expert && w.extractLsb' 2 2 != 1) && !(k == .task && w.extractLsb' 2 2 != 3)) fltOperand
    need (w.extractLsb' 27 2 == s.crew.die) fltOperand
    let sp ← s.spillRun b h k (w.extractLsb' 2 2)
    s.wrOk d
    s.drained
    match s.freeQueueIndex s.crew.ctx with
    | none => flt fltQueueTable
    | some i => do
      let e := entryOfDesc w (nextGen (s.queueGen s.crew.ctx i)) sp
      let q : QRef := { ctx := s.crew.ctx, idx := i }
      let s1 ←
        if e.res then do
          need (decide (s.sramUsed e.die e.home (fun x => x.2.pinned) + e.quota.toNat ≤ Config.queueSramKiB)) fltQueueSpace
          match (s.setQueue q.ctx i e).swapIn q e with
          | some s' => .ok s'
          | none => stall (.queueMiss i)
        else do
          need (decide (e.quota.toNat * 1024 ≤ s.poolLeft s.crew.ctx)) fltQueueSpace
          .ok (s.setQueue q.ctx i e)
      let s2 := match sp with
        | some r => s1.takeSpill q r
        | none => s1
      .ok (s2.put d (handleWord e.gen i)).adv

/-- R37, R180: a queue access of a speculative task. -/
def State.queueAccess (s : State) (h : Word) (idx : Nat) (b : BEntry) : R Unit := do
  s.queueHere h b
  s.oldestOnly
  resident idx b

/-- QDONE (R171). -/
def execQdone (a : Opd) (s : State) : Host.Outcome State Fault Refusal :=
  finish s do
    let h ← s.rd a
    let (i, b) ← s.queueOf h
    s.queueHere h b
    s.oldestOnly
    s.drained
    .ok ((s.updQueue { ctx := s.crew.ctx, idx := i } fun x => { x with closed := true }).freeQueues).adv

/-- R177: the status word of a queue; COUNT of a TASK queue is of the tasks that have not started (DEDUCED, log 34). -/
def State.queueStatus (s : State) (q : QRef) (b : BEntry) : Word :=
  let bit (x : Bool) (k : Nat) : Nat := if x then 2 ^ k else 0
  let count := match b.launchQ with
    | some q => (match s.queues.find? fun l => l.q == q with | some l => (l.tail - l.head).toNat | none => 0)
    | none =>
      if b.kind == .task then s.tasks.countP fun t => t.ctx == q.ctx && t.qno == q.idx && t.st == .waiting
      else b.recs.length
  BitVec.ofNat 64 (bit b.closed 55 + bit b.arm.isSome 54 + bit (b.all.any QRec.spilled) 53 +
    Nat.min b.claims.length 8191 * 2 ^ 40 + count % 2 ^ 40)

/-- R162, R177: the descriptor word, with residence now in bit 21. -/
def BEntry.desc (b : BEntry) : Word :=
  BitVec.ofNat 64 (b.quota.toNat * 2 ^ 32 + b.die.toNat * 2 ^ 27 + b.home.toNat * 2 ^ 22 +
    (if b.inSram then 2 ^ 21 else 0) + b.rsz.toNat * 2 ^ 2 + b.kind.code)

/-- QSTAT (R177). -/
def execQstat (d a : Opd) (s : State) : Host.Outcome State Fault Refusal :=
  finish s do
    let _ ← opdPlus d 1
    let h ← s.rd a
    let (i, b) ← s.queueOf h
    s.queueHere h b
    resident i b
    let s1 := s.modQueue s.crew.ctx i fun x => { x with touched := s.clk }
    let s2 ← s1.putBlock d 0 [s.queueStatus { ctx := s.crew.ctx, idx := i } b, b.desc]
    .ok s2.adv

/-! ## qpush and qtake -/

/-- R168: the records fit a register. -/
def State.recordsFit (s : State) (e : VEntry) (b : BEntry) : R Unit :=
  need (decide (e.vl * b.recSize ≤ s.mvl * 4)) fltOperand

/-- R170, R180: the checks of a qpush. -/
def qpushChk (s : State) (e : VEntry) : R Unit := do
  let (i, b) ← s.queueOf e.sA
  needObj (b.kind == .expert || b.kind == .stream) fltQueueKind e.sA
  needObj (!b.closed) fltQueueState e.sA
  s.queueHere e.sA b
  s.recordsFit e b
  s.queueAccess e.sA i b

/-- R165, R167, R170: a qpush commits: as many records as the queue can accept leave for its home core. -/
def effQpush (d _a : Opd) (e : VEntry) (s : State) : R State := do
  let (i, b) ← s.queueOf e.sA
  resident i b
  let q : QRef := { ctx := s.crew.ctx, idx := i }
  let act := List.replicate e.vl true
  let xs ← s.readElems e d b.recSize e.vl 0 act
  let f := Nat.min e.vl (s.queueRoom q b)
  if e.vl = 0 then .ok s
  else do
    needObj (decide (0 < f)) fltQueueSpill e.sA
    let s1 ← s.truncPoint e.seq (if f < e.vl then some f else none)
    let s2 := s1.popRings e
    let s3 := if f < e.vl then (s2.truncate e f).countAs e 201 f else s2
    let p : Push :=
      { id := s3.fresh, q := q, recs := (xs.take f).map (leBytes b.recSize), origin := s3.crew.ts
        thread := s3.crew.id * 4 + s3.thr.idx, slot := threadSlot s3.crew s3.thr, ordinal := s3.thr.pushes }
    .ok (({ s3 with fresh := s3.fresh + 1, pushes := s3.pushes ++ [p] }.modThr fun t =>
      { t with pushes := t.pushes + 1 }).modQueue q.ctx q.idx fun x => { x with touched := s3.clk })

/-- QPUSH (R170). -/
def execQpush (d a : Opd) (s : State) : Host.Outcome State Fault Refusal :=
  issueV s (.qpush d a) { srcs := [d], sA := some a } (.ok ()) qpushChk (effQpush d a)

/-- R175: the firing whose claim the crew's task reads, when a queue is the one that fired it. -/
def State.ownClaim (s : State) (idx : Nat) : Option Nat :=
  match s.crew.spec with
  | none => none
  | some sp =>
    match s.tasks.find? fun t => t.id == sp.task with
    | some t => if t.ctx = s.crew.ctx ∧ t.qno = idx then t.claim else none
    | none => none

/-- R170, R171: whether a thread's qtake has been waiting for a queue that has since closed empty and been freed: the
close has ended its wait. -/
def State.waitClosed (s : State) (was : Life) (h : Word) : Bool :=
  was == .stalled (.queue (h.toNat % 65536)) && !(s.queueOf h).isOk

/-- R170, R180: the checks of a qtake, which waits for a record or the close unless it reads its own claim; a fired task
reads its claim whether its Settle is still armed or not (DEDUCED, log 51). -/
def qtakeChk (was : Life) (s : State) (e : VEntry) : R Unit := do
  if s.waitClosed was e.sA then .ok ()
  else do
  let (i, b) ← s.queueOf e.sA
  let own := s.ownClaim i
  needObj (b.kind == .stream || (b.kind == .expert && (b.arm.isNone || own.isSome))) fltQueueKind e.sA
  s.queueHere e.sA b
  s.recordsFit e b
  if own.isNone then do
    if b.kind == .stream then s.oldestOnly
    resident i b
    await (!b.recs.isEmpty || b.closed) (.queue i)
  else .ok ()

/-- R170, R175: the records a qtake takes, and the state without them. -/
def State.takeRecs (s : State) (q : QRef) (b : BEntry) (own : Option Nat) (n : Nat) : List (List Byte) × State :=
  match own with
  | some fire =>
    match b.claims.find? fun c => c.fire == fire with
    | none => ([], s)
    | some c =>
      (((c.recs.drop c.pos).take n).map QRec.data,
       s.updQueue q fun x => { x with claims := x.claims.map fun y =>
         if y.fire = fire then { y with pos := Nat.min (y.pos + n) y.recs.length } else y })
  | none => ((b.recs.take n).map QRec.data, s.updQueue q fun x => { x with recs := x.recs.drop n, touched := s.clk })

/-- R170, R358: the bad sub-beat that the records a qtake takes from the spill run meet. -/
def State.takeBad (s : State) (q : QRef) (b : BEntry) (own : Option Nat) (n : Nat) : Option Nat :=
  let before := b.claims.takeWhile fun c => own != some c.fire
  let k := (before.map Claim.recs).flatten.countP QRec.spilled
  match own with
  | some fire =>
    (b.claims.find? fun c => c.fire == fire).bind fun c =>
      s.spillBad q b (k + (c.recs.take c.pos).countP QRec.spilled) (((c.recs.drop c.pos).take n).countP QRec.spilled)
  | none => s.spillBad q b k ((b.recs.take n).countP QRec.spilled)

/-- R49, R104, R170: whole records written to a destination; v1 is described in bytes. -/
def State.putRecs (s : State) (d : Opd) (rsz : Nat) (rs : List (List Byte)) : State :=
  match d with
  | .ring k => s.putRing k rsz (rs.map fun r => some (leNat r))
  | _ => s.writeElems d 1 (rs.flatten.map fun x => some x.toNat)

/-- R30, R49, R170: a qtake writes the records it has taken; none leave SCALE_LEN 0 where it names v1 (log 53). -/
def State.taken (s : State) (d : Opd) (e : VEntry) (rsz : Nat) (rs : List (List Byte)) : R State := do
  let f := rs.length
  let s1 ← s.truncPoint e.seq (if f < e.vl then some f else none)
  let s2 := if f = 0 then (match d with | .v n => s1.setScale n.val 0 1 | _ => s1) else s1.putRecs d rsz rs
  .ok (if f < e.vl then s2.truncate e f else s2)

/-- QTAKE (R170): a queue that closed empty and has been freed since it issued gives no record (R171). -/
def effQtake (d _a : Opd) (e : VEntry) (s : State) : R State := do
  match s.queueOf e.sA with
  | .error _ => s.taken d e 8 []
  | .ok (i, b) => do
    let own := s.ownClaim i
    if own.isNone then await (!b.recs.isEmpty || b.closed) (.queue i)
    if let some x := s.takeBad { ctx := s.crew.ctx, idx := i } b own e.vl then
      .error (.trap { code := fltUncorr, obj := e.sA, frame := some (x / 1024) })
    let r := s.takeRecs { ctx := s.crew.ctx, idx := i } b own e.vl
    let s1 ← r.2.taken d e b.recSize r.1
    .ok s1.freeQueues

/-- QTAKE (R170). -/
def execQtake (d a : Opd) (s : State) : Host.Outcome State Fault Refusal :=
  issueV (s.modThr fun t => { t with life := .run }) (.qtake d a) { dst := some d, sA := some a } (.ok ())
    (qtakeChk s.thr.life) (effQtake d a)

/-! ## qarm -/

/-- R172: armed Settles of a die. -/
def State.armedOn (s : State) (die : BitVec 2) : Nat := s.segments.countP fun q => q.2.die == die && q.2.arm.isSome

/-- R297: an entry address whose code object the J9 accepts. -/
def State.entryOk (s : State) (entry : Word) : Bool :=
  entry.toNat % 4 == 0 && (match s.codeObj s.crew.ctx entry with | .good _ => true | _ => false)

/-- R358: a code object whose header is uncorrectable raises FLT_UNCORR for the thread that has it read. -/
def State.entryRead (s : State) (entry : Word) : R Unit :=
  match s.codeBad s.crew.ctx entry with
  | some d => .error (.trap { code := fltUncorr, addr := entry, frame := some (d / 1024) })
  | none => .ok ()

/-- QARM (R172). R64 gives the check of the code object no place: it is made with the operands' limits, after the
handle, the kind and the home (DESIGN CHOICE, log 34). -/
def execQarm (a b : Opd) (s : State) : Host.Outcome State Fault Refusal :=
  finish s do
    let b1 ← opdPlus b 1
    let b2 ← opdPlus b 2
    let h ← s.rd a
    let ctl ← s.rd b
    let thr : BitVec 10 := ctl.extractLsb' 0 10
    let age : BitVec 32 := ctl.extractLsb' 32 32
    need (ctl.extractLsb' 16 16 == 0 && ctl.extractLsb' 10 4 == 0) fltOperand
    let q0 (i : Nat) : QRef := { ctx := s.crew.ctx, idx := i }
    if thr = 0 then do
      let (i, x) ← s.queueOf h
      needObj (x.kind == .expert) fltQueueKind h
      s.queueHere h x
      s.oldestOnly
      s.drained
      .ok (s.updQueue (q0 i) fun y => { y with arm := none }).adv
    else do
      let entry ← s.rd b1
      let arg ← s.rd b2
      need (age != 0 && entry.toNat % 4 == 0) fltOperand
      let (i, x) ← s.queueOf h
      needObj (x.kind == .expert) fltQueueKind h
      s.queueHere h x
      s.entryRead entry
      need (decide (thr.toNat ≤ x.quota.toNat) && s.entryOk entry) fltOperand
      s.oldestOnly
      s.drained
      need (x.arm.isSome || decide (s.armedOn x.die < 256)) fltQueueSpace
      need (x.pinned || decide (s.sramUsed x.die x.home (fun y => y.2.pinned) + x.quota.toNat ≤ Config.queueSramKiB)) fltQueueSpace
      let s1 ← if x.inSram then .ok s else (match s.swapIn (q0 i) x with
        | some s' => .ok s'
        | none => stall (.queueMiss i))
      let m : Arm := { age := age, cls := ctl.extractLsb' 14 2, thr := thr, entry := entry, arg := arg, ddl := s.crew.ddlInit }
      .ok (s1.updQueue (q0 i) fun y => { y with arm := some m }).adv

/-! ## Arrival, misses and refill -/

/-- R165: whether a push may reach its queue now: after the earlier pushes of its thread to that home core, with its
segment there. -/
def State.pushReady (s : State) (p : Push) (b : BEntry) : Bool :=
  !((s.pushes.takeWhile fun x => x.id != p.id).any fun x => x.thread == p.thread && (match s.queueAt x.q with
    | some y => y.die == b.die && y.home == b.home
    | none => false)) && b.inSram

/-- R165, R166: a push enters its queue. -/
def State.arrive (s : State) (p : Push) : State :=
  let s1 := { s with pushes := s.pushes.filter fun x => x.id != p.id }
  match s1.queueAt p.q with
  | none => s1
  | some b =>
    let room := b.segCap - b.inSeg
    let recs := (List.zip p.recs (List.range p.recs.length)).map fun r =>
      ({ data := r.1, arrival := s.clk, origin := p.origin, spilled := decide (room ≤ r.2) } : QRec)
    let core := b.die.toNat * 32 + b.home.toNat
    let w : Who := { ctx := p.q.ctx, core := core, slot := 0, pc := 0, elem := none }
    ((s1.updQueue p.q fun x => { x with recs := x.recs ++ recs }).countCore core 205 (recs.countP QRec.spilled) (some w)).freeQueues

/-- R351, R353: what the log says of a push under replay: it is the next one of its queue, it must wait for those
logged before it, or the log does not hold it (R354). -/
inductive LogTurn where
  | free
  | now (e : LogEntry)
  | hold
  | diverge
  deriving DecidableEq, Repr

/-- R353, R354: the turn of an event among the unused log entries of its kind: `kind` selects those that are ordered
with it and `mine` its own. -/
def State.turn (s : State) (ctx : BitVec 16) (kind mine : LogEntry → Bool) : LogTurn :=
  match s.unused ctx with
  | none => .free
  | some l =>
    match l.find? kind with
    | some e => if mine e then .now e else if l.any fun x => kind x && mine x then .hold else .diverge
    | none => .diverge

/-- R353: the turn of a push among the logged pushes of its queue. -/
def State.pushTurn (s : State) (p : Push) : LogTurn :=
  s.turn p.q.ctx (fun e => e.type == 5 && e.w0 % 65536 == p.q.idx) fun e =>
    e.w0 == 5 * 2 ^ 60 + p.slot * 2 ^ 16 + p.q.idx && e.w1 == p.ordinal

/-- QPUSH_ARRIVAL (R165, R351, R353, R354). -/
def execQpushArrival (push : Nat) (s : State) : Host.Outcome State Fault Refusal :=
  match s.pushes.find? fun p => p.id == push with
  | none => .next s
  | some p =>
    match s.queueAt p.q with
    | none => .next { s with pushes := s.pushes.filter fun x => x.id != push }
    | some b =>
      if !b.live then .next { s with pushes := s.pushes.filter fun x => x.id != push }
      else if !s.pushReady p b then .next s
      else
        match s.pushTurn p with
        | .now e => .next ((s.useEntry p.q.ctx e).arrive p)
        | .hold => .next s
        | .diverge => .next (s.haltCtx p.q.ctx 5 (s.rplAt p.q.ctx))
        | .free =>
          match s.record p.q.ctx 5 (p.slot * 2 ^ 16 + p.q.idx) p.ordinal with
          | .ok s1 => .next (s1.arrive p)
          | .error _ => .next (s.haltCtx p.q.ctx 4 0)

/-- R163, R309: the queue misses outstanding on a die in order of arrival, of waiting threads and of pushes. -/
def State.missesOn (s : State) (die : BitVec 2) : List QRef :=
  ((s.misses.map fun m => ({ ctx := m.1, idx := m.2 } : QRef)) ++ s.pushes.map Push.q).eraseDups.filter fun q =>
    match s.queueAt q with
    | some b => b.live && b.die == die && !b.inSram && b.launchQ.isNone
    | none => false

/-- R309: the miss that a die's scheduler serves next. -/
def State.missNext (s : State) (q : QRef) (b : BEntry) : Bool := (s.missesOn b.die).head? == some q

/-- QUEUE_MISS_SERVICED (R163, R309): the earliest miss of the die, once its segment fits. -/
def execQueueMissServiced (q : QRef) (s : State) : Host.Outcome State Fault Refusal :=
  match s.queueAt q with
  | none => .next s
  | some b =>
    if !s.missNext q b then .next s
    else
      match s.swapIn q b with
      | some s1 => .next ({ s1 with misses := s1.misses.filter fun m => m != (q.ctx, q.idx) }.countDie b.die 325)
      | none => .next s

/-- R166: the first records of the spill run that the segment can take back, in queue order. -/
def unspill : Nat → List QRec → List QRec
  | _, [] => []
  | 0, l => l
  | n + 1, r :: rest => if r.spilled then { r with spilled := false } :: unspill n rest else r :: unspill (n + 1) rest

/-- SPILL_REFILL (R166): a record that stands in a bad sub-beat kills its context (R358, log 48). -/
def execSpillRefill (q : QRef) (s : State) : Host.Outcome State Fault Refusal :=
  match s.queueAt q with
  | none => .next s
  | some b =>
    let base := (b.claims.map Claim.recs).flatten.countP QRec.spilled
    match s.spillBad q b base (Nat.min (b.segCap - b.inSeg) (b.recs.countP QRec.spilled)) with
    | some d => .next ((s.withdraw (d / 1024)).kill q.ctx (bareFault fltUncorr))
    | none => .next (s.updQueue q fun x => { x with recs := unspill (b.segCap - b.inSeg) x.recs })

/-! ## Settles (R173-R175) -/

/-- SETTLE_AGE_ELIGIBLE (R173). -/
def execSettleAgeEligible (q : QRef) (s : State) : Host.Outcome State Fault Refusal :=
  match s.queueAt q with
  | none => .next s
  | some b => .next (if b.arm.isSome then s.judge q b else s)

/-- SETTLE_CLASS_PROMOTION (R173). -/
def execSettleClassPromotion (q : QRef) (s : State) : Host.Outcome State Fault Refusal :=
  match s.queueAt q with
  | none => .next s
  | some b => .next (if b.arm.isSome then s.judge q b else s)

/-- R173: the cause for which an armed Settle is eligible: 0 threshold, 1 age, 2 flush. -/
def BEntry.cause (b : BEntry) : Option Nat :=
  match b.arm with
  | none => none
  | some a =>
    if b.recs.isEmpty then none
    else if a.thr.toNat * 64 ≤ b.recs.length then some 0
    else if b.eligible then some 1
    else if b.closed then some 2
    else none

/-- R173: what a firing claims: how many records, for which cause, and the log entry that says so under replay; a
firing that the log does not hold is a divergence (R354). -/
inductive FireChoice where
  | no
  | diverge
  | fire (n cause : Nat) (by_ : Option LogEntry)
  deriving DecidableEq, Repr

/-- R173, R353: whether a Settle fires now, and how. -/
def State.fireChoice (s : State) (q : QRef) (b : BEntry) : FireChoice :=
  match b.arm with
  | none => .no
  | some a =>
    match s.turn q.ctx (fun e => e.type == 2) fun e => e.w0 % 65536 == q.idx && e.w1 / 2 ^ 32 == b.fired with
    | .free => (match b.cause with
      | some c => .fire (Nat.min b.recs.length (a.thr.toNat * 64)) c none
      | none => .no)
    | .now e =>
      let n := e.w1 % 2 ^ 32 / 4
      if n = 0 then .diverge else if n ≤ b.recs.length then .fire n (e.w1 % 4) (some e) else .no
    | .hold => .no
    | .diverge => if b.cause.isSome then .diverge else .no

/-- R173: the place of an eligible Settle in the dispatcher's choice; of those that R173 leaves equal, in different
contexts, the lower context number is first (DESIGN CHOICE, log 34). -/
def settleKey (q : QRef) (b : BEntry) : Nat × Nat × Nat × Nat :=
  match b.arm, b.recs with
  | some a, r :: _ => ((if b.promoted then 0 else a.cls.toNat), r.arrival + a.age.toNat, q.idx, q.ctx.toNat)
  | _, _ => (0, 0, q.idx, q.ctx.toNat)

/-- The order of the choice. -/
def settleLt (x y : Nat × Nat × Nat × Nat) : Bool :=
  decide (x.1 < y.1) || (x.1 == y.1 && (decide (x.2.1 < y.2.1) || (x.2.1 == y.2.1 &&
    (decide (x.2.2.1 < y.2.2.1) || (x.2.2.1 == y.2.2.1 && decide (x.2.2.2 < y.2.2.2))))))

/-- R173: the Settle that a die's dispatcher fires next. -/
def State.settleNext (s : State) (die : BitVec 2) : Option QRef :=
  let l := s.segments.filter fun q => q.2.die == die && s.fireChoice q.1 q.2 != .no
  match l with
  | [] => none
  | a :: r => some (r.foldl (fun m q => if settleLt (settleKey q.1 q.2) (settleKey m.1 m.2) then q else m) a).1

/-! ## Commit order (R34) -/

/-- R34: the commit key. -/
def taskKeyLt (a b : TTask) : Bool :=
  decide (a.ts.toNat < b.ts.toNat) || (a.ts == b.ts && (decide (a.qno < b.qno) || (a.qno == b.qno && decide (a.seq < b.seq))))

/-- Insert a task by key among speculative ones. -/
def insertByKey (t : TTask) : List TTask → List TTask
  | [] => [t]
  | x :: r => if taskKeyLt t x then t :: x :: r else x :: insertByKey t r

/-- R34: a task enters its die's commit order: by key, but never before the irrevocable task; one that would
have stood before it follows it directly, after those already placed there. Those stay before a task of a smaller
key that comes later (DESIGN CHOICE, log 74). -/
def enterOrder (t : TTask) : List TTask → List TTask
  | [] => [t]
  | x :: r =>
    if x.oldest then
      if taskKeyLt t x then x :: (r.takeWhile TTask.placed ++ { t with placed := true } :: r.dropWhile TTask.placed)
      else x :: (r.takeWhile TTask.placed ++ insertByKey t (r.dropWhile TTask.placed))
    else insertByKey t (x :: r)

/-- A task is enqueued on its die. -/
def State.enqueueTask (s : State) (t : TTask) : State :=
  let mine := s.tasks.filter fun x => x.die == t.die
  { s with tasks := (s.tasks.filter fun x => x.die != t.die) ++ enterOrder t mine }

/-- R173, R175: a Settle fires: its claim is made and its task enqueued. -/
def State.fireSettle (s : State) (q : QRef) (b : BEntry) (a : Arm) (n cause : Nat) : State :=
  let fire := b.fired
  let c : Claim := { fire := fire, recs := b.recs.take n, pos := 0 }
  let ts := match b.recs with | r :: _ => r.origin | [] => 0
  let t : TTask :=
    { id := s.fresh, ctx := q.ctx, die := b.die, ts := ts, qno := q.idx, seq := fire, entry := a.entry, count := n
      regs := [(1, BitVec.ofNat 64 n), (3, handleWord b.gen q.idx), (4, a.arg), (5, BitVec.ofNat 64 fire),
               (6, BitVec.ofNat 64 cause)]
      claim := some fire, spawner := none, core := 0, slot := 0, ddl := a.ddl, placed := false, oldest := false, kept := none, st := .waiting }
  let s1 := { s with fresh := s.fresh + 1 }.updQueue q fun x =>
    { x with recs := x.recs.drop n, claims := x.claims ++ [c], fired := fire + 1 }
  let core := b.die.toNat * 32 + b.home.toNat
  let s2 := (s1.enqueueTask t).traceAt q.ctx 6 core 0 none 0
    (BitVec.ofNat 64 (cause * 2 ^ 48 + n % 2 ^ 32 * 2 ^ 16 + q.idx))
  (s2.countCore core 203 1 (some { ctx := q.ctx, core := core, slot := 0, pc := 0, elem := none })).countDie b.die 323

/-- SETTLE_FIRE (R173, R351, R353): only the Settle that is next on its die fires. -/
def execSettleFire (q : QRef) (s : State) : Host.Outcome State Fault Refusal :=
  match s.queueAt q with
  | none => .next s
  | some b =>
    if s.settleNext b.die ≠ some q then .next s
    else
      match s.fireChoice q b, b.arm with
      | .diverge, _ => .next (s.haltCtx q.ctx 5 (s.rplAt q.ctx))
      | .fire n c (some e), some a => .next ((s.useEntry q.ctx e).fireSettle q b a n c)
      | .fire n c none, some a =>
        match s.record q.ctx 2 q.idx (b.fired % 2 ^ 32 * 2 ^ 32 + n * 4 + c) with
        | .ok s1 => .next (s1.fireSettle q b a n c)
        | .error _ => .next (s.haltCtx q.ctx 4 0)
      | _, _ => .next s

end Sys2Proof.Machine
end

