-- ==== Sys2Proof/Machine/Commit.lean ====
section
/-! DEFINITION. The commit of queued vector instructions, and the accesses that perform after it (R255, R290,
R315). -/

namespace Sys2Proof.Machine

/-- What a queued instruction does when it commits. -/
def effOf : VIns → VEntry → State → R State
  | .qpush d a => effQpush d a
  | .qtake d a => effQtake d a
  | .ins (.cbload a) => effCbload a
  | .ins (.mcfg c t) => effMcfg c t
  | .ins (.mma c g a b f) => effMma c g a b f
  | .ins (.mmas c g a b f) => effMmas c g a b f
  | .ins (.mrd c r a) => effMrd c r a
  | .ins (.mswap c) => effMswap c
  | .ins (.mwr c r a) => effMwr c r a
  | .ins (.mzero c) => effMzero c
  | .ins (.vabs d a m t) => effVabs d a m t
  | .ins (.vadd d a b m t) => effVadd d a b m t
  | .ins (.vand d a b w) => effVand d a b w
  | .ins (.vandn d a b w) => effVandn d a b w
  | .ins (.vavg d a b m g w) => effVavg d a b m g w
  | .ins (.vbcast d _ m t) => effVbcast d m t
  | .ins (.vcadd d a b m) => effVcadd d a b m
  | .ins (.vcmpeq d a b m t) => effVcmpeq d a b m t
  | .ins (.vcmple d a b m t) => effVcmple d a b m t
  | .ins (.vcmpleUnsigned d a b w) => effVcmpleUnsigned d a b w
  | .ins (.vcmplt d a b m t) => effVcmplt d a b m t
  | .ins (.vcmpltUnsigned d a b w) => effVcmpltUnsigned d a b w
  | .ins (.vcmul d a b m) => effVcmul d a b m
  | .ins (.vcompress d a t) => effVcompress d a t
  | .ins (.vcsub d a b m) => effVcsub d a b m
  | .ins (.vcvt d a u c m t) => effVcvt d a u c m t
  | .ins (.vcvtsFromNarrow d a n m t) => effVcvtsFromNarrow d a n m t
  | .ins (.vcvtsToNarrow d a n m t) => effVcvtsToNarrow d a n m t
  | .ins (.vdecb d a m t) => effVdecb d a m t
  | .ins (.vdiv d a b m t) => effVdiv d a b m t
  | .ins (.vdivUnsigned d a b m w) => effVdivUnsigned d a b m w
  | .ins (.vexpand d a t) => effVexpand d a t
  | .ins (.vextr _ a _ t) => effVextr a t
  | .ins (.vfma d a b m t) => effVfma d a b m t
  | .ins (.vgaths d _ b m t) => effVgaths d b m t
  | .ins (.viadd d a b m) => effViadd d a b m
  | .ins (.vidx d m t) => effVidx d m t
  | .ins (.vimul d a b m) => effVimul d a b m
  | .ins (.visub d a b m) => effVisub d a b m
  | .ins (.vjoin6 d a b _) => effVjoin6 d a b
  | .ins (.vld d _ b m t) => effVld d b m t
  | .ins (.vldff d _ b m t) => effVldff d b m t
  | .ins (.vlds d _ _ m t) => effVlds d m t
  | .ins (.vmadd16 d a b m g) => effVmadd16 d a b m g
  | .ins (.vmax d a b m t) => effVmax d a b m t
  | .ins (.vmaxUnsigned d a b w) => effVmaxUnsigned d a b w
  | .ins (.vmfirst _ a) => effVmfirst a
  | .ins (.vmin d a b m t) => effVmin d a b m t
  | .ins (.vminUnsigned d a b w) => effVminUnsigned d a b w
  | .ins (.vmpop _ a) => effVmpop a
  | .ins (.vmul d a b m t) => effVmul d a b m t
  | .ins (.vneg d a m t) => effVneg d a m t
  | .ins (.vor d a b w) => effVor d a b w
  | .ins (.vpkpix d a m p) => effVpkpix d a m p
  | .ins (.vprune d a t p) => effVprune d a t p
  | .ins (.vredAdd d a m t) => effVredAdd d a m t
  | .ins (.vredAnd d a m t) => effVredAnd d a m t
  | .ins (.vredMax d a m t) => effVredMax d a m t
  | .ins (.vredMaxu d a m t) => effVredMaxu d a m t
  | .ins (.vredMin d a m t) => effVredMin d a m t
  | .ins (.vredMinu d a m t) => effVredMinu d a m t
  | .ins (.vredOr d a m t) => effVredOr d a m t
  | .ins (.vsatn d a b m g w) => effVsatn d a b m g w
  | .ins (.vscanAdd d a m t) => effVscanAdd d a m t
  | .ins (.vscanAnd d a m t) => effVscanAnd d a m t
  | .ins (.vscanMax d a m t) => effVscanMax d a m t
  | .ins (.vscanMaxu d a m t) => effVscanMaxu d a m t
  | .ins (.vscanMin d a m t) => effVscanMin d a m t
  | .ins (.vscanMinu d a m t) => effVscanMinu d a m t
  | .ins (.vscanOr d a m t) => effVscanOr d a m t
  | .ins (.vscats d _ b m t) => effVscats d b m t
  | .ins (.vsel d a b w) => effVsel d a b w
  | .ins (.vslide d a _ m t) => effVslide d a m t
  | .ins (.vsll d a b w) => effVsll d a b w
  | .ins (.vsplit6 d a b _) => effVsplit6 d a b
  | .ins (.vsqrt d a m t) => effVsqrt d a m t
  | .ins (.vsra d a b w) => effVsra d a b w
  | .ins (.vsrl d a b w) => effVsrl d a b w
  | .ins (.vst d _ b m t) => effVst d b m t
  | .ins (.vsts d _ _ m t) => effVsts d m t
  | .ins (.vsub d a b m t) => effVsub d a b m t
  | .ins (.vtopk d a _ m t) => effVtopk d a m t
  | .ins (.vunpix d a m p) => effVunpix d a m p
  | .ins (.vxor d a b w) => effVxor d a b w
  | .ins (.wbind _ _ _) => effWbind
  | .ins _ => fun _ s => .ok s

/-- R290: the oldest queued vector instruction of the thread that issues commits. -/
def State.commitThr (s : State) : State :=
  match s.thr.vq with
  | [] => s
  | e :: _ => s.commitHead (effOf e.ins)

/-- R119, R320: some elements of a gather or scatter at the head of the queue perform before it commits, recorded
in the completion mask; so it may stand part way when its crew is stopped. -/
def State.gatherSome (s : State) (e : VEntry) (r : R Gather) : State :=
  match r with
  | .error _ => s.drawn
  | .ok g =>
    if g.part && !s.crew.speculating && g.todo.any id && (s.vecRoom e [g.range s]).isOk then s.performPart g else s.drawn

/-- R320: the head of the queue performs in part, where it is a gather or scatter. -/
def State.headPart (s : State) : Option State :=
  match s.thr.vq with
  | [] => none
  | e :: _ =>
    match e.ins with
    | .ins (.vgaths d _ b m t) => some (s.gatherSome e (gatherOf d b m t e s))
    | .ins (.vscats d _ b m t) => some (s.gatherSome e (scatterOf d b m t e s))
    | _ => none

/-- VECTOR_COMMIT (R290): the head of the queue commits, or, a gather or scatter, may perform in part first (log
18); a head that must still wait leaves the state as it is. -/
def execVectorCommit (t : TRef) (s : State) : Host.Outcome State Fault Refusal :=
  match s.focus t with
  | none => .next s
  | some s1 =>
    match (if Config.performElem s1.draw 0 then s1.headPart else none) with
    | some s2 => .next s2
    | none => .next s1.commitThr

/-- R255: the unperformed stores of the oldest ordering interval. -/
def Thread.openStores (t : Thread) : List Unperf :=
  match t.unperf with
  | [] => []
  | u :: r => u :: r.filter fun x => x.interval == u.interval

/-- R116, R119, R255: the elements of a store that perform now: a free choice with the first, and of elements at one
address none before a lower one. -/
def elemsNow (draw : Nat) (cells : List (Nat × List Byte)) : List Nat :=
  let pick (i : Nat) : Bool := Config.performElem draw i || i == 0
  (List.range cells.length).filter fun i => pick i &&
    (List.range i).all fun j => (cells[j]?.map Prod.fst) != (cells[i]?.map Prod.fst) || pick j

/-- R255: some elements of one unperformed store of the oldest interval perform, which being free (log 6). -/
def State.performSome (s : State) : State :=
  let l := s.thr.openStores
  match l[Config.performPick s.draw % l.length]? with
  | none => s
  | some u =>
    let go := elemsNow s.draw u.cells
    let now := go.filterMap fun i => u.cells[i]?
    let rest := ((List.range u.cells.length).filter fun i => !go.contains i).filterMap fun i => u.cells[i]?
    let k := s.thr.unperf.findIdx fun x => x == u
    let s1 := s.performAll { u with cells := now }
    (s1.modThr fun t => { t with
      unperf := if rest.isEmpty then t.unperf.eraseIdx k else t.unperf.set k { u with cells := rest } }).drawn

/-- R254: whether the held scalar store may perform. -/
def Thread.heldDue (t : Thread) : Bool :=
  match t.held with
  | some h => t.vq.all fun e => decide (h.seq < e.seq)
  | none => false

/-- ACCESS_PERFORMED (R254, R255): a held store may perform before or after committed vector stores (log 6). -/
def execAccessPerformed (t : TRef) (s : State) : Host.Outcome State Fault Refusal :=
  match s.focus t with
  | none => .next s
  | some s1 =>
    if s1.thr.heldDue && (s1.thr.unperf.isEmpty || Config.performElem s1.draw 0) then .next s1.performHeld.drawn
    else if !s1.thr.unperf.isEmpty then .next s1.performSome
    else .next s

end Sys2Proof.Machine
end

