-- ==== Sys2Proof/Machine/Command.lean ====
section
/-! DEFINITION. The management mailbox: the statuses, the checks that every command shares, and how a command
starts, waits and ends (R332, R333). -/

namespace Sys2Proof.Machine

/-- R332: the statuses. -/
def mbOk : BitVec 8 := 0
def mbBusy : BitVec 8 := 1
def mbBadImg : BitVec 8 := 2
def mbBadArg : BitVec 8 := 3
def mbNotReady : BitVec 8 := 4
def mbDenied : BitVec 8 := 5
def mbBadOp : BitVec 8 := 6

/-- How the body of a command ends: with a status, its results and a state, or still waiting. -/
inductive CmdEnd where
  | done (status : BitVec 8) (res : List Word) (s : State)
  | wait (s : State)

/-- A command refused with a status: nothing changes. -/
def refuse (s : State) (status : BitVec 8) : CmdEnd := .done status [] s

/-- A command that succeeds without results. -/
def success (s : State) : CmdEnd := .done mbOk [] s

/-- The eight operands of a command. -/
def mbWords (a : MbArgs) : List Word := [a.a0, a.a1, a.a2, a.a3, a.a4, a.a5, a.a6, a.a7]

/-- R333: operand bits outside those that a command names are 0; `ms` are the named bits of MBARG0 on. -/
def mbOnly (a : MbArgs) (ms : List Word) : Bool :=
  (List.range 8).all fun k => ((mbWords a).getD k 0) &&& ~~~(ms.getD k 0) == 0

/-- Every bit of an operand. -/
def allBits : Word := 0xFFFFFFFFFFFFFFFF

/-- R333, R335: the stage from which a command is accepted has been reached: stage 1 once a die has
finished it (R335's example). -/
def State.reached (s : State) (stage : Nat) : Bool :=
  decide (stage ≤ s.stage.toNat) && (stage == 0 || s.dieRdy != 0)

/-- The MBRES registers from a command's results. -/
def resWords (l : List Word) : List Word := (List.range 8).map fun k => l.getD k 0

/-- R332: the MBSTAT word. -/
def Mbox.stat (b : Mbox) : Word :=
  BitVec.ofNat 64 ((if b.run then 2 ^ 63 else 0) + b.tag.toNat * 2 ^ 32 + b.status.toNat)

/-- R332: a command ends: RUN reads 0, with its status and results; the reply to one that came over MCTP carries MBSTAT
and MBRES. -/
def State.endCommand (s : State) (status : BitVec 8) (res : List Word) : State :=
  let b : Mbox := { s.mbox with run := false, status := status, res := resWords res }
  { s with mbox := b, mctp := if b.mctp then b.stat :: b.res else s.mctp }

/-- R332: the state once a command has started, from MBCMD or over MCTP. -/
def State.startCommand (s : State) (op : Nat) (a : MbArgs) (mctp : Bool) : State :=
  { s with mbox := { s.mbox with
      res := List.replicate 8 0, run := true, tag := a.tag, status := 0, op := BitVec.ofNat 16 op, held := mbWords a
      mctp := mctp } }

/-- A command's body has run once more. -/
def CmdEnd.state (e : CmdEnd) : State :=
  match e with
  | .done st res s => s.endCommand st res
  | .wait s => s

/-- R332, R333: what a started command does: its stage, its operands and its body. -/
def State.commandBody (stage : Nat) (a : MbArgs) (ms : List Word) (body : State → CmdEnd) (s : State) : State :=
  if !s.reached stage then s.endCommand mbNotReady []
  else if a.rsv ≠ 0 ∨ !mbOnly a ms then s.endCommand mbBadArg []
  else (body s).state

/-- R332: a command arrives over MCTP (log 76); the input waits while another one executes. -/
def State.command (s : State) (op : Nat) (a : MbArgs) (run : MbArgs → State → State) :
    Host.Outcome State Fault Refusal :=
  .next (if s.mbox.run then s else run a (s.startCommand op a true))

/-- A host address of `n` bytes that a command may use, aligned to `al` (log 44). -/
def State.hostRange (s : State) (a : Word) (n al : Nat) : Bool :=
  decide (a.toNat + n ≤ 2 ^ 56) && a.toNat % al == 0 && !s.hostRefuses a.toNat n

/-- R326, R327: restore a complete crew area on a core, or the status that refuses it: its slot there must be free,
on a die that its launch names, and its pinned queue segments must fit (log 44). The restored crew becomes the
current one. -/
def State.restoreAt (s : State) (ctx : BitVec 16) (area : Nat) (die : BitVec 2) (core : BitVec 5) :
    Except (BitVec 8 × List Word) State :=
  match s.ctxOf ctx with
  | none => .error (mbBadArg, [])
  | some c =>
    match c.saved.find? fun a => a.area == area with
    | none => .error (mbBadImg, [])
    | some a =>
      let ix := die.toNat * 32 + core.toNat
      if !a.complete then .error (mbBadImg, [])
      else if !s.dieRdy.getLsbD die.toNat || !s.slotFree ix a.slot || !s.coreAgrees ix a.kept.crews then .error (mbBusy, [])
      else
        match s.restoreCrew ctx area die core with
        | .ok s1 => .ok s1
        | .error .incomplete => .error (mbBadImg, [])
        | .error .slot | .error .die => .error (mbBadArg, [])
        | .error .segments => .error (mbBusy, [])
        | .error .capacity | .error .image => .error (mbDenied, [35])
        | .error (.uncorr _) => .error (mbDenied, [zext64 fltUncorr])

/-- R358: what a refused restore of an area met of bad sub-beats is withdrawn: one that read them ends with DENIED. -/
def State.areaRead (s : State) (ctx : BitVec 16) (area : Nat) (status : BitVec 8) : State :=
  match s.ctxOf ctx with
  | none => s
  | some c =>
    match c.saved.find? fun a => a.area == area with
    | some a => if status = mbDenied then s.withdrawBad (s.savedBad ctx a (c.images.find? fun i => i.areas.contains area)) else s
    | none => s

/-- A crew as SAVE, RESTORE and DBGSTOP name it (R333): die, core and slot. -/
def crewField (w : BitVec 9) : BitVec 2 × BitVec 5 × BitVec 2 := (w.extractLsb' 0 2, w.extractLsb' 2 5, w.extractLsb' 7 2)

/-- The crew of a context at a place. -/
def State.crewAt (s : State) (ctx : BitVec 16) (x : BitVec 2 × BitVec 5 × BitVec 2) : Option Crew :=
  (s.crews.find? fun p => p.1.ctx == ctx && p.1.die == x.1 && p.1.core == x.2.1 && p.1.slot == x.2.2).map Prod.fst

/-- A live run of a driver context, by its handle. -/
def State.driverRun (s : State) (drv : BitVec 16) (h : Word) : Option CabEntry :=
  match s.globalRun drv (h.toNat % 65536) with
  | none => none
  | some (e, _) =>
    if e.live && e.gen == BitVec.ofNat 16 (h.toNat / 65536) && decide (h.toNat / 2 ^ 32 = 0) then some e else none

/-- The context number in bits 15:0 of an operand. -/
def ctxField (w : Word) : BitVec 16 := w.setWidth 16

end Sys2Proof.Machine
end

