-- ==== Sys2Proof/Machine/Tasks.lean ====
section
/-! DEFINITION. Timestamped tasks: spawning, dispatch, becoming the oldest, commit and cancelling; and fork and
join (R31-R36, R49, R76, R178-R183, R258). -/

namespace Sys2Proof.Machine

/-! ## tspawn and tend -/

/-- TSPAWN (R178, R179). The code object is judged after the handle, the kind, the state and the home (DESIGN CHOICE,
log 34). -/
def execTspawn (d a b : Opd) (s : State) : Host.Outcome State Fault Refusal :=
  finish s do
    let b1 ← opdPlus b 1
    let b2 ← opdPlus b 2
    let b3 ← opdPlus b 3
    let h ← s.rd a
    let ts ← s.rd b
    let entry ← s.rd b1
    let count ← s.rd b2
    let arg ← s.rd b3
    need (entry.toNat % 4 == 0 && (s.crew.spec.isNone || s.crew.ts.ult ts)) fltOperand
    let (i, q) ← s.queueOf h
    needObj (q.kind == .task) fltQueueKind h
    needObj (!q.closed) fltQueueState h
    s.queueHere h q
    s.entryRead entry
    need (s.entryOk entry) fltOperand
    s.wrOk d
    s.drained
    let t : TTask :=
      { id := s.fresh, ctx := s.crew.ctx, die := s.crew.die, ts := ts, qno := i, seq := q.seq, entry := entry
        count := count.toNat, regs := [(1, count), (3, arg)], claim := none
        spawner := s.crew.spec.map Spec.task, core := 0, slot := 0, ddl := s.crew.ddlInit, placed := false, oldest := false
        kept := none, st := .waiting }
    let s1 := ({ s with fresh := s.fresh + 1 }.modQueue s.crew.ctx i fun x => { x with seq := x.seq + 1 }).enqueueTask t
    .ok (s1.put d (BitVec.ofNat 64 q.seq)).adv

/-- R181: the current crew's task is cancelled: as an abort, but it keeps its place in commit order. -/
def State.cancelTask (s : State) (task : Nat) : State :=
  let tree := (s.spawnTree s.tasks.length [task]).filter fun i => i != task
  let s1 := tree.foldl State.discardRun (s.discardRun task)
  { s1 with tasks := (s1.tasks.filter fun (x : TTask) => !tree.contains x.id).map fun (x : TTask) =>
      if x.id = task then { x with st := .cancelled } else x }

/-- TEND (R181). -/
def execTend (a : Opd) (s : State) : Host.Outcome State Fault Refusal :=
  match s.rd a with
  | .error r => finish s (.error r)
  | .ok x =>
    if x = 0 then execHalt s
    else
      finish s do
        match s.crew.spec with
        | none => flt fltOperand
        | some sp => .ok ((s.cancelTask sp.task).reclaim.freeQueues)

/-! ## Dispatch, commit order and publication -/

/-- R178, R279, R298: whether a crew slot can take a task of a configuration: it is free, or a launch keeps it
idle in a crew of the same mode and crews per core; its core's class and the crews beside it allow it. -/
def State.slotTakes (s : State) (die : BitVec 2) (core : BitVec 5) (slot : BitVec 2) (cfg : Word) : Bool :=
  let ix := die.toNat * 32 + core.toNat
  let crews : BitVec 2 := cfg.extractLsb' 25 2
  let idle := s.launches.any fun l => l.idle.contains (ix, slot) && l.cfg.extractLsb' 24 3 == cfg.extractLsb' 24 3
  s.dieRdy.getLsbD die.toNat && !(s.crews.any fun p => p.1.coreIx == ix && p.1.slot == slot) &&
    (s.slotFree ix slot || idle) &&
    decide (slot.toNat < crewsOf crews) && s.coreAgrees ix crews &&
    decide ((s.capOf ix).toNat ≤ (cfg.extractLsb' 28 2).toNat) && !s.deadDies.getLsbD die.toNat

/-- R279, R307: the priority of a task in a slot: that of the launch which keeps the slot idle, and 0 elsewhere
(DEDUCED, log 42). -/
def State.idlePrio (s : State) (core : Nat) (slot : BitVec 2) : BitVec 3 :=
  match s.launches.find? fun l => l.idle.contains (core, slot) with
  | some l => l.prio
  | none => 0

/-- The crew slots of a die. -/
def slotsOf : List (BitVec 5 × BitVec 2) :=
  ((List.range 32).map fun c => (List.range 4).map fun k => (BitVec.ofNat 5 c, BitVec.ofNat 2 k)).flatten

/-- R178: the configuration of a task's code object. -/
def State.taskCfg (s : State) (t : TTask) : Option Word :=
  match s.codeObj t.ctx t.entry with
  | .good c => some c
  | _ => none

/-- R34: tasks that have started and not committed on a die. -/
def State.startedOn (s : State) (die : BitVec 2) : Nat := s.tasks.countP fun t => t.die == die && t.st != .waiting

/-- R178: the earliest waiting task of a die that some slot can take. -/
def State.taskNext (s : State) (die : BitVec 2) : Option TTask :=
  if Config.maxSpecTasks ≤ s.startedOn die then none
  else s.tasks.find? fun t => t.die == die && t.st == .waiting && (match s.taskCfg t with
    | some c => slotsOf.any fun p => s.slotTakes die p.1 p.2 c
    | none => false)

/-- R175, R178: a task starts on a crew slot. -/
def State.startTask (s : State) (t : TTask) (p : Place) (cfg : Word) : State :=
  let s1 := { s with tasks := s.tasks.map fun (x : TTask) =>
    if x.id = t.id then { x with st := .running, core := p.die.toNat * 32 + p.core.toNat, slot := p.slot.toNat * 4 } else x }
  (s1.countDie p.die 320).startCrew
    { ctx := t.ctx, die := p.die, core := p.core, slot := p.slot, priv := false, handler := none, cfg := cfg
      entry := t.entry, count := t.count, regs := t.regs.map fun r => (r.1.val, r.2), seed := seedOf t.seq t.ts
      ddl := t.ddl.setWidth 32, ts := t.ts, launch := none, task := t.seq
      spec := some { task := t.id, ts := t.ts, oldest := t.oldest, journal := [], reads := [], writes := [], bufs := [] }
      prio := s.idlePrio (p.die.toNat * 32 + p.core.toNat) p.slot }

/-- TASK_DISPATCH (R178): the earliest ready task that a slot can take starts on a slot that can take it. -/
def execTaskDispatch (task : Nat) (place : Place) (s : State) : Host.Outcome State Fault Refusal :=
  match s.taskNext place.die with
  | none => .next s
  | some t =>
    if t.id ≠ task then .next s
    else
      match s.taskCfg t with
      | none => .next s
      | some cfg =>
        .next (if s.slotTakes place.die place.core place.slot cfg then s.startTask t place cfg else s)

/-- R166: whether a queue of a context owns a run as its spill run. -/
def State.ownsSpill (s : State) (ctx : BitVec 16) (run : Nat) (q : Option Nat) : Bool :=
  match q with
  | some i => (match s.queueAt { ctx := ctx, idx := i } with | some b => b.live && b.spill == some run | none => false)
  | none => false

/-- R126, R127, R130, R131, R259: one change that a task of a crew has held back takes effect, on the run it named as
that stands now; a store to extents that a publish has replaced reaches those alone, through the pages it bound (R311). -/
def State.applyHeld (s : State) (c : Crew) (o : WOp) : State :=
  let owner := s.ownerOf c.ctx
  match o with
  | .spad a bs => s.spadPut c.coreIx owner a bs
  | .newRun i e => s.setEntry c.ctx i e
  | .edit i gen x =>
    match s.globalRun c.ctx i with
    | some (g, _) =>
      if g.isGen gen && (match x with | .spill q => s.ownsSpill c.ctx i (some q) | _ => true) then
        s.setEntry c.ctx i (g.edited x)
      else s
    | none => s
  | .store i x va pages off bs =>
    let s1 := match x with
      | some y =>
        if pages.isEmpty then s.extPutBy owner y off bs
        else State.boundPut owner pages (bs.length / 65536 + 2) (va + off) bs s
      | none => s
    match s1.globalRun c.ctx i with
    | some (g, _) => if g.ext = x then s1.setEntry c.ctx i (g.stored (off + bs.length)) else s1
    | none => s1
  | .publish i gen len x sort =>
    match s.globalRun c.ctx i with
    | some (g, _) =>
      if g.isGen gen && g.st == .opened then
        let s1 := { s with fresh := s.fresh + 1 }.setEntry c.ctx i (g.published len x sort s.fresh)
        match x with
        | some y => s1.shareBlocks y 0 (len * g.recSize)
        | none => s1
      else s
    | none => s

/-- R166: every spill run of a context holds its queue's spilled records. -/
def State.syncSpills (s : State) (ctx : BitVec 16) : State :=
  s.segments.foldl (fun s' q => if q.1.ctx = ctx ∧ q.2.spill.isSome then s'.syncSpill q.1 else s') s

/-- R35, R131: the changes a task has held back take effect in program order; from then on it writes directly. -/
def State.release (s : State) (task : Nat) : State :=
  match s.taskCrew task with
  | none => s
  | some c =>
    let clear (d : Crew) : Crew :=
      if d.id = c.id then { d with spec := d.spec.map fun x => { x with oldest := true, journal := [] } } else d
    let s1 := { s.mapCrews clear with
      tasks := s.tasks.map fun (x : TTask) => if x.id = task then { x with kept := none } else x }
    ((c.heldBack.foldl (fun s' o => s'.applyHeld c o) s1).syncSpills c.ctx).freeClosed

/-- R35: the first task in a die's commit order. -/
def State.frontTask (s : State) (die : BitVec 2) : Option TTask := s.tasks.find? fun t => t.die == die

/-- R351: the log's word 0 of a commit. -/
def TTask.commitWord (t : TTask) : Nat := 3 * 2 ^ 60 + t.die.toNat * 65536 + t.qno

/-- R353: a log entry that is a commit on a die. -/
def LogEntry.commitOn (e : LogEntry) (die : BitVec 2) : Bool := e.type == 3 && e.w0 / 65536 % 4 == die.toNat

/-- R35, R353: the task that becomes the oldest next: the first in commit order, or, while its context is being
replayed, the one of that context that the log commits next. -/
def State.nextOldest (s : State) (die : BitVec 2) : Option TTask :=
  match s.frontTask die with
  | none => none
  | some t =>
    if t.oldest then none
    else
      match s.logged t.ctx fun e => e.commitOn die with
      | some (some e) => s.tasks.find? fun u => u.die == die && u.ctx == t.ctx && u.commitWord == e.w0 && u.seq == e.w1
      | _ => some t

/-- R34, R353: a task that the log commits first goes before the others of its die; those that have read what it
writes abort (R36). -/
def State.bringFirst (s : State) (t : TTask) : State :=
  let before := (s.tasks.filter fun u => u.die == t.die).takeWhile fun u => u.id != t.id
  let ws := ((s.taskCrew t.id).bind Crew.spec).elim [] Spec.writes
  let hit := before.filter fun u => match (s.taskCrew u.id).bind Crew.spec with
    | some sp => sp.reads.any fun r => ws.any fun w => w.overlaps r.target r.lo r.hi
    | none => false
  let s1 := s.abortAll (hit.map TTask.id)
  match s1.tasks.find? fun u => u.id == t.id with
  | some u => { s1 with tasks := u :: s1.tasks.filter fun x => x.id != t.id }
  | none => s1

/-- Whether the crew of a task stands in a save area. -/
def State.taskSaved (s : State) (task : Nat) : Bool := s.savedCrews.any fun c => c.runs task

/-- TASK_BECOMES_OLDEST (R35, R353): a task whose crew is saved becomes the oldest once it is restored (log 70). -/
def execTaskBecomesOldest (die : BitVec 2) (s : State) : Host.Outcome State Fault Refusal :=
  match s.nextOldest die with
  | none => .next s
  | some t =>
    if s.taskSaved t.id then .next s
    else
      let s1 := if (s.frontTask die).map TTask.id = some t.id then s else s.bringFirst t
      .next ({ s1 with tasks := s1.tasks.map fun (x : TTask) => if x.id = t.id then { x with oldest := true } else x }.release t.id)

/-- R339: who the events of a task are attributed to. -/
def TTask.who (t : TTask) : Who := { ctx := t.ctx, core := t.core, slot := t.slot, pc := 0, elem := none }

/-- R34, R175: the first task of a die commits: its claim is released. -/
def State.commitTask (s : State) (t : TTask) : State :=
  let s1 := { s with tasks := s.tasks.filter fun x => x.id != t.id }
  let s2 := match t.claim with
    | some f => s1.updQueue { ctx := t.ctx, idx := t.qno } fun b => b.dropClaim f
    | none => s1
  (((s2.freeQueues).traceAt t.ctx 7 t.core t.slot none 0 t.ts).countCore t.core 207 1 (some t.who)).countDie t.die 321

/-- R353, R354: the turn of a task among the logged commits of its die. -/
def State.commitTurn (s : State) (t : TTask) : LogTurn :=
  s.turn t.ctx (fun e => e.commitOn t.die) fun e => e.w0 == t.commitWord && e.w1 == t.seq

/-- TASK_COMMIT (R34, R351, R353, R354). -/
def execTaskCommit (die : BitVec 2) (s : State) : Host.Outcome State Fault Refusal :=
  match s.frontTask die with
  | none => .next s
  | some t =>
    if !t.oldest || !(t.st == .retired || t.st == .cancelled) then .next s
    else
      match s.commitTurn t with
      | .now e => .next ((s.useEntry t.ctx e).commitTask t)
      | .hold => .next s
      | .diverge => .next (s.haltCtx t.ctx 5 (s.rplAt t.ctx))
      | .free =>
        match s.record t.ctx 3 (die.toNat * 65536 + t.qno) t.seq with
        | .ok s1 => .next (s1.commitTask t)
        | .error _ => .next (s.haltCtx t.ctx 4 0)

/-! ## Fork and join -/

/-- R182: the parent's share of a count. -/
def parentShare (c : Nat) : Nat := Nat.min c (64 * ((c + 127) / 128))

/-- R316, R33: the number of a new child: the lowest that no context of the crew has. -/
def State.childIx (s : State) : Nat := ((lowestFree ((s.thr :: s.mates).map Thread.idx) 1 3)).getD 3

/-- R49: how SCALE_LEN divides at a fork whose halves are `hb` bytes. -/
def scaleSplit (t : Thread) (hb : Nat) : Nat × Nat :=
  let l := t.scaleLen.toNat
  let h := hb / sizeOf2 t.scaleSz
  (Nat.min l h, l - h)

/-- R32, R49, R76, R182: the child of a fork. -/
def Thread.forked (t : Thread) (idx half scale : Nat) (seed : BitVec 32) : Thread :=
  { t with
    idx := idx, parent := some t.idx, fflags := 0, iflags := 0, seed := seed
    lgBase := t.lgBase + BitVec.ofNat 4 (t.lgCnt.toNat / 2), lgCnt := BitVec.ofNat 5 (t.lgCnt.toNat / 2)
    depth := t.depth + 1, scaleLen := BitVec.ofNat 18 scale, need := t.need - half
    vq := [], hist := [], unperf := [], held := none, interval := 0, strips := 0, pushes := 0, vseq := 0
    cmask := 0, sleep := none, cover := false, vsFence := 0, eeWait := [], tfWait := none, lockSeq := 0, needVl := false, life := .run }

/-- FORK (R32, R182, R258). -/
def execFork (d a b : Opd) (s : State) : Host.Outcome State Fault Refusal :=
  finish s do
    need (isScalar d && isScalar a && isScalar b && opdNum d != 0 && opdNum a != 0 && opdNum b != 0) fltIllegal
    need (d != a && d != b && a != b) fltIllegal
    need (!s.crew.trio && decide (8 ≤ s.thr.lgCnt.toNat)) fltCrewMode
    let c ← s.rd a
    s.wrOk d
    s.wrOk b
    s.drained
    let s0 := s.flushThr
    let cp := parentShare c.toNat
    let half := s0.mvl / 2
    let sc := scaleSplit s0.thr (half * 4)
    let old := s0.thr
    let regs (s' : State) (x y z : Nat) : State :=
      ((s'.put d (BitVec.ofNat 64 x)).put a (BitVec.ofNat 64 y)).put b (BitVec.ofNat 64 z)
    let seed := old.seed ^^^ 0x6A09E667
    let child := old.forked s0.childIx half sc.2 (if seed = 0 then 1 else seed)
    let s1 := s0.modThr fun t => { t with
      lgCnt := BitVec.ofNat 5 (t.lgCnt.toNat / 2), depth := t.depth + 1, scaleLen := BitVec.ofNat 18 sc.1
      need := Nat.min t.need half }
    let s2 ← (regs s1 0 cp 0).adv.nextVl cp
    let s3 := regs { s2 with thr := child, mates := s2.thr :: s2.mates } 1 (c.toNat - cp) cp
    let (v, s4) ← s3.seedPoint s3.thr.seed
    let s5 ← (s4.modThr fun t => { t with seed := v }).adv.nextVl (c.toNat - cp)
    match s5.focusIdx old.idx with
    | some s6 => .ok s6
    | none => .ok s5

/-- R49: how SCALE_LEN joins at `hb` bytes. -/
def scaleJoin (p c : Thread) (hb : Nat) : Nat × BitVec 2 :=
  let zp := sizeOf2 p.scaleSz
  let zc := sizeOf2 c.scaleSz
  let lp := p.scaleLen.toNat
  let lc := c.scaleLen.toNat
  if p.scaleSz = c.scaleSz then (if lp < hb / zp then (lp, p.scaleSz) else (hb / zp + lc, p.scaleSz))
  else if lp * zp < hb then (lp * zp, 0)
  else (hb + lc * zc, 0)

/-- R33, R183: the parent after a join with its child. -/
def Thread.joined (t c : Thread) (half : Nat) : Thread :=
  let sc := scaleJoin t c (half * 4)
  { t with
    lgCnt := BitVec.ofNat 5 (t.lgCnt.toNat * 2), depth := t.depth - 1, fflags := t.fflags ||| c.fflags
    iflags := t.iflags ||| c.iflags, scaleLen := BitVec.ofNat 18 sc.1, scaleSz := sc.2
    need := if c.need = 0 then t.need else half + c.need }

/-- R183: the most recently created unjoined child: its lane groups adjoin the parent's. -/
def State.lastChild (s : State) : Option Thread :=
  s.mates.find? fun m => m.parent == some s.thr.idx && m.lgBase.toNat == s.thr.lgBase.toNat + s.thr.lgCnt.toNat

/-- JOIN (R33, R183, R258). -/
def execJoin (s : State) : Host.Outcome State Fault Refusal :=
  finish s do
    need (!s.crew.trio) fltCrewMode
    match s.lastChild with
    | some c => do
      s.drained
      await (c.life == .atJoin) .joinChild
      let half := s.mvl
      .ok ({ s with mates := s.mates.filter fun m => m.idx != c.idx }.modThr fun t => t.joined c half).adv
    | none => do
      need s.thr.parent.isSome fltCrewMode
      s.drained
      await (!s.awaitsToken) .tokens
      .ok (s.flushThr.modThr fun t => { t.next with life := .atJoin })

end Sys2Proof.Machine
end

