-- ==== Sys2Proof/Machine/Counters.lean ====
section
/-! DEFINITION. The event counters, the sweeper and the counter run, with their commands (R339-R344, R355). -/

namespace Sys2Proof.Machine

/-! ## Increments by the cycle (R339, R341, R345) -/

/-- R54, R347: a thread's vcp. -/
def Thread.vcp (t : Thread) : Addr := match t.vq with | e :: _ => e.pc | [] => t.pc

/-- R347: a thread as the maker of a cycle event: its vcp. -/
def cycleWho (c : Crew) (t : Thread) : Who := { whoOf c t with pc := zext64 t.vcp }

/-- R339, R347: the thread of a core's thread slot. -/
def State.whoAt (s : State) (core slot : Nat) : Option Who :=
  s.crews.findSome? fun p => if p.1.coreIx = core then (p.2.find? fun t => threadSlot p.1 t == slot).map (cycleWho p.1) else none

/-- R292, R347: the first element of one of the chunks of an instruction, which one being free (log 43). -/
def State.chunkElem (s : State) (vl : Nat) : Nat := 64 * (Config.performPick s.draw % Nat.max 1 ((vl + 63) / 64))

/-- R347: who a chunk or a scratchpad access of a core is attributed to: the thread of the lowest slot with a queued
vector instruction, and the first element of one of its chunks (log 43). -/
def State.chunkWho (s : State) (core : Nat) : Option Who :=
  (List.range 16).findSome? fun k => s.crews.findSome? fun p => if p.1.coreIx = core then
    (p.2.find? fun t => threadSlot p.1 t == k && !t.vq.isEmpty).bind fun t => t.vq.head?.map fun e =>
      { cycleWho p.1 t with elem := some (s.chunkElem e.vl) }
    else none

/-- R347: who an engine's event of a core is attributed to: the pending operation of a kind of the lowest slot. -/
def State.opWho (s : State) (core : Nat) (kind : OpKind → Bool) : Option Who :=
  (List.range 16).findSome? fun k =>
    (s.ops.find? fun o => decide (o.core = core) && decide (o.slot % 16 = k) && kind o.kind).map Op.who

/-- A run engine operation. -/
def OpKind.isRun : OpKind → Bool
  | .run _ _ _ _ _ _ => true
  | _ => false

/-- A decompression. -/
def OpKind.isCpyd : OpKind → Bool
  | .cpyd _ _ _ _ => true
  | _ => false

/-- R347: who an event of a core that COUNTER_WRAP counts is attributed to (log 43). -/
def State.wrapWho (s : State) (core ev : Nat) : Option Who :=
  if ev ≤ 167 then s.chunkWho core
  else if ev ≤ 178 then s.opWho core OpKind.isRun
  else if ev = 186 then s.opWho core OpKind.isCpyd
  else none

/-- R339: an event that COUNTER_WRAP counts: one that the machine does not count where it happens (log 43). -/
def wrapEvent (unit ev : Nat) : Bool :=
  if unit < 128 then
    (decide (96 ≤ ev) && decide (ev ≤ 111)) || ev == 113 || (decide (120 ≤ ev) && decide (ev ≤ 167)) ||
      (decide (170 ≤ ev) && decide (ev ≤ 172)) || (decide (174 ≤ ev) && decide (ev ≤ 177)) || ev == 186 || ev == 230 ||
      ev == 239
  else if unit < 132 then decide (64 ≤ ev) && decide (ev < 320) || decide (ev < 64) && decide (3 ≤ ev % 16)
  else if ev < 192 then decide (3 ≤ ev % 16)
  else decide (ev < 196)

/-- COUNTER_WRAP (R341): a cycle's increment of a counter (log 2, log 43). No event adds more than 16 (R339). -/
def execCounterWrap (unit : BitVec 8) (ev : BitVec 9) (inc : Nat) (s : State) : Host.Outcome State Fault Refusal :=
  let w := if unit.toNat < 128 then s.wrapWho unit.toNat ev.toNat else none
  .next (if inc ≤ 16 ∧ wrapEvent unit.toNat ev.toNat then s.count unit ev inc w else s)

/-- R345: what a stalled thread waits for is memory: load data, a ring, bq, a token, an interlock entry, a queue miss,
a Trestle or a buffer (log 43). -/
def Why.memory : Why → Bool
  | .ring | .ringFull | .bq | .token | .tokens | .interlock | .buffer | .performed | .storage | .lend | .runEngine | .queueMiss _ => true
  | _ => false

/-- R353: whether a thread waits for its task's turn while its context's log commits another task of its die first. -/
def State.logHolds (s : State) (c : Crew) (t : Thread) : Bool :=
  t.life == .stalled .oldest &&
    match s.tasks.find? fun u => c.runs u.id with
    | some u =>
      (match s.logged c.ctx fun e => e.commitOn u.die with
       | some (some e) => !(e.w0 == u.commitWord && e.w1 == u.seq)
       | _ => false)
    | none => false

/-- R290, R345, R353: the slip class of a thread; one with a full vector queue is stalled, and one that the log holds
is memory-bound. -/
def slipClass (c : Crew) (t : Thread) (held : Bool) : Nat :=
  if c.stop.isSome || t.sleep.isSome then 0
  else
    match t.life with
    | .retired | .ready => 0
    | .stalled w =>
      if w.memory || held then 3
      else if w == .history || decide (Config.vqEntries ≤ t.vq.length) then 2
      else if t.vq.isEmpty then 1 else 4
    | _ => if t.vq.isEmpty then 1 else if Config.vqEntries ≤ t.vq.length then 2 else 4

/-- R345: the place of a thread slot of a core among all. -/
def slipKey (core slot : Nat) : Nat := core * 16 + slot % 16

/-- R345: the cycles of a thread slot up to `clk` that no thread was there to count are idle ones. -/
def State.slipIdle (s : State) (core slot clk : Nat) : State :=
  let k := slipKey core slot
  let gap := clk - (s.slipClk.get k).toNat
  if gap = 0 then s
  else { s.countCycles core (5 * (slot % 16)) gap none with slipClk := s.slipClk.write k [BitVec.ofNat 64 clk] }

/-- R339, R345, R353: the `d` cycles that have just passed count in one class of a thread's slot, and in the events of a
full history buffer and vector queue and of a wait for the log. -/
def State.slipThread (c : Crew) (d : Nat) (s : State) (t : Thread) : State :=
  let slot := threadSlot c t % 16
  let w := some (cycleWho c t)
  let s1 := s.slipIdle c.coreIx slot (s.clk - d)
  let held := s.logHolds c t
  let s2 := { s1.countCycles c.coreIx (5 * slot + slipClass c t held) d w with
    slipClk := s1.slipClk.write (slipKey c.coreIx slot) [BitVec.ofNat 64 s.clk] }
  let s3 := if held then s2.countCycles c.coreIx 242 d w else s2
  match t.life with
  | .stalled .history => s3.countCycles c.coreIx 225 d w
  | .stalled _ | .run => if Config.vqEntries ≤ t.vq.length then s3.countCycles c.coreIx 226 d w else s3
  | _ => s3

/-- R339: the cycles in which a crew's interlock table is full (log 43), and those in which a thread slot of its core
holds 32 pending tokens, counted with the first such crew of the core. -/
def State.fullCrew (d : Nat) (s : State) (p : Crew × List Thread) : State :=
  let has (c : Crew) (t : Thread) : Bool :=
    decide (Config.maxTokens ≤ (s.ops.filter fun o => o.crew == c.id && o.thread == t.idx).length)
  let locks := p.1.ilock ++ (p.2.map Thread.storeLocks).flatten
  let s1 := if Config.ilockEntries ≤ locks.length then
      s.countCycles p.1.coreIx 216 d (p.2.head?.map (cycleWho p.1)) else s
  let full := ((s.crews.filter fun q => q.1.coreIx == p.1.coreIx).map fun q => q.2.map fun t => (q.1, t)).flatten.find?
    fun q => has q.1 q.2
  match full with
  | some q => if q.1.id = p.1.id then s1.countCycles p.1.coreIx 193 d (some (cycleWho q.1 q.2)) else s1
  | none => s1

/-- R345: the idle cycles of a slot whose counter writes sample records are counted as they pass. -/
def State.slipSampled (s : State) : State :=
  (s.counters.filter fun c => c.sample && decide (c.unit.toNat < 128) && decide (c.ev.toNat < 80)).foldl
    (fun s' c => s'.slipIdle c.unit.toNat (c.ev.toNat / 5) s'.clk) s

/-- R339, R345: the `d` cycles that have just passed count for every thread and every crew. -/
def State.slip (s : State) (d : Nat) : State :=
  let s1 := s.crews.foldl (fun s' p => p.2.foldl (State.slipThread p.1 d) s') s
  (s1.crews.foldl (State.fullCrew d) s1).slipSampled

/-- R345: every thread slot of the package is counted up to now. -/
def State.slipAll (s : State) : State :=
  (List.range 128).foldl (fun s' core => (List.range 16).foldl (fun s2 slot => s2.slipIdle core slot s2.clk) s') s

/-- R345: the thread slot that a counter accounts for is counted up to now. -/
def State.slipFor (s : State) (unit : BitVec 8) (ev : BitVec 9) : State :=
  if unit.toNat < 128 ∧ ev.toNat < 80 then s.slipIdle unit.toNat (ev.toNat / 5) s.clk else s

/-! ## Events counted at issue (R339) -/

/-- R339: the event of a core that the issue of an instruction counts, beside ISSUE. -/
def issueEvent : Instr → Option Nat
  | .mma _ _ _ _ _ | .mmas _ _ _ _ _ => some 112
  | .mswap _ => some 114
  | .mzero _ | .mwr _ _ _ => some 115
  | .mrd _ _ _ => some 116
  | .cbload _ => some 117
  | .vdecb _ _ _ _ => some 118
  | .rsplice _ _ _ | .rtag _ _ _ | .rsortK _ _ _ | .rsortKt _ _ _ | .rmergeNone _ _ _ | .rmergeAdd _ _ _
  | .rmergeWadd _ _ _ | .rmergeMin _ _ _ | .rmergeMax _ _ _ | .rmergeFirst _ _ _ | .rmergeLast _ _ _
  | .rmergeUser _ _ _ | .rjoin _ _ _ | .rjoinDrop _ _ _ | .rsetIsect _ _ _ | .rsetUnion _ _ _ | .rsetDiff _ _ _
  | .rpart _ _ _ | .rdedup _ _ _ | .rcount _ _ _ => some 168
  | .ropen _ _ _ | .ropenAcq _ _ => some 173
  | .cpy _ _ _ => some 184
  | .cpyd _ _ _ => some 185
  | .bxform _ _ _ => some 187
  | .sread _ _ _ => some 188
  | .swrite _ _ _ => some 189
  | .xput _ _ => some 190
  | .xsend _ _ => some 191
  | .qpush _ _ => some 200
  | .qtake _ _ => some 202
  | .tspawn _ _ _ => some 206
  | .fork _ _ _ => some 209
  | .join => some 210
  | .fenceSv _ | .fenceVs _ | .fenceEe _ => some 218
  | .vdrain => some 219
  | .tfence _ => some 220
  | .amoAdd _ _ _ _ | .amoAnd _ _ _ _ | .amoOr _ _ _ _ | .amoXor _ _ _ _ | .amoMin _ _ _ _ | .amoMax _ _ _ _
  | .amoSwap _ _ _ _ | .cas _ _ _ _ | .binc _ _ _ => some 222
  | .ld _ _ _ _ => some 223
  | .st _ _ _ _ => some 224
  | _ => none

/-- R339: an instruction of a thread has issued: ISSUE, the event of its kind, and 234 for a yield with prq
set. Of a vector instruction the record names the first chunk (R347, log 43). -/
def State.countIssue (s : State) (c : Crew) (t : Thread) (i : Instr) (vec : Bool) : State :=
  let w := some { whoOf c t with elem := if vec then some 0 else none }
  let u := BitVec.ofNat 8 c.coreIx
  let s1 := s.count u (BitVec.ofNat 9 (80 + threadSlot c t % 16)) 1 w
  let s2 := match issueEvent i with
    | some e => s1.count u (BitVec.ofNat 9 e) 1 w
    | none => s1
  match i with
  | .yield => if c.prq then s2.count u 234 1 w else s2
  | _ => s2

/-- R339: the event that a thread's stall counts as it begins. -/
def Why.stallEvent : Why → Option Nat
  | .interlock => some 217
  | .ringFull => some 227
  | .ring => some 228
  | .bq => some 229
  | _ => none

/-- A thread by its crew and index. -/
def State.threadOf? (s : State) (crew idx : Nat) : Option (Crew × Thread) :=
  s.crews.findSome? fun p => if p.1.id = crew then (p.2.find? fun t => t.idx == idx).map fun t => (p.1, t) else none

/-- R41, R345: whether a thread that tried to issue has issued: it does not wait at its instruction, and no
fault stopped its crew. A crew that is gone has issued when the instruction ends its thread. -/
def State.hasIssued (s : State) (crew idx : Nat) (i : Instr) : Bool :=
  match s.threadOf? crew idx with
  | some (c, t) => c.stop.isNone && (match t.life with | .stalled _ => false | _ => true)
  | none => (match i with | .halt | .tend _ | .eret => true | _ => false)

/-- R339: a thread that now waits at its instruction for what it did not wait for before counts the stall. -/
def State.countStall (s : State) (c : Crew) (t : Thread) : State :=
  match s.threadOf? c.id t.idx with
  | some (_, u) =>
    (match u.life with
     | .stalled w =>
       (match w.stallEvent with
        | some ev => if t.life = .stalled w then s else s.countCore c.coreIx ev 1 (some (whoOf c t))
        | none => s)
     | _ => s)
  | none => s

/-! ## The sweeper (R342, R344) -/

/-- R342: a capture. -/
def Counter.capture (c : Counter) : Counter :=
  { c with
    total := c.total + (zext64 c.cnt - zext64 c.base) + zext64 c.carry * (0x100000000 - zext64 c.reload)
    base := c.cnt, carry := 0 }

/-- R344: bytes of the counter run. -/
def cntRunBytes : Nat := 552960

/-- R344: where a counter's total lies in the counter run. -/
def Counter.runOff (c : Counter) : Nat :=
  let u := c.unit.toNat
  (if u < 128 then 0x1000 * (1 + u) else if u < 132 then 0x81000 + 0x1000 * (u - 128) else 0x85000 + 0x1000 * (u - 132)) +
    8 * c.ev.toNat

/-- R342, R344: a whole sweep: every counter is captured and the counter run written. -/
def State.sweep (s0 : State) : State :=
  let s := s0.slipAll
  let cs := s.counters.map Counter.capture
  let seq := s.cntSeq + 2
  let head : Mem := Mem.put [] 0 (leBytes 8 seq ++ leBytes 8 s.clk ++ leBytes 8 (s.cntPeriod * 1000))
  { s with
    counters := cs, cntSeq := seq
    cntRun := cs.foldl (fun (m : Mem) (c : Counter) => m.put c.runOff (leBytes 8 c.total.toNat)) head }

/-- COUNTER_SWEEP (R342). -/
def execCounterSweep (s : State) : Host.Outcome State Fault Refusal := .next s.sweep

/-- Cycles of a millisecond (R321: 540,000 cycles are 200 µs). -/
def cyclesPerMs : Nat := 2700000

/-- R342, R344: whether the firmware's next sweep is due. -/
def State.sweepDue (s : State) : Bool :=
  decide (1 ≤ s.stage.toNat) && s.fw.isSome && decide (s.cntRun.nat 8 8 + s.cntPeriod * cyclesPerMs ≤ s.clk)

/-! ## Commands (R343, R355) -/

/-- CNTCFG (R342). -/
def cmdCntcfg (a : MbArgs) : State → State :=
  State.commandBody 1 a [allBits] fun s =>
    if 1 ≤ a.a0.toNat ∧ a.a0.toNat ≤ 50 then success { s with cntPeriod := a.a0.toNat } else refuse s mbBadArg

/-- CNTCFG (R342). -/
def execCntcfg (a : MbArgs) (s : State) : Host.Outcome State Fault Refusal := s.command 0x301 a cmdCntcfg

/-- R355: MBARG0 of the counter commands: unit and event, both assigned. -/
def counterArg (a : MbArgs) : Option (BitVec 8 × BitVec 9) :=
  let u : BitVec 8 := a.a0.setWidth 8
  let e : BitVec 9 := a.a0.extractLsb' 16 9
  if eventOk u.toNat e.toNat then some (u, e) else none

/-- R355: the bits of MBARG0 that the counter commands name. -/
def counterBits : Word := 0x1FF00FF

/-- CNTREAD (R343). -/
def cmdCntread (a : MbArgs) : State → State :=
  State.commandBody 1 a [counterBits] fun s =>
    match counterArg a with
    | none => refuse s mbBadArg
    | some (u, e) =>
      let c := (s.slipFor u e).counter u e
      .done mbOk [BitVec.ofNat 64 (c.carry.toNat * 2 ^ 32 + c.cnt.toNat), c.total] (s.slipFor u e)

/-- CNTREAD (R343). -/
def execCntread (a : MbArgs) (s : State) : Host.Outcome State Fault Refusal := s.command 0x302 a cmdCntread

/-- R343: a sweep-and-zero. -/
def Counter.clear (c : Counter) : Counter := { c.capture with cnt := 0, base := 0 }

/-- CNTCLR (R343). -/
def cmdCntclr (a : MbArgs) : State → State :=
  State.commandBody 1 a [counterBits] fun s =>
    match counterArg a with
    | none => refuse s mbBadArg
    | some (u, e) => success ((s.slipFor u e).setCounter ((s.slipFor u e).counter u e).clear)

/-- CNTCLR (R343). -/
def execCntclr (a : MbArgs) (s : State) : Host.Outcome State Fault Refusal := s.command 0x303 a cmdCntclr

/-- R340: a legal control word. -/
def controlOk (w : Word) : Bool :=
  w.extractLsb' 0 14 == 0 && decide ((w.extractLsb' 32 32).toNat ≤ 0xFFFF0000)

/-- R340: the control word is written. -/
def Counter.program (c : Counter) (w : Word) : Counter :=
  { c with reload := w.extractLsb' 32 32, ctx := w.extractLsb' 16 16, filt := w.getLsbD 15, sample := w.getLsbD 14 }

/-- CNTPROG (R343). -/
def cmdCntprog (a : MbArgs) : State → State :=
  State.commandBody 1 a [counterBits, allBits] fun s =>
    match counterArg a with
    | none => refuse s mbBadArg
    | some (u, e) =>
      if controlOk a.a1 then success ((s.slipFor u e).setCounter (((s.slipFor u e).counter u e).clear.program a.a1)) else refuse s mbBadArg

/-- CNTPROG (R343). -/
def execCntprog (a : MbArgs) (s : State) : Host.Outcome State Fault Refusal := s.command 0x304 a cmdCntprog

/-- CNTDUMP (R344). -/
def cmdCntdump (a : MbArgs) : State → State :=
  State.commandBody 1 a [allBits] fun s =>
    if s.hostRange a.a0 cntRunBytes 4096 then
      success { s with host := s.host.paste a.a0.toNat cntRunBytes s.cntRun }
    else refuse s mbBadArg

/-- CNTDUMP (R344). -/
def execCntdump (a : MbArgs) (s : State) : Host.Outcome State Fault Refusal := s.command 0x305 a cmdCntdump

end Sys2Proof.Machine
end

