-- ==== Sys2Proof/Machine/Launch.lean ====
section
/-! DEFINITION. The front end: launch packets and their refusal, launch queue registers, the choice and start
of launches, pre-emption, saves and what ends them, and saved tasks that resume (R21-R23, R38, R41, R42,
R304-R307, R321, R328). -/

namespace Sys2Proof.Machine

/-! ## Queues (R306) -/

/-- R306: a queue's registers at reset. -/
def LQueue.init (q : BitVec 12) : LQueue :=
  { q := q, base := 0, ctx := 0, priocap := 0, log2sz := 0, en := false, tail := 0, head := 0, errSlot := 0, errReason := 0
    pending := none, chosen := false, served := 0 }

/-- The registers of a queue. -/
def State.lq (s : State) (q : BitVec 12) : LQueue := (s.queues.find? fun l => l.q == q).getD (LQueue.init q)

/-- Put a queue's registers back; queues stand in rising order. -/
def putQueue (l : LQueue) : List LQueue → List LQueue
  | [] => [l]
  | x :: r => if x.q = l.q then l :: r else if l.q.toNat < x.q.toNat then l :: x :: r else x :: putQueue l r

/-- Put a queue's registers back. -/
def State.setLq (s : State) (l : LQueue) : State := { s with queues := putQueue l s.queues }

/-- R306: slots of a queue. -/
def LQueue.size (l : LQueue) : Nat := 2 ^ l.log2sz.toNat

/-- R306: a queue that holds more packets than slots stops with reason 7. -/
def LQueue.overflow (l : LQueue) : LQueue :=
  if l.en && decide (l.size < (l.tail - l.head).toNat) then { l with en := false, errReason := 7 } else l

/-- R306: a write to TAIL. -/
def State.writeTail (s : State) (q : BitVec 12) (v : Word) : State := s.setLq { s.lq q with tail := v.setWidth 32 }.overflow

/-- TAIL_WRITE (R306). -/
def execTailWrite (q : BitVec 12) (v : BitVec 64) (s : State) : Host.Outcome State Fault Refusal := .next (s.writeTail q v)

/-- R306: a write to QCFG: while EN is 1 it changes EN alone. -/
def State.writeQcfg (s : State) (q : BitVec 12) (v : Word) : State :=
  let l := s.lq q
  let l1 : LQueue :=
    if l.en then { l with en := v.getLsbD 0 }
    else { l with en := v.getLsbD 0, log2sz := v.extractLsb' 1 4, priocap := v.extractLsb' 10 3, ctx := v.extractLsb' 16 16 }
  s.setLq l1.overflow

/-- QCFG_WRITE (R306). -/
def execQcfgWrite (q : BitVec 12) (v : BitVec 64) (s : State) : Host.Outcome State Fault Refusal := .next (s.writeQcfg q v)

/-- R306: a write to QBASE, ignored while EN is 1. -/
def State.writeQbase (s : State) (q : BitVec 12) (v : Word) : State :=
  let l := s.lq q
  if l.en then s else s.setLq { l with base := v }

/-! ## Packets (R304, R305) -/

/-- R304, R305: whether a DONE address can be used. -/
def State.doneOk (s : State) (ctx : BitVec 16) (a : Word) : Bool :=
  addrOk a && a.toNat % 8 == 0 &&
    (match spaceOf a with
     | 1 => s.sigReach a && s.sigMine (s.ownerOf ctx) a
     | 2 => !s.hostRefuses (hostAddr ctx a) 8
     | _ => false)

/-- R305: whether a prerequisite address is within its limits and mapped. -/
def State.prqOk (s : State) (ctx : BitVec 16) (a : Word) : Bool :=
  addrOk a && a.toNat % 8 == 0 &&
    (match spaceOf a with
     | 0 => decide (a.toNat + 8 ≤ Config.spadBytes)
     | 1 => s.sigReach a && s.sigMine (s.ownerOf ctx) a
     | _ => !s.hostRefuses (hostAddr ctx a) 8)

/-- The dies of a mask, lowest first. -/
def diesOf (m : BitVec 4) : List (BitVec 2) := ((List.range 4).filter fun d => m.getLsbD d).map (BitVec.ofNat 2)

/-- R305: a packet's fields, or the reason it is refused; the checks in the order 1, 4, 2, 3, 5, 6. -/
def State.readPacket (s : State) (l : LQueue) (bs : List Byte) : Except Nat Packet :=
  let w (k : Nat) : Word := BitVec.ofNat 64 (leNat ((bs.drop (8 * k)).take 8))
  let h := w 0
  let nprq := (h.extractLsb' 52 4).toNat
  let nargs := (h.extractLsb' 48 4).toNat
  let dies : BitVec 4 := h.extractLsb' 40 4
  let prqs := (List.range nprq).map fun i => (w (18 + 2 * i), w (19 + 2 * i))
  let known := (s.ctxOf l.ctx).any fun c => c.st != .killed
  if h.extractLsb' 56 8 ≠ 0 ∨ h.extractLsb' 44 4 ≠ 0 ∨ h.extractLsb' 35 5 ≠ 0 ∨ h.extractLsb' 27 5 ≠ 0 ∨
      h.extractLsb' 2 22 ≠ 0 ∨ 12 < nargs ∨ 4 < nprq ∨ h.extractLsb' 25 2 = 3 ∨ 2 ^ 40 ≤ (w 2).toNat ∨ dies = 0 ∨
      dies &&& s.deadDies ≠ 0 then .error 1
  else
    let obj := s.codeObj l.ctx (w 1)
    if !known || (w 1).toNat % 256 != 64 || obj == .unmapped || (s.codeBad l.ctx (w 1)).isSome || !s.doneOk l.ctx (w 5) || !(prqs.all fun p => s.prqOk l.ctx p.1) then
      .error 4
    else
      match obj with
      | .good cfg =>
        if cfg.getLsbD 24 ≠ h.getLsbD 24 ∨ cfg.extractLsb' 25 2 ≠ h.extractLsb' 25 2 ∨ cfg.extractLsb' 0 2 ≠ h.extractLsb' 0 2 then .error 2
        else if (diesOf dies).any fun d => (List.range 32).any fun c =>
            decide ((cfg.extractLsb' 28 2).toNat < (s.capOf (d.toNat * 32 + c)).toNat) then .error 3
        else if (h.extractLsb' 32 3).toNat < l.priocap.toNat then .error 5
        else if (w 3).toNat < 1024 ∨ 2 ^ 32 ≤ (w 3).toNat then .error 6
        else
          .ok { slot := BitVec.ofNat 16 (l.head.toNat % l.size), ctx := l.ctx, entry := w 1, n := (w 2).toNat, ddl := (w 3).toNat
                ts := w 4, done := w 5, args := (List.range 12).map fun i => if i < nargs then w (6 + i) else 0
                prqs := prqs, dies := dies, prio := h.extractLsb' 32 3, crews := h.extractLsb' 25 2, trio := h.getLsbD 24
                count := h.extractLsb' 0 2, cfg := cfg }
      | _ => .error 2

/-- LAUNCH_PACKET_READ (R305, R306): the packet at HEAD is read; a refused one leaves ERR and DONE. -/
def execLaunchPacketRead (q : BitVec 12) (s : State) : Host.Outcome State Fault Refusal :=
  let l := s.lq q
  if s.stage = 0 ∨ !l.en ∨ l.head = l.tail ∨ l.pending.isSome then .next s
  else
    let bs := s.host.bytes (hostAddr l.ctx (l.base + BitVec.ofNat 64 (256 * (l.head.toNat % l.size)))) 256
    let l1 := { l with head := l.head + 1 }
    match s.readPacket l bs with
    | .ok p => .next (s.setLq { l1 with pending := some p })
    | .error r =>
      let done := BitVec.ofNat 64 (leNat ((bs.drop 40).take 8))
      let s0 := if r = 4 then s.withdrawBad (s.codeBad l.ctx (BitVec.ofNat 64 (leNat ((bs.drop 8).take 8)))) else s
      let s1 := s0.setLq { l1 with errSlot := BitVec.ofNat 16 (l.head.toNat % l.size), errReason := BitVec.ofNat 8 r }
      .next (if s.doneOk l.ctx done then s1.addDone l.ctx done (2 ^ 32) else s1)

/-! ## Choice and start (R307) -/

/-- R307: a prerequisite word as the front end reads it. Whose scratchpad a SPACE 0 address names is not
said, nor what another package holds: such a word is free (log 41). -/
def State.prqWord (s : State) (ctx : BitVec 16) (a : Word) : Nat :=
  match spaceOf a with
  | 1 => if sigPkg a = s.pkg then (if s.sigMine (s.ownerOf ctx) a then leNat (s.sigBytes a 8) else 0) else (Config.remoteWord s.stepNo).toNat
  | 2 => s.host.nat (hostAddr ctx a) 8
  | _ => (Config.remoteWord s.stepNo).toNat

/-- R307: every prerequisite of a packet is met. -/
def State.prqMet (s : State) (p : Packet) : Bool := p.prqs.all fun x => decide (x.2.toNat ≤ s.prqWord p.ctx x.1)

/-- R307: a prerequisite that a signal word of this package meets is met from then on, as a wait would be (DEDUCED, log
41). -/
def Packet.recheck (s : State) (p : Packet) : Packet :=
  { p with prqs := p.prqs.filter fun x =>
      !(spaceOf x.1 == 1 && sigPkg x.1 == s.pkg && decide (x.2.toNat ≤ s.prqWord p.ctx x.1)) }

/-- R307: the prerequisites of every waiting head are rechecked. -/
def State.recheckHeads (s : State) : State :=
  { s with queues := s.queues.map fun (l : LQueue) => { l with pending := l.pending.map (Packet.recheck s) } }

/-- The crew slots a packet needs: core within the package and slot. -/
def Packet.slots (p : Packet) : List (BitVec 2 × BitVec 5 × BitVec 2) :=
  ((List.range (crewsOf p.crews)).map fun k => ((diesOf p.dies).map fun d => (List.range 32).map fun c =>
    (d, BitVec.ofNat 5 c, BitVec.ofNat 2 k)).flatten).flatten

/-- R307, R335: a slot that a launch may take: its die is ready, no crew holds it, and no launch keeps it idle
but one of less urgent priority, which has no task there to save (DEDUCED, log 42). -/
def State.slotForLaunch (s : State) (p : Packet) (x : BitVec 2 × BitVec 5 × BitVec 2) : Bool :=
  let ix := x.1.toNat * 32 + x.2.1.toNat
  s.dieRdy.getLsbD x.1.toNat && !(s.crews.any fun c => c.1.coreIx == ix) &&
    !(s.launches.any fun l => decide (l.prio.toNat ≤ p.prio.toNat) && l.idle.any fun i => i.1 == ix)

/-- R307: a saved task that resumes before a launch of a priority starts on a die. -/
def State.resumesFirst (s : State) (p : Packet) : Bool :=
  s.ctxs.any fun c => c.saved.any fun a => a.resume && a.complete && p.dies.getLsbD a.die.toNat &&
    decide (a.kept.prio.toNat ≤ p.prio.toNat)

/-- R307: whether a launch may start now. -/
def State.canStart (s : State) (p : Packet) : Bool :=
  ((s.ctxOf p.ctx).any fun c => c.st != .killed) && s.prqMet p && !s.resumesFirst p && p.slots.all fun x => s.slotForLaunch p x

/-- R22: the count and first element of task `i` of `t` over `n` elements. -/
def taskShare (n t i : Nat) : Nat × Nat :=
  let q := (n + 63) / 64
  let chunks := q / t + (if i < q % t then 1 else 0)
  let first := 64 * (i * (q / t) + Nat.min i (q % t))
  (Nat.min (64 * chunks) (n - first), first)

/-- R23: one task of a launch starts. -/
def State.startStrip (p : Packet) (id t : Nat) (s : State) (x : Nat × (BitVec 2 × BitVec 5 × BitVec 2)) : State :=
  let (count, first) := taskShare p.n t x.1
  s.startCrew
    { ctx := p.ctx, die := x.2.1, core := x.2.2.1, slot := x.2.2.2, priv := false, handler := none, cfg := p.cfg
      entry := p.entry, count := count
      regs := [(1, BitVec.ofNat 64 count), (2, BitVec.ofNat 64 first)] ++
        ((List.range 12).map fun k => (3 + k, p.args.getD k 0)) ++ [(15, BitVec.ofNat 64 x.1)]
      seed := seedOf x.1 p.ts, ddl := BitVec.ofNat 32 p.ddl, ts := p.ts, launch := some id, task := x.1, spec := none
      prio := p.prio }

/-- R307: a launch that keeps crew slots idle on cores gives them up to the launch that takes the cores (DEDUCED, log
42). -/
def Launch.without (x : Launch) (cores : List Nat) : Launch := { x with idle := x.idle.filter fun i => !cores.contains i.1 }

/-- R21, R22, R38: a launch starts: its tasks in crew-index order, its other slots idle; with N = 0 it retires
at once. -/
def State.startLaunch (s : State) (l : LQueue) (p : Packet) : State :=
  let id := s.fresh
  let slots := p.slots
  let t := Nat.min slots.length ((p.n + 63) / 64)
  let rec_ : Launch :=
    { id := id, queue := some l.q, ctx := p.ctx, done := p.done, left := t
      dies := p.dies, idle := (slots.drop t).map fun x => (x.1.toNat * 32 + x.2.1.toNat, x.2.2), cfg := p.cfg, prio := p.prio }
  let s1 := { s with fresh := id + 1 }.setLq { l with pending := none, chosen := false, served := s.stepNo + 1 }
  if t = 0 then s1.addDone p.ctx p.done 1
  else
    (List.zip (List.range t) slots).foldl (State.startStrip p id t)
      { s1 with launches := (s1.launches.map fun (x : Launch) => x.without (slots.map fun y => y.1.toNat * 32 + y.2.1.toNat)) ++ [rec_] }

/-- R41, R42, R307: pre-emption of a crew is requested: a speculative task aborts instead. -/
def State.requestSave (s : State) (id : Nat) : State :=
  match s.crews.find? fun p => p.1.id == id with
  | none => s
  | some (c, _) =>
    if c.prq || c.stop.isSome then s
    else
      match c.spec with
      | some sp => if sp.oldest then raise s id else s.abortTask sp.task
      | none => raise s id
where
  /-- prq is raised and ddl loaded. -/
  raise (s : State) (id : Nat) : State :=
    s.mapCrews fun d => if d.id = id then { d with prq := true, ddl := d.ddlInit } else d

/-- R279, R307: the priority that holds a crew's slot: that of the launch its task belongs to, or, for a task in a
slot which a launch keeps idle, that launch's. -/
def State.slotPrio (s : State) (c : Crew) : Nat :=
  if c.launch.isSome || !(s.launches.any fun l => l.idle.contains (c.coreIx, c.slot)) then c.prio.toNat
  else (s.idlePrio c.coreIx c.slot).toNat

/-- R307: a chosen head asks the tasks of less urgent launches in its slots to yield. -/
def State.preemptFor (s : State) (p : Packet) : State :=
  let ids := (s.crews.filter fun c => p.dies.getLsbD c.1.die.toNat && decide (p.prio.toNat < s.slotPrio c.1)).map fun c => c.1.id
  ids.foldl State.requestSave s

/-- R307: the heads that are ready and not chosen. -/
def State.readyHeads (s : State) : List (LQueue × Packet) :=
  s.queues.filterMap fun l => match l.pending with
    | some p => if !l.chosen && s.prqMet p then some (l, p) else none
    | none => none

/-- R307: the order in which the front end takes the heads of a die: the lowest PRIO, then the queue served least
recently, then the lower queue number (log 42). -/
def headBefore (x y : LQueue × Packet) : Bool :=
  decide (x.2.prio.toNat < y.2.prio.toNat) || (x.2.prio == y.2.prio && (decide (x.1.served < y.1.served) ||
    (x.1.served == y.1.served && decide (x.1.q.toNat < y.1.q.toNat))))

/-- R307: whether a ready head is taken now: it comes first on every die that it names, and no chosen head reserves
one of them. -/
def State.headTaken (s : State) (x : LQueue × Packet) : Bool :=
  (s.queues.all fun l => !l.chosen || (l.pending.all fun t => t.dies &&& x.2.dies == 0)) &&
    s.readyHeads.all fun y => y.1.q == x.1.q || y.2.dies &&& x.2.dies == 0 || headBefore x y

/-- R307: whether the head of a queue is one that the front end takes now. -/
def State.isFirstHead (s : State) (q : BitVec 12) : Bool :=
  s.readyHeads.any fun x => x.1.q == q && s.headTaken x

/-- LAUNCH_START (R307): the head of a queue is chosen, or starts once its slots are free. -/
def execLaunchStart (q : BitVec 12) (s : State) : Host.Outcome State Fault Refusal :=
  let l := s.lq q
  match l.pending with
  | none => .next s
  | some p =>
    if s.stage = 0 then .next s
    else if l.chosen then .next (if s.canStart p then s.startLaunch l p else s.preemptFor p)
    else if s.isFirstHead q then
      .next (if s.canStart p then s.startLaunch l p else (s.setLq { l with chosen := true }).preemptFor p)
    else .next s

/-- R307: crews that a chosen head has still to ask. -/
def State.toPreempt (s : State) (p : Packet) : Bool :=
  s.crews.any fun c => p.dies.getLsbD c.1.die.toNat && decide (p.prio.toNat < s.slotPrio c.1) && !c.1.prq && c.1.stop.isNone

/-- R298: the fields of a crew's configuration word that decide where it may run. -/
def Crew.cfgWord (c : Crew) : Word :=
  BitVec.ofNat 64 (c.maxclass.toNat * 2 ^ 28 + c.crews.toNat * 2 ^ 25 + (if c.trio then 2 ^ 24 else 0))

/-- R279, R307, R327: whether a saved task can resume at a place: on its die, on a free slot of its number, and not
where a more urgent launch reserves (DEDUCED, log 42). -/
def State.canResume (s : State) (a : SavedCrew) (p : Place) : Bool :=
  a.resume && a.complete && p.die == a.die && p.slot == a.slot && s.dieRdy.getLsbD p.die.toNat &&
    s.slotTakes p.die p.core p.slot a.kept.cfgWord &&
    (a.kept.spec.isSome || s.slotFree (p.die.toNat * 32 + p.core.toNat) p.slot) &&
    !(s.queues.any fun l => l.chosen && (match l.pending with
      | some x => x.dies.getLsbD p.die.toNat && decide (x.prio.toNat < a.kept.prio.toNat)
      | none => false))

/-- SAVED_TASK_RESUME (R307). -/
def execSavedTaskResume (ctx : BitVec 16) (area : Nat) (place : Place) (s : State) : Host.Outcome State Fault Refusal :=
  match s.ctxOf ctx with
  | none => .next s
  | some c =>
    match c.saved.find? fun a => a.area == area with
    | none => .next s
    | some a =>
      if s.canResume a place then
        match s.restoreCrew ctx area place.die place.core with
        | .ok s1 => .next s1
        | .error (.uncorr d) => .next ((s.withdraw (d / 1024)).kill ctx (bareFault fltUncorr))
        | .error _ => .next s
      else .next s

/-! ## Saves (R41, R321, R328) -/

/-- R41: whether a thread counts for a save at yield. -/
def Thread.settled (t : Thread) : Bool :=
  t.sleep.isSome || (match t.life with | .run => false | _ => true)

/-- R41: whether a crew that is being saved at yield still has vector instructions to commit. -/
def drains (c : Crew) (ts : List Thread) : Bool :=
  (match c.stop with | some st => st.reason == 0 | none => false) && ts.any fun t => !t.vq.isEmpty

/-- PREEMPT_DEADLINE_EXPIRY (R41): a forced save, also of a crew whose queues have not drained for a save at yield. -/
def execPreemptDeadlineExpiry (crew : Nat) (s : State) : Host.Outcome State Fault Refusal :=
  match s.focusCrew crew with
  | none => .next s
  | some s1 =>
    if s1.crew.prq && s1.crew.ddl == 0 && (s1.crew.stop.isNone || drains s1.crew s1.team) then
      .next ((s1.stopCrew 1 none false).trySave)
    else .next s

/-- R41: whether a crew is to be saved at yield. -/
def saveDue (c : Crew) (ts : List Thread) : Bool := c.prq && c.stop.isNone && ts.all Thread.settled

/-- CREW_SAVE (R41, R321): a save at yield, or what is left of a save under way. -/
def execCrewSave (crew : Nat) (s : State) : Host.Outcome State Fault Refusal :=
  match s.focusCrew crew with
  | none => .next s
  | some s1 =>
    if s1.crew.stop.isSome then .next s1.goOnSave
    else .next (if saveDue s1.crew s1.team then s1.yieldSave else s)

/-- R321: cycles of a save deadline. -/
def saveDeadline : Nat := 540000

/-- SAVE_TIMEOUT (R328). -/
def execSaveTimeout (crew : Nat) (s : State) : Host.Outcome State Fault Refusal :=
  match s.focusCrew crew with
  | none => .next s
  | some s1 =>
    if s1.crew.stop.isSome && decide (saveDeadline ≤ s1.crew.stallCycles) then .next (s1.kill s1.crew.ctx (bareFault fltSaveTimeout))
    else .next s

/-- R318: WDOG of a context; 0 never expires. -/
def State.wdogOf (s : State) (ctx : BitVec 16) : Nat :=
  match s.ctxOf ctx with
  | some c => (match c.trap with | some g => g.wdog | none => 0)
  | none => 0

/-- HANG_WATCHDOG_EXPIRY (R328): a forced save with REASON 4, which reports FLT_HANG. -/
def execHangWatchdogExpiry (crew : Nat) (s : State) : Host.Outcome State Fault Refusal :=
  match s.focusCrew crew with
  | none => .next s
  | some s1 =>
    let w := s1.wdogOf s1.crew.ctx
    if s1.crew.stop.isNone && decide (0 < w) && decide (w ≤ s1.crew.stallCycles) then
      .next ((s1.stopCrew 4 (some (bareFault fltHang)) false).trySave)
    else .next s

end Sys2Proof.Machine
end

