-- ==== Sys2Proof/Machine/ScalarMem.lean ====
section
/-! DEFINITION. Scalar loads, stores and atomics, waits, fences and the branch queue (R237-R249). -/

namespace Sys2Proof.Machine

/-! ## Checks and order of a scalar access -/

/-- R237-R241: how a scalar access uses its word. -/
inductive AccKind where
  | load | store | atomic
  deriving DecidableEq, Repr

/-- R64, R237-R241: the checks of a scalar access of `n` bytes. An atomic needs a FULL buffer. -/
def State.scalarCheck (s : State) (k : AccKind) (a : Word) (n : Nat) : R Unit := do
  if !addrOk a then fltAt fltOperand a 0
  if a.toNat % n ≠ 0 then fltAt fltAlign a 0
  match spaceOf a with
  | 0 => do
    s.spadCheck a n (k == .store)
    s.watch false (k != .load) a.toNat n none
  | 1 => do
    if !s.sigReach a then fltAt fltHost a 0
    if k != .load && !s.sigMine s.owner a then fltAt fltSignal a 0
    if k != .load then s.watch true true a.toNat n none
  | _ => if s.hostBad a n then fltAt fltHost a 0 else .ok ()

/-- R253: the vector memory instructions, opcodes 0x50-0x57. -/
def VIns.isMem : VIns → Bool
  | .ins (.vld _ _ _ _ _) => true
  | .ins (.vst _ _ _ _ _) => true
  | .ins (.vldff _ _ _ _ _) => true
  | .ins (.vlds _ _ _ _ _) => true
  | .ins (.vsts _ _ _ _ _) => true
  | .ins (.vgaths _ _ _ _ _) => true
  | .ins (.vscats _ _ _ _ _) => true
  | .ins (.wbind _ _ _) => true
  | _ => false

/-- R247: the vector memory instructions before the thread's last fence.vs have committed and performed. -/
def Thread.vsPassed (t : Thread) : Bool :=
  (t.vq.all fun e => decide (t.vsFence < e.seq) || !e.ins.isMem) && t.unperf.all fun u => decide (t.vsFence < u.seq)

/-- R37, R240, R247, R254: what a scalar access waits for: every held access before it, and what a fence.vs orders
before it; for an atomic and for
host memory every earlier vector instruction; in a speculative task, for all but scratchpad accesses and
signal loads, that the task is the oldest. -/
def State.scalarOrder (s : State) (k : AccKind) (a : Word) : R Unit := do
  await (s.thr.held.isNone && s.thr.vsPassed) .performed
  if k == .atomic || spaceOf a == 2 then s.drained
  if k == .atomic || spaceOf a == 2 || (k == .store && spaceOf a == 1) then s.oldestOnly

/-- R273: a speculative task's scalar scratchpad access enters as the aligned 8 bytes it touches. -/
def State.scalarTouch (s : State) (a : Word) (write : Bool) : R State :=
  if spaceOf a = 0 then
    s.touch (.spad s.crew.coreIx) (a.toNat / 8 * 8) (a.toNat / 8 * 8 + 8) write
  else .ok s

/-- R239: the displaced address. -/
def dispAddr (a : Word) (x : BitVec 8) (n : Nat) : Word := a + x.signExtend 64 * BitVec.ofNat 64 n

/-- R239: bytes of a load, and its extension. -/
def ldBytes : LdSize → Nat
  | .b => 1 | .h => 2 | .w => 4 | .d => 8 | .bu => 1 | .hu => 2 | .wu => 4

/-- R239: the value a load writes. -/
def ldExtend (z : LdSize) (v : Nat) : Word :=
  match z with
  | .b => (BitVec.ofNat 8 v).signExtend 64
  | .h => (BitVec.ofNat 16 v).signExtend 64
  | .w => (BitVec.ofNat 32 v).signExtend 64
  | _ => BitVec.ofNat 64 v

/-- R239: bytes of a store. -/
def stBytes : StSize → Nat
  | .b => 1 | .h => 2 | .w => 4 | .d => 8

/-- LD (R239). -/
def execLd (d a : Opd) (x : BitVec 8) (z : LdSize) (s : State) : Host.Outcome State Fault Refusal :=
  finish s do
    let base ← s.rd a
    let addr := dispAddr base x (ldBytes z)
    s.scalarCheck .load addr (ldBytes z)
    s.wrOk d
    s.scalarOrder .load addr
    let s1 ← s.scalarTouch addr false
    let r := s1.ldRaw addr (ldBytes z)
    .ok (r.2.put d (ldExtend z r.1)).adv

/-- R254: a store performs, or is held behind the thread's uncommitted vector instructions. -/
def State.storeNow (s : State) (a : Word) (bs : List Byte) : State :=
  if s.thr.vq.isEmpty then s.stRaw a bs
  else s.modThr fun t => { t with held := some { addr := a, bytes := bs, seq := t.vseq, fenced := false } }

/-- ST (R239). -/
def execSt (d a : Opd) (x : BitVec 8) (z : StSize) (s : State) : Host.Outcome State Fault Refusal :=
  finish s do
    let base ← s.rd a
    let v ← s.rd d
    let addr := dispAddr base x (stBytes z)
    s.scalarCheck .store addr (stBytes z)
    s.scalarOrder .store addr
    let s1 ← s.scalarTouch addr true
    .ok (s1.storeNow addr (leBytes (stBytes z) v.toNat)).adv

/-! ## Atomics -/

/-- R241: bytes of an atomic. -/
def atBytes : WordSize → Nat
  | .w => 4 | .d => 8

/-- R241: an old value, sign-extended when it is a .w. -/
def atOld (z : WordSize) (v : Nat) : Word :=
  match z with
  | .w => (BitVec.ofNat 32 v).signExtend 64
  | .d => BitVec.ofNat 64 v

/-- R241: an atomic: d receives the old value, and the word what `f` makes of the old value and s(b), each
at the word's size. `host` says whether PCIe has the form. -/
def atomic (s : State) (d a b : Opd) (z : WordSize) (host : Bool) (f : Word → Word → Option Word) :
    Host.Outcome State Fault Refusal :=
  finish s do
    let addr ← s.rd a
    let y ← s.rd b
    if spaceOf addr == 2 && !host then fltAt fltOperand addr 0
    s.scalarCheck .atomic addr (atBytes z)
    s.wrOk d
    s.scalarOrder .atomic addr
    let s0 ← s.scalarTouch addr true
    let r := s0.peekRaw addr (atBytes z)
    let old := atOld z r.1
    let s1 := match f old (atOld z (y.toNat % 2 ^ (8 * atBytes z))) with
      | some v => r.2.pokeRaw addr (leBytes (atBytes z) v.toNat)
      | none => r.2
    .ok ((s1.sigEvent addr 2).put d old).adv

/-- AMO_ADD (R241). -/
def execAmoAdd (d a b : Opd) (z : WordSize) (s : State) : Host.Outcome State Fault Refusal :=
  atomic s d a b z true fun o y => some (o + y)

/-- AMO_AND (R241). -/
def execAmoAnd (d a b : Opd) (z : WordSize) (s : State) : Host.Outcome State Fault Refusal :=
  atomic s d a b z false fun o y => some (o &&& y)

/-- AMO_OR (R241). -/
def execAmoOr (d a b : Opd) (z : WordSize) (s : State) : Host.Outcome State Fault Refusal :=
  atomic s d a b z false fun o y => some (o ||| y)

/-- AMO_XOR (R241). -/
def execAmoXor (d a b : Opd) (z : WordSize) (s : State) : Host.Outcome State Fault Refusal :=
  atomic s d a b z false fun o y => some (o ^^^ y)

/-- AMO_MIN (R241). -/
def execAmoMin (d a b : Opd) (z : WordSize) (s : State) : Host.Outcome State Fault Refusal :=
  atomic s d a b z false fun o y => some (if y.slt o then y else o)

/-- AMO_MAX (R241). -/
def execAmoMax (d a b : Opd) (z : WordSize) (s : State) : Host.Outcome State Fault Refusal :=
  atomic s d a b z false fun o y => some (if o.slt y then y else o)

/-- AMO_SWAP (R241). -/
def execAmoSwap (d a b : Opd) (z : WordSize) (s : State) : Host.Outcome State Fault Refusal :=
  atomic s d a b z true fun _ y => some y

/-- CAS (R241): the expected value is s(d), which must be readable. -/
def execCas (d a b : Opd) (z : WordSize) (s : State) : Host.Outcome State Fault Refusal :=
  match s.rd d with
  | .ok e =>
    atomic s d a b z true fun o y =>
      if o = atOld z (e.toNat % 2 ^ (8 * atBytes z)) then some y else none
  | .error r => finish s (.error r)

/-- BINC (R241). -/
def execBinc (d a b : Opd) (s : State) : Host.Outcome State Fault Refusal :=
  atomic s d a b .d false fun o y => if o.ult y then some (o + 1) else none

/-! ## Fences and drains -/

/-- R251, R264: whether a core lies within a scope of another. -/
def scopeHolds (x : Scope) (me core : Nat) : Bool :=
  match x with
  | .crew | .core => core == me
  | .octet => core / 8 == me / 8
  | .die => core / 32 == me / 32
  | .domain | .system => true

/-- FENCE_SV (R247): the scalar stream performs in order, so later vector memory instructions wait for a held store
only; other instructions pass the fence. -/
def execFenceSv (_x : Scope) (s : State) : Host.Outcome State Fault Refusal :=
  finish s (.ok (s.modThr fun t => { t.next with held := t.held.map fun h => { h with fenced := true } }))

/-- FENCE_VS (R247): later scalar memory instructions wait until the vector memory instructions before it have
committed and performed; other instructions pass the fence. -/
def execFenceVs (_x : Scope) (s : State) : Host.Outcome State Fault Refusal :=
  finish s (.ok (s.modThr fun t => { t.next with vsFence := t.vseq }))

/-- The pending operations of the thread whose accesses have not all performed: a fabric message that has
been delivered has, once the push of an xsend has entered its queue (R269, R271). -/
def State.transfersLeft (s : State) : List Nat :=
  (s.ops.filter fun o => o.crew == s.crew.id && o.thread == s.thr.idx &&
    !(s.msgs.any fun m => m.op == o.id && m.delivered.isSome && !s.pushes.any fun p => p.id == m.id)).map Op.id

/-- FENCE_EE (R247): later transfers of the thread wait for the ones now pending; other instructions pass
the fence. -/
def execFenceEe (_x : Scope) (s : State) : Host.Outcome State Fault Refusal :=
  finish s (.ok (s.modThr fun t => { t.next with eeWait := s.transfersLeft }))

/-- VDRAIN (R248). -/
def execVdrain (s : State) : Host.Outcome State Fault Refusal :=
  finish s do
    s.drained
    await s.thr.unperf.isEmpty .performed
    .ok s.adv

/-- R310: the first 64 KiB page of the page that an address lies in, as a core's units translate it. -/
def State.leafOf (s : State) (ctx : BitVec 16) (core p : Nat) (write : Bool) : Nat :=
  match s.ctxOf ctx with
  | none => p
  | some c =>
    match c.tlb.find? fun e => e.covers core (p * 65536) with
    | some e => p * 65536 / pageSpan e.pgsz * pageSpan e.pgsz / 65536
    | none =>
      match s.walk c (p * 65536) write with
      | .ok (_, _, sh) => p * 65536 / 2 ^ sh * 2 ^ sh / 65536
      | .error _ => p

/-- R274: a pending transfer may have bound pages of its runs before the tfence acts, which ones being free (log
13); of one page it has bound all or nothing. -/
def State.bindEarly (s : State) (o : Op) : State :=
  let srcs := match o.kind with
    | .run _ _ l _ _ _ => l
    | .cpy _ b _ _ | .cpyd _ b _ _ => [b]
    | _ => []
  let write := match o.kind with | .cpy ctl _ _ _ => ctl.getLsbD 63 | _ => false
  let ps := (((srcs.filterMap fun b => s.ext? b.ext).map fun x => pagesOf x.va.toNat x.bytes).flatten).filter fun p =>
    (kvGet o.pages p).isNone && Config.boundEarly s.draw (s.leafOf o.ctx o.core p write)
  ps.foldl (fun s' p => match s'.translate o.ctx o.core (p * 65536) write with
    | (.ok pa, s1) => { s1 with ops := s1.ops.map fun (x : Op) => if x.id = o.id then { x with pages := (p, pa) :: x.pages } else x }
    | (.error _, s1) => s1) s

/-- R249 step 2: the context's cached translations in every unit in a scope go. In a handler task they are those of
the trapped context too, whose tables it writes (DEDUCED, log 13). -/
def State.dropTlb (s : State) (x : Scope) : State :=
  let me := s.crew.coreIx
  let mine (c : BitVec 16) : Bool := c == s.crew.ctx || s.crew.handler.any fun h => h.ctx == c
  let s1 := (s.ops.filter fun o => o.translate && mine o.ctx && scopeHolds x me o.core).foldl State.bindEarly s
  { s1 with ctxs := s1.ctxs.map fun (c : Ctx) =>
      if mine c.ctx then { c with tlb := c.tlb.filter fun e => !scopeHolds x me e.core } else c }

/-- R249: what has bound translations in a scope: the pending transfers that translate, and the run stores that have
committed and not performed. -/
def State.boundNow (s : State) (x : Scope) : TfWait :=
  let me := s.crew.coreIx
  { ops := (s.ops.filter fun o => o.translate && scopeHolds x me o.core).map Op.id
    stores := ((s.crews.filter fun p => scopeHolds x me p.1.coreIx).map fun p =>
      (p.2.map fun t => (t.unperf.filter fun u => !u.pages.isEmpty).map fun u => (p.1.id, t.idx, u.seq)).flatten).flatten }

/-- R249: whether something that a tfence waits for is still under way. -/
def State.boundLeft (s : State) (w : TfWait) : Bool :=
  s.ops.any (fun o => w.ops.contains o.id) ||
    s.crews.any fun p => p.2.any fun t => t.unperf.any fun u => w.stores.contains (p.1.id, t.idx, u.seq)

/-- TFENCE (R249): the waits of step 3 are for what had bound a translation when step 2 acts. -/
def execTfence (x : Scope) (s : State) : Host.Outcome State Fault Refusal :=
  finish s do
    need s.crew.priv fltPriv
    match s.thr.tfWait with
    | none => do
      s.drained
      await (s.thr.unperf.isEmpty && s.thr.held.isNone) .performed
      await s.transfersLeft.isEmpty .tokens
      let w := s.boundNow x
      let s1 := s.dropTlb x
      if !s.boundLeft w then .ok s1.adv
      else .ok (s1.modThr fun t => { t with tfWait := some w })
    | some w => do
      await (!s.boundLeft w) .tokens
      .ok (s.modThr fun t => { t.next with tfWait := none })

/-! ## Waits -/

/-- R243, R339: the 64-bit word at an address that a wait watches, and the state after it is read: a load, but for a
recheck of a sleeping thread's word of this package, which is none (log 43). -/
def State.waitRead (s : State) (asleep : Bool) (a : Word) : Nat × State :=
  if asleep && sigPkg a == s.pkg then s.peekRaw a 8 else s.ldRaw a 8

/-- R243, R244: a wait ends with a value in d. -/
def State.woken (s : State) (d : Fin 56) (v : Word) : State :=
  ((s.put (.s d) v).modThr fun t => { t with sleep := none }).adv

/-- R243: complete or go on with a waitc. -/
def State.pollWaitc (s : State) (asleep : Bool) (addr target : Word) (d : Fin 56) : State :=
  let r := s.waitRead asleep addr
  if target.toNat ≤ r.1 then r.2.woken d (BitVec.ofNat 64 r.1)
  else r.2.modThr fun t => { t with sleep := some (.waitc addr target d none) }

/-- A scalar code as its number; the codes a wait may name are all below 56. -/
def opdFin : Opd → Fin 56
  | .s n => n
  | _ => 0

/-- WAITC (R243). -/
def execWaitc (d a b : Opd) (s : State) : Host.Outcome State Fault Refusal :=
  finish s do
    let addr ← s.rd a
    let y ← s.rd b
    if !addrOk addr then fltAt fltOperand addr 0
    if addr.toNat % 8 ≠ 0 then fltAt fltAlign addr 0
    match spaceOf addr with
    | 0 => do
      s.spadCheck addr 8 false
      s.watch false false addr.toNat 8 none
    | 1 => do
      if !s.sigReach addr then fltAt fltHost addr 0
      if !s.sigMine s.owner addr then fltAt fltSignal addr 0
    | _ => if s.hostBad addr 8 then fltAt fltHost addr 0 else .ok ()
    s.wrOk d
    s.scalarOrder .load addr
    s.oldestOnly
    .ok (s.pollWaitc false addr y (opdFin d))

/-- R244: the rank of an entry's failure, and the fault. -/
def State.entryFault (s : State) (a : Word) : Option (Nat × Code) :=
  if !addrOk a || a.toNat % 8 ≠ 0 then some (0, fltOperand)
  else
    match spaceOf a with
    | 0 =>
      if a.toNat + 8 > Config.spadBytes then some (1, fltSpadRange)
      else if (s.bufBad s.crew.coreIx s.crew.ctx a.toNat 8 false).isSome then some (2, fltBufState)
      else none
    | 1 =>
      if !s.sigReach a then some (2, fltHost)
      else if !s.sigMine s.owner a then some (2, fltSignal)
      else none
    | _ => if s.hostBad a 8 then some (3, fltHost) else none

/-- R244: the entry whose failure is reported: the first group, and in it the lowest index. -/
def State.tableFault (s : State) (es : List (Word × Word)) : R Unit :=
  let bad (k : Nat) : Option (Word × Code) := es.findSome? fun e =>
    match s.entryFault e.1 with
    | some (r, c) => if r = k then some (e.1, c) else none
    | none => none
  match (List.range 4).findSome? bad with
  | none => .ok ()
  | some (a, c) => fltAt c a 0

/-- R244: the satisfied entries, and the state after reading them all. -/
def State.satisfied (s : State) (asleep : Bool) : List (Word × Word) → Nat → BitVec 64 × State
  | [], _ => (0, s)
  | (a, t) :: r, i =>
    let v := s.waitRead asleep a
    let rest := v.2.satisfied asleep r (i + 1)
    ((if t.toNat ≤ v.1 then rest.1 ||| BitVec.ofNat 64 (2 ^ i) else rest.1), rest.2)

/-- R244: the entries that a gcsleep has seen once a check finds some satisfied: .all keeps a record, and .any
wakes for those of the first check that finds any. -/
def gcSeen (all : Bool) (seen now : BitVec 64) : BitVec 64 := if all then seen ||| now else if seen = 0 then now else seen

/-- R244: whether what a gcsleep has seen wakes it. -/
def gcMet (all : Bool) (n : Nat) (seen : BitVec 64) : Bool :=
  if all then seen == BitVec.ofNat 64 (2 ^ n - 1) else seen != 0

/-- R244: complete or go on with a gcsleep. -/
def State.pollGc (s : State) (asleep all : Bool) (es : List (Word × Word)) (seen : BitVec 64) (d : Fin 56) : State :=
  let r := s.satisfied asleep es 0
  let seen' := gcSeen all seen r.1
  if gcMet all es.length seen' then r.2.woken d seen'
  else r.2.modThr fun t => { t with sleep := some (.gc all es seen' d) }

/-! ## Rechecks (R243) -/

/-- R243: the word that a sleeping thread of a crew watches, where every write rechecks it: a scratchpad word, or a
signal word of this package. -/
def State.seenWord (s : State) (c : Crew) (a : Word) : Option Nat :=
  match spaceOf a with
  | 0 => some (leNat (s.spadSeen c a.toNat 8))
  | 1 => if sigPkg a = s.pkg then some (if s.sigMine (s.ownerOf c.ctx) a then leNat (s.sigBytes a 8) else 0) else none
  | _ => none

/-- R244: the entries whose words are rechecked on every write and are satisfied now. -/
def gcNow (read : Word → Option Nat) : List (Word × Word) → Nat → BitVec 64
  | [], _ => 0
  | (a, t) :: r, i =>
    let rest := gcNow read r (i + 1)
    match read a with
    | some v => if t.toNat ≤ v then rest ||| BitVec.ofNat 64 (2 ^ i) else rest
    | none => rest

/-- R243, R244: a wait once its words have been rechecked: what has satisfied it stays. -/
def Sleep.recheck (read : Word → Option Nat) : Sleep → Sleep
  | .waitc a t d none =>
    .waitc a t d (match read a with | some v => if t.toNat ≤ v then some (BitVec.ofNat 64 v) else none | none => none)
  | .waitc a t d (some v) => .waitc a t d (some v)
  | .gc all es seen d => .gc all es (gcSeen all seen (gcNow read es 0)) d

/-- R243, R244: the waits of a crew's threads are rechecked. -/
def State.recheckTeam (s : State) (c : Crew) (t : Thread) : Thread :=
  match t.sleep with
  | none => t
  | some w => { t with sleep := some (w.recheck (s.seenWord c)) }

/-- R243: after a step, every sleeping thread's condition is rechecked, so that a value that satisfies it is not
missed. -/
def State.recheck (s : State) : State :=
  { s with
    thr := s.recheckTeam s.crew s.thr
    mates := s.mates.map (s.recheckTeam s.crew)
    others := s.others.map fun p => (p.1, p.2.map (s.recheckTeam p.1)) }

/-- R244: the copied table. -/
def State.waitTable (s : State) (a n : Nat) : List (Word × Word) :=
  let bs := s.spadRead a (16 * n)
  (chunksOf 16 n bs).map fun e => (BitVec.ofNat 64 (leNat (e.take 8)), BitVec.ofNat 64 (leNat (e.drop 8)))

/-- GCSLEEP (R244). -/
def gcsleep (all : Bool) (d a b : Opd) (s : State) : Host.Outcome State Fault Refusal :=
  finish s do
    let base ← s.rd a
    let n ← s.rd b
    need (decide (1 ≤ n.toNat) && decide (n.toNat ≤ 64)) fltOperand
    if base.toNat / 2 ^ 22 ≠ 0 then fltAt fltOperand base 0
    if base.toNat % 8 ≠ 0 then fltAt fltAlign base 0
    s.spadCheck base (16 * n.toNat) false
    s.watch false false base.toNat (16 * n.toNat) none
    s.wrOk d
    s.scalarOrder .load base
    s.oldestOnly
    let es := s.waitTable base.toNat n.toNat
    s.tableFault es
    es.forM fun e => if spaceOf e.1 == 0 then s.watch false false e.1.toNat 8 none else .ok ()
    if es.any (fun e => spaceOf e.1 == 2) then s.drained
    .ok (s.pollGc false all es 0 (opdFin d))

/-- GCSLEEP_ANY (R244). -/
def execGcsleepAny (d a b : Opd) (s : State) : Host.Outcome State Fault Refusal := gcsleep false d a b s

/-- GCSLEEP_ALL (R244). -/
def execGcsleepAll (d a b : Opd) (s : State) : Host.Outcome State Fault Refusal := gcsleep true d a b s

/-! ## The branch queue -/

/-- BQPUSH (R246): it waits for the earlier vector instructions, whose late fault could not take the entry
back (R315; DEDUCED, log 22). -/
def execBqpush (a : Opd) (s : State) : Host.Outcome State Fault Refusal :=
  finish s do
    need (s.crew.trio && s.thr.role == .loader) fltCrewMode
    let x ← s.rd a
    s.drained
    await s.thr.held.isNone .performed
    if s.crew.bq.length ≥ 16 then
      (if s.roleRetired .computer then flt fltRingClosed else stall .bq)
    .ok (s.modCrew fun c => { c with bq := c.bq ++ [x] }).adv

/-- BQPOP (R246). -/
def execBqpop (d : Opd) (s : State) : Host.Outcome State Fault Refusal :=
  finish s do
    need (s.crew.trio && s.thr.role == .computer) fltCrewMode
    s.wrOk d
    s.drained
    match s.crew.bq with
    | [] => if s.roleRetired .loader then flt fltRingClosed else stall .bq
    | x :: r => .ok ((s.put d x).modCrew fun c => { c with bq := r }).adv

end Sys2Proof.Machine
end

