-- ==== Sys2Proof/Machine/Debug.lean ====
section
/-! DEFINITION. Waits that end, breakpoint stops, steps, and the commands of trace, debug and replay
(R243, R244, R346-R355). -/

namespace Sys2Proof.Machine

/-! ## Sleeping threads (R243, R244) -/

/-- R237, R243: a word of the host. -/
def isHostWord (a : Word) : Bool := spaceOf a == 2

/-- A word of another package, whose changes the package does not see by itself. -/
def State.isRemoteWord (s : State) (a : Word) : Bool := spaceOf a == 1 && sigPkg a != s.pkg

/-- R243, R244: the words that a sleeping thread watches. -/
def Sleep.words : Sleep → List Word
  | .waitc a _ _ _ => [a]
  | .gc _ es _ _ => es.map Prod.fst

/-- R243, R244: the wait of the thread that issues ends with what has satisfied it, or reads its words again; event
221 counts a wake. -/
def State.pollSleep (s : State) : State :=
  let s1 := match s.thr.sleep with
    | some (.waitc _ _ d (some x)) => s.woken d x
    | some (.waitc a v d none) => s.pollWaitc true a v d
    | some (.gc all es seen d) => if gcMet all es.length seen then s.woken d seen else s.pollGc true all es seen d
    | none => s
  if s.thr.sleep.isSome ∧ s1.thr.sleep.isNone then s1.countCore s.crew.coreIx 221 1 (some (whoOf s.crew s.thr)) else s1

/-- R243, R244: whether the wait of the thread that issues is over, or a read now could change it. -/
def State.sleepDue (s : State) : Bool :=
  match s.thr.sleep with
  | some (.waitc a v _ met) => met.isSome || s.isRemoteWord a || decide (v.toNat ≤ (s.waitRead true a).1)
  | some (.gc all es seen _) =>
    gcMet all es.length seen || es.any (fun e => s.isRemoteWord e.1) ||
      (let r := (s.satisfied true es 0).1; if all then (r &&& ~~~seen) != 0 else r != 0)
  | none => false

/-- WAITC_WAKE (R243). -/
def execWaitcWake (t : TRef) (s : State) : Host.Outcome State Fault Refusal :=
  match s.focus t with
  | none => .next s
  | some s1 => (match s1.thr.sleep with | some (.waitc _ _ _ _) => .next s1.pollSleep | _ => .next s)

/-- GCSLEEP_WAKE (R244). -/
def execGcsleepWake (t : TRef) (s : State) : Host.Outcome State Fault Refusal :=
  match s.focus t with
  | none => .next s
  | some s1 => (match s1.thr.sleep with | some (.gc _ _ _ _) => .next s1.pollSleep | _ => .next s)

/-- HOST_WORD_POLL (R243): a wait on a host word reads it again. -/
def execHostWordPoll (t : TRef) (s : State) : Host.Outcome State Fault Refusal :=
  match s.focus t with
  | none => .next s
  | some s1 =>
    match s1.thr.sleep with
    | some w => .next (if w.words.any isHostWord then s1.pollSleep else s)
    | none => .next s

/-! ## Breakpoints and steps (R348-R350) -/

/-- R348, R349: whether an execute breakpoint stops a thread before its next issue. -/
def State.breaks (s : State) (ctx : BitVec 16) (t : Thread) : Bool :=
  match s.ctxOf ctx with
  | none => false
  | some c => c.dbg.isSome && !t.skipBrk && c.brks.any fun b => b.kind == 1 && b.addr == zext64 t.pc

/-- Whether a thread may try to issue: it runs or waits at an instruction, and does not sleep. -/
def Thread.canTry (t : Thread) : Bool :=
  t.sleep.isNone && (match t.life with | .run | .stalled _ => true | _ => false)

/-- BREAKPOINT_STOP (R349): an execute breakpoint, at which the first issue after the resume does not stop again. A
watchpoint stops the access that meets it. -/
def execBreakpointStop (t : TRef) (s : State) : Host.Outcome State Fault Refusal :=
  match s.focus t with
  | none => .next s
  | some s1 =>
    if s1.thr.canTry && s1.crew.stop.isNone && s1.breaks s1.crew.ctx s1.thr then
      .next (s1.whenDue fun s2 =>
        (s2.modThr fun t => { t with skipBrk := true }).stopForDebug 0 (some (faultOf s2.crew s2.thr { code := 0 })))
    else .next s

/-- R350: whether every effect of a stepped instruction has drained. -/
def State.stepDrained (s : State) (c : Crew) (t : Thread) (k : Nat) : Bool :=
  t.vq.isEmpty && t.unperf.isEmpty && t.held.isNone && t.sleep.isNone &&
    (match t.life with | .stalled _ => false | _ => true) &&
    (decide (k < 8) || !t.needVl || c.consumed[t.strips]?.isSome) &&
    !(s.ops.any fun o => o.crew == c.id && o.thread == t.idx) &&
    !(s.pushes.any fun p => p.thread == c.id * 4 + t.idx)

/-- R350: whether a crew's step has ended; `stepping` counts 4 once the instruction has issued and 8 more for
strip and setvl. -/
def State.stepDone (s : State) (c : Crew) (ts : List Thread) : Bool :=
  match c.stepping with
  | none => false
  | some k => decide (4 ≤ k) && c.stop.isNone && (match ts.find? fun t => t.idx == k % 4 with
    | some t => s.stepDrained c t k
    | none => true)

/-- STEP_COMPLETE (R350): a strip of a computer or storer has its vl by then. -/
def execStepComplete (crew : Nat) (s : State) : Host.Outcome State Fault Refusal :=
  match s.focusCrew crew with
  | none => .next s
  | some s1 =>
    if s1.stepDone s1.crew (s1.thr :: s1.mates) then
      match s1.focusIdx ((s1.crew.stepping.getD 0) % 4) with
      | some s2 => .next ((match (if 8 ≤ s1.crew.stepping.getD 0 then s2.vlReady else .ok s2) with
          | .ok s3 => s3
          | .error _ => s2).stopForDebug 2 none)
      | none => .next (s1.stopForDebug 2 none)
    else .next s

/-! ## Commands (R346, R348, R350, R351, R355) -/

/-- R346: an OPEN run of a record size in a driver context. -/
def State.logRun (s : State) (drv : BitVec 16) (h : Word) (rsz : BitVec 2) (open_ : Bool) : Bool :=
  match s.driverRun drv h with
  | some e => e.rsz == rsz && (e.st == .opened || (!open_ && e.st == .published))
  | none => false

/-- TRCCFG (R346), its operands in the rule's order, one word each (log 45). -/
def cmdTrccfg (a : MbArgs) : State → State :=
  State.commandBody 1 a [0xFFFF, allBits, 0xFFFF, allBits, 1] fun s =>
    let drv := ctxField a.a2
    if (s.ctxOf (ctxField a.a0)).isNone || !s.logRun drv a.a3 2 true then refuse s mbBadArg
    else success (s.modCtx (ctxField a.a0) fun c => { c with
      trc := some { mask := a.a1, drv := drv, run := a.a3, stopMode := a.a4.getLsbD 0 } })

/-- TRCCFG (R346). -/
def execTrccfg (a : MbArgs) (s : State) : Host.Outcome State Fault Refusal := s.command 0x306 a cmdTrccfg

/-- DBGATTACH (R348). -/
def cmdDbgattach (a : MbArgs) : State → State :=
  State.commandBody 1 a [0x1FFFF] fun s =>
    if (s.ctxOf (ctxField a.a0)).isNone then refuse s mbBadArg
    else success (s.modCtx (ctxField a.a0) fun c => { c with dbg := some (a.a0.getLsbD 16) })

/-- DBGATTACH (R348). -/
def execDbgattach (a : MbArgs) (s : State) : Host.Outcome State Fault Refusal := s.command 0x307 a cmdDbgattach

/-- R348: a legal breakpoint. -/
def brkOk (b : Brk) : Bool :=
  match b.kind.toNat with
  | 0 => true
  | 1 => decide (b.addr.toNat < 2 ^ 56)
  | 2 | 3 => decide (b.addr.toNat < Config.spadBytes) && decide (1 ≤ b.len.toNat) && decide (b.len.toNat ≤ 3145728)
  | 4 => spaceOf b.addr == 1 && addrOk b.addr
  | _ => false

/-- BRKSET (R348). -/
def cmdBrkset (a : MbArgs) : State → State :=
  State.commandBody 1 a [0xFFFF0077, allBits, allBits] fun s =>
    let ctx : BitVec 16 := a.a0.extractLsb' 16 16
    let b : Brk := { slot := a.a0.setWidth 3, kind := a.a0.extractLsb' 4 3, addr := a.a1, len := a.a2 }
    match s.ctxOf ctx with
    | none => refuse s mbBadArg
    | some c =>
      if !brkOk b then refuse s mbBadArg
      else if c.dbg.isNone then refuse s mbDenied
      else success (s.modCtx ctx fun d => { d with
        brks := (d.brks.filter fun x => x.slot != b.slot) ++ (if b.kind = 0 then [] else [b]) })

/-- BRKSET (R348). -/
def execBrkset (a : MbArgs) (s : State) : Host.Outcome State Fault Refusal := s.command 0x308 a cmdBrkset

/-- The core on which a saved crew is to stand: its image's, or its own (R326). -/
def Ctx.homeOf (c : Ctx) (a : SavedCrew) : Nat :=
  match c.images.find? fun i => i.areas.contains a.area with
  | some i => i.loaded.getD a.kept.coreIx
  | none => a.kept.coreIx

/-- STEP (R350): MBARG0 holds CTX in its low 16 bits, which are 0 in an area offset, and the offset above them
(log 45). -/
def cmdStep (a : MbArgs) : State → State :=
  State.commandBody 1 a [allBits, 3] fun s =>
    let ctx := ctxField a.a0
    let area := a.a0.toNat / 65536 * 65536
    let k := a.a1.toNat % 4
    match s.ctxOf ctx with
    | none => refuse s mbBadArg
    | some c =>
      if c.dbg.isNone then refuse s mbDenied
      else
        match c.saved.find? fun x => x.area == area with
        | none => refuse s mbBadImg
        | some x =>
          if !(x.threads[k]?.any fun t => t.life != .retired) then refuse s mbBadArg
          else
            let h := c.homeOf x
            match s.restoreAt ctx area (BitVec.ofNat 2 (h / 32)) (BitVec.ofNat 5 (h % 32)) with
            | .error (st, r) => .done st r (s.areaRead ctx area st)
            | .ok s1 => success (s1.modCrew fun d => { d with stepping := (x.threads[k]?).map fun t => t.idx % 4 })

/-- STEP (R350). -/
def execStep (a : MbArgs) (s : State) : Host.Outcome State Fault Refusal := s.command 0x309 a cmdStep

/-- R350: a crew that is running or stepping stops with cause 3. A step's instruction that has not issued, or waits,
has had no effect; what one that has issued still has pending is saved as every save does (R211, R315; log 45). -/
def State.debugStop (s : State) (id : Nat) : State :=
  match s.focusCrew id with
  | none => s
  | some s1 =>
    let s2 := match s1.crew.stepping with
      | some k => (s1.focusIdx (k % 4)).getD s1
      | none => s1
    if s2.crew.stop.isSome then s else s2.stopForDebug 3 none

/-- DBGSTOP (R350): MBARG0 holds CTX in bits 15:0 and the crew, coded as in SAVE, in bits 24:16 (log 45). -/
def cmdDbgstop (a : MbArgs) : State → State :=
  State.commandBody 1 a [0x1FFFFFF] fun s =>
    match s.crewAt (ctxField a.a0) (crewField (a.a0.extractLsb' 16 9)) with
    | none => refuse s mbBadArg
    | some c => success (s.debugStop c.id)

/-- DBGSTOP (R350). -/
def execDbgstop (a : MbArgs) (s : State) : Host.Outcome State Fault Refusal := s.command 0x30A a cmdDbgstop

/-- RPLCFG (R351): MBARG0 holds CTX in bits 15:0 and the mode in bits 17:16 (log 45). -/
def cmdRplcfg (a : MbArgs) : State → State :=
  State.commandBody 1 a [0x3FFFF, 0xFFFF, allBits] fun s =>
    let m : BitVec 2 := a.a0.extractLsb' 16 2
    let ctx := ctxField a.a0
    if (s.ctxOf ctx).isNone || m == 3 then refuse s mbBadArg
    else if m = 0 then success (s.modCtx ctx fun c => { c with rpl := none })
    else if !s.logRun (ctxField a.a1) a.a2 1 (m == 1) then refuse s mbBadArg
    else success (s.modCtx ctx fun c => { c with rpl := some { mode := m, drv := ctxField a.a1, run := a.a2, used := [] } })

/-- RPLCFG (R351). -/
def execRplcfg (a : MbArgs) (s : State) : Host.Outcome State Fault Refusal := s.command 0x30B a cmdRplcfg

end Sys2Proof.Machine
end

