-- ==== Sys2Proof/Machine/Merge.lean ====
section
/-! DEFINITION. Merging, joining and set operations: the merge control word, folding groups, user merges
through the lent rings, rjoin, rset, rdedup and rcount, and the end of every run engine operation
(R144-R158). -/

namespace Sys2Proof.Machine

/-! ## The rmerge control word (R147) -/

/-- R147: the fields. -/
structure MergeCtl where
  woff : Nat
  nv : Nat
  voff : Nat
  vtype : Nat
  kt : Bool
  mcnt : Nat
  deriving DecidableEq, Repr

/-- R147: the fields of a control word. -/
def mergeCtl (w : Word) : MergeCtl :=
  { woff := (w.extractLsb' 24 6).toNat, nv := (w.extractLsb' 16 5).toNat, voff := (w.extractLsb' 10 6).toNat
    vtype := (w.extractLsb' 8 2).toNat, kt := w.getLsbD 4, mcnt := (w.extractLsb' 0 4).toNat }

/-- R147: bytes of a lane. -/
def MergeCtl.lsz (m : MergeCtl) : Nat := if m.vtype < 2 then 4 else 2

/-- R147: a combine that has value lanes. -/
def hasLanes (f : Fin 8) : Bool := decide (1 ≤ f.val) && decide (f.val ≤ 4) || f == 7

/-- R147: the limits that the control word decides alone. -/
def MergeCtl.alone (m : MergeCtl) (w : Word) (f : Fin 8) : Bool :=
  let vend := m.voff + m.nv * m.lsz
  w.extractLsb' 30 34 == 0 && w.extractLsb' 21 3 == 0 && w.extractLsb' 5 3 == 0 &&
    (if hasLanes f then decide (1 ≤ m.nv) && m.voff % m.lsz == 0
     else m.nv == 0 && m.voff == 0 && m.vtype == 0) &&
    (if f = 2 then m.vtype != 1 && m.woff % 4 == 0 && (decide (m.woff + 4 ≤ m.voff) || decide (vend ≤ m.woff))
     else m.woff == 0) &&
    (f != 7 || decide (m.vtype ≤ 1))

/-- R147: the limits stated in terms of K and RSZ. -/
def MergeCtl.fits (m : MergeCtl) (f : Fin 8) (k rsz : Nat) : Bool :=
  (!hasLanes f || (decide (k ≤ m.voff) && decide (m.voff + m.nv * m.lsz ≤ rsz))) &&
    (f != 2 || (decide (k ≤ m.woff) && decide (m.woff + 4 ≤ rsz))) &&
    (!m.kt || (decide (k + 4 ≤ rsz) && (!hasLanes f || decide (k + 4 ≤ m.voff)) && (f != 2 || decide (k + 4 ≤ m.woff))))

/-! ## Folding a group (R148, R149) -/

/-- R148: the bits of lane `l` of a record. -/
def MergeCtl.lane (m : MergeCtl) (r : List Byte) (l : Nat) : Nat := leNat ((r.drop (m.voff + l * m.lsz)).take m.lsz)

/-- R148: the weight of a record. -/
def MergeCtl.weight (m : MergeCtl) (r : List Byte) : Nat := leNat ((r.drop m.woff).take 4)

/-- Bytes of a record replaced from an offset. -/
def patch (r : List Byte) (k : Nat) (bs : List Byte) : List Byte := r.take k ++ bs ++ r.drop (k + bs.length)

/-- R147: the narrow float type of a lane. -/
def MergeCtl.fmt (m : MergeCtl) : Option Fmt := match m.vtype with | 2 => some fmtBf | 3 => some fmt16 | _ => none

/-- R149: a lane widened to f32. -/
def MergeCtl.widen (m : MergeCtl) (x : Nat) : Nat :=
  match m.fmt with
  | some f => (fmt32.convert .rne false (f.decode x)).bits
  | none => x

/-- R149: a folded lane rounded to its type. -/
def MergeCtl.narrow (m : MergeCtl) (x : Nat) : Nat × FF :=
  match m.fmt with
  | some f => ((f.convert .rne false (fmt32.decode x)).bits, (f.convert .rne false (fmt32.decode x)).fl)
  | none => (x, 0)

/-- R148, R149: one fold step of a lane for add, min and max. -/
def MergeCtl.step (m : MergeCtl) (f : Fin 8) (x y : Nat) : Nat × FF :=
  let s32 (v : Nat) : Int := if v < 2 ^ 31 then v else (v : Int) - 2 ^ 32
  if m.vtype = 1 then
    match f.val with
    | 1 => ((x + y) % 2 ^ 32, 0)
    | 3 => (if s32 y < s32 x then y else x, 0)
    | _ => (if s32 x < s32 y then y else x, 0)
  else
    let r := match f.val with
      | 1 => fmt32.add .rne x y
      | 3 => fmt32.minmax false x y
      | _ => fmt32.minmax true x y
    (r.bits, r.fl)

/-- A record under fold: its lanes in f32 (or i32), its weight and the flags so far. -/
structure Fold where
  lanes : List Nat
  w : Nat
  fl : FF
  deriving DecidableEq, Repr

/-- R148: the fold of a record into the accumulator. -/
def MergeCtl.comb (m : MergeCtl) (f : Fin 8) (a : Fold) (r : List Byte) : Fold :=
  let xs := (List.range m.nv).map fun l => m.widen (m.lane r l)
  if f = 2 then
    let wx := m.weight r
    let ls := (List.zip a.lanes xs).map fun p => fmt32.fma .rne wx p.2 p.1
    let ws := fmt32.add .rne a.w wx
    { lanes := ls.map FRes.bits, w := ws.bits, fl := a.fl ||| orFlags (ls.map FRes.fl) ||| ws.fl }
  else
    let ls := (List.zip a.lanes xs).map fun p => m.step f p.1 p.2
    { lanes := ls.map Prod.fst, w := a.w, fl := a.fl ||| orFlags (ls.map Prod.snd) }

/-- R148: the accumulator that the first record of a group starts. -/
def MergeCtl.start (m : MergeCtl) (f : Fin 8) (r : List Byte) : Fold :=
  let xs := (List.range m.nv).map fun l => m.widen (m.lane r l)
  if f = 2 then
    let ls := xs.map fun x => fmt32.mul .rne (m.weight r) x
    { lanes := ls.map FRes.bits, w := m.weight r, fl := orFlags (ls.map FRes.fl) }
  else { lanes := xs, w := 0, fl := 0 }

/-- R148: lanes written into a record. -/
def MergeCtl.putLanes (m : MergeCtl) (r : List Byte) (ls : List Nat) : List Byte :=
  if ls.isEmpty then r else patch r m.voff ((ls.map fun x => leBytes m.lsz x).flatten)

/-- R148, R149: the output record of a group with the flags of producing it. -/
def MergeCtl.group (m : MergeCtl) (f : Fin 8) : List (List Byte) → List Byte × FF
  | [] => ([], 0)
  | g0 :: rest =>
    if f = 5 then (g0, 0)
    else if f = 6 then ((g0 :: rest).getLast?.getD g0, 0)
    else if rest.isEmpty && f != 2 then (g0, 0)
    else
      let a := rest.foldl (m.comb f) (m.start f g0)
      let ls := a.lanes.map m.narrow
      let r := m.putLanes g0 (ls.map Prod.fst)
      ((if f = 2 then patch r m.woff (leBytes 4 a.w) else r), a.fl ||| orFlags (ls.map Prod.snd))

/-- R148: the maximal groups of consecutive records that are equal. -/
def groupsOf (same : List Byte → List Byte → Bool) : List (List Byte) → List (List (List Byte))
  | [] => []
  | r :: rest =>
    match groupsOf same rest with
    | (x :: g) :: gs => if same r x then (r :: x :: g) :: gs else [r] :: (x :: g) :: gs
    | gs => [r] :: gs

/-- R148: seq. -/
def mergeSeq (e : CabEntry) (kt : Bool) (srcs : List (List (List Byte))) : List (List Byte) :=
  sortRecs e kt srcs.flatten

/-! ## rjoin, rset, rdedup, rcount -/

/-- R154: the output of a join. -/
def joinRecs (l r : CabEntry) (rsz : Nat) (drop : Bool) (fill : Word) (ls rs : List (List Byte)) : List (List Byte) :=
  let k := l.keySize
  (ls.map fun q =>
    let hits := rs.filter fun h => recOrd r h == recOrd l q
    let tag := (q.drop k).take 4
    if hits.isEmpty then
      (if drop then []
       else [q.take k ++ tag ++ (List.range (rsz - (k + 4))).map fun i => fill.extractLsb' (8 * (i % 8)) 8])
    else hits.map fun h => patch h k tag).flatten

/-- R155: the output of a set operation: 0 intersection, 1 union, 2 difference. -/
def setRecs (e : CabEntry) (f : Fin 3) (ls rs : List (List Byte)) : List (List Byte) :=
  let has (l : List (List Byte)) (q : List Byte) : Bool := l.any fun x => recOrd e x == recOrd e q
  match f.val with
  | 0 => ls.filter (has rs)
  | 1 => sortRecs e false (ls ++ rs.filter fun r => !has ls r)
  | _ => ls.filter fun q => !has rs q

/-- R158: the count record of a group, and SAT when it saturates. -/
def countRec (e : CabEntry) (rsz : Nat) (g : List (List Byte)) : List Byte × FF :=
  let k := e.keySize
  let n := g.length
  ((g.headD []).take k ++ leBytes 4 (Nat.min n 0xFFFFFFFF) ++ List.replicate (rsz - (k + 4)) 0,
   if 2 ^ 32 ≤ n then fSAT else 0)

/-! ## Issue -/

/-- R144: the field rules of F3 run engine operations: a token and a destination that are not s0. -/
def runFields (d a : Opd) : R Unit := do
  tokenReg d
  need (isScalar a && opdNum a != 0) fltIllegal

/-- R151: the crew's instructions that name ka3 or kb3 have committed and both rings are empty. -/
def State.lendReady (s : State) : Bool :=
  s.crew.lend.isNone && s.crew.rings[(3 : Fin 8)].isEmpty && s.crew.rings[(7 : Fin 8)].isEmpty &&
    (s.thr :: s.mates).all fun t => t.vq.all fun e =>
      !(e.named.contains 3 || e.named.contains 7)

/-- R147, R148, R151: rmerge. -/
def rmerge (f : Fin 8) (d a b : Opd) (s : State) : Host.Outcome State Fault Refusal :=
  finish s do
    runFields d a
    if f = 7 then need (s.crew.trio && s.thr.role == .computer) fltCrewMode
    let hd ← s.rd a
    let ctl ← s.rd b
    let m := mergeCtl ctl
    need (decide (opdNum b + m.mcnt + 1 ≤ 55)) fltOperand
    let hs ← s.rdBlock b 1 (m.mcnt + 1)
    let rs := s.runRanges [hd] hs []
    s.enterRun d rs
    need (m.alone ctl f) fltOperand
    let s0 ← if f = 7 then s.vlReady else .ok s
    if f = 7 then need (s0.thr.csr.vl != 0) fltOperand
    let n ← s0.named hd
    let xs ← hs.mapM s0.named
    s0.statesOk [n] xs
    xs.forM fun x => needObj (x.e.sorted m.kt) fltRunOrder x.h
    xs.forM fun x => needObj (sameFmt x.e n.e) fltRunFormat x.h
    need (m.fits f n.e.keySize n.e.recSize) fltOperand
    if f = 7 then do
      await s0.lendReady .lend
      let op := s0.fresh
      let s1 ← s0.startRun d (.merge f) [n] xs ctl [] (some
        { started := false, groups := [], round := [], out := [], results := [], last := false }) rs
      .ok (s1.modCrew fun c => { c with lend := some { op := op, vu := s0.thr.csr.vl.toNat } })
    else s0.startRun d (.merge f) [n] xs ctl [] none rs

/-- RMERGE_NONE (R148). -/
def execRmergeNone (d a b : Opd) (s : State) : Host.Outcome State Fault Refusal := rmerge 0 d a b s
/-- RMERGE_ADD (R148). -/
def execRmergeAdd (d a b : Opd) (s : State) : Host.Outcome State Fault Refusal := rmerge 1 d a b s
/-- RMERGE_WADD (R148). -/
def execRmergeWadd (d a b : Opd) (s : State) : Host.Outcome State Fault Refusal := rmerge 2 d a b s
/-- RMERGE_MIN (R148). -/
def execRmergeMin (d a b : Opd) (s : State) : Host.Outcome State Fault Refusal := rmerge 3 d a b s
/-- RMERGE_MAX (R148). -/
def execRmergeMax (d a b : Opd) (s : State) : Host.Outcome State Fault Refusal := rmerge 4 d a b s
/-- RMERGE_FIRST (R148). -/
def execRmergeFirst (d a b : Opd) (s : State) : Host.Outcome State Fault Refusal := rmerge 5 d a b s
/-- RMERGE_LAST (R148). -/
def execRmergeLast (d a b : Opd) (s : State) : Host.Outcome State Fault Refusal := rmerge 6 d a b s
/-- RMERGE_USER (R151). -/
def execRmergeUser (d a b : Opd) (s : State) : Host.Outcome State Fault Refusal := rmerge 7 d a b s

/-- R154: rjoin. -/
def rjoin (drop : Bool) (d a b : Opd) (s : State) : Host.Outcome State Fault Refusal :=
  finish s do
    runFields d a
    let b1 ← opdPlus b 1
    let b2 ← opdPlus b 2
    let hd ← s.rd a
    let hl ← s.rd b
    let hr ← s.rd b1
    let fill ← s.rd b2
    let rs := s.runRanges [hd] [hl, hr] []
    s.enterRun d rs
    let n ← s.named hd
    let l ← s.named hl
    let r ← s.named hr
    s.statesOk [n] [l, r]
    needObj (l.e.sorted false) fltRunOrder hl
    needObj (r.e.sorted false) fltRunOrder hr
    let k := l.e.keySize
    needObj (l.e.ksz == n.e.ksz && l.e.kmode == n.e.kmode && decide (k + 4 ≤ l.e.recSize)) fltRunFormat hl
    needObj (sameFmt r.e n.e && decide (k + 4 ≤ r.e.recSize)) fltRunFormat hr
    s.startRun d (.join drop) [n] [l, r] fill [] none rs

/-- RJOIN (R154). -/
def execRjoin (d a b : Opd) (s : State) : Host.Outcome State Fault Refusal := rjoin false d a b s
/-- RJOIN_DROP (R154). -/
def execRjoinDrop (d a b : Opd) (s : State) : Host.Outcome State Fault Refusal := rjoin true d a b s

/-- R155: rset. -/
def rset (f : Fin 3) (d a b : Opd) (s : State) : Host.Outcome State Fault Refusal :=
  finish s do
    runFields d a
    let b1 ← opdPlus b 1
    let hd ← s.rd a
    let hl ← s.rd b
    let hr ← s.rd b1
    let rs := s.runRanges [hd] [hl, hr] []
    s.enterRun d rs
    let n ← s.named hd
    let l ← s.named hl
    let r ← s.named hr
    s.statesOk [n] [l, r]
    needObj (l.e.sorted false) fltRunOrder hl
    needObj (r.e.sorted false) fltRunOrder hr
    needObj (sameFmt l.e n.e) fltRunFormat hl
    needObj (sameFmt r.e n.e) fltRunFormat hr
    s.startRun d (.set f) [n] [l, r] 0 [] none rs

/-- RSET_ISECT (R155). -/
def execRsetIsect (d a b : Opd) (s : State) : Host.Outcome State Fault Refusal := rset 0 d a b s
/-- RSET_UNION (R155). -/
def execRsetUnion (d a b : Opd) (s : State) : Host.Outcome State Fault Refusal := rset 1 d a b s
/-- RSET_DIFF (R155). -/
def execRsetDiff (d a b : Opd) (s : State) : Host.Outcome State Fault Refusal := rset 2 d a b s

/-- RDEDUP (R157). -/
def execRdedup (d a b : Opd) (s : State) : Host.Outcome State Fault Refusal :=
  finish s do
    runFields d a
    let b1 ← opdPlus b 1
    let hd ← s.rd a
    let hx ← s.rd b
    let ctl ← s.rd b1
    let rs := s.runRanges [hd] [hx] []
    s.enterRun d rs
    need (ctl.extractLsb' 1 63 == 0) fltOperand
    let n ← s.named hd
    let x ← s.named hx
    s.statesOk [n] [x]
    needObj (x.e.sorted (ctl.getLsbD 0)) fltRunOrder hx
    needObj (!(ctl.getLsbD 0 && x.e.ksz && x.e.rsz == 0)) fltRunFormat hx
    needObj (sameFmt x.e n.e) fltRunFormat hx
    s.startRun d .dedup [n] [x] ctl [] none rs

/-- RCOUNT (R158). -/
def execRcount (d a b : Opd) (s : State) : Host.Outcome State Fault Refusal :=
  finish s do
    runFields d a
    let hd ← s.rd a
    let hx ← s.rd b
    let rs := s.runRanges [hd] [hx] []
    s.enterRun d rs
    let n ← s.named hd
    let x ← s.named hx
    s.statesOk [n] [x]
    needObj (x.e.sorted false) fltRunOrder hx
    needObj (n.e.ksz == x.e.ksz && n.e.kmode == x.e.kmode && decide (x.e.keySize + 4 ≤ n.e.recSize)) fltRunFormat hd
    s.startRun d .count [n] [x] 0 [] none rs

/-! ## The outputs of every operation -/

/-- R124: the SORT of a code. -/
def sortOfCode (n : Nat) : SortSt := if n = 1 then .key else if n = 2 then .keyTag else .unsorted

/-- The output of an operation that is no user merge, from its sources' records: what each destination
receives and the flags of the token. -/
def runOutputs (f : RunFn) (dst : CabEntry) (dsts : List Nat) (ctl : Word) (extra : List Word)
    (srcs : List (CabEntry × List (List Byte))) : List Output × FF :=
  let d0 := dsts.headD 0
  let s0 := srcs.headD (dst, [])
  let s1 := (srcs.drop 1).headD (dst, [])
  let one (rs : List (List Byte)) (st : SortSt) (fl : FF) : List Output × FF := ([{ idx := d0, recs := rs, sort := st }], fl)
  match f with
  | .splice => one (s0.2 ++ s1.2) .unsorted 0
  | .tag => one ((List.zip s0.2 (List.range s0.2.length)).map fun p => tagRec s0.1 ctl p.2 p.1) .unsorted 0
  | .sort kt => one (sortRecs s0.1 kt s0.2) (sortedBy kt) 0
  | .part =>
    ((List.zip dsts (List.range dsts.length)).map fun p =>
      { idx := p.1, recs := s0.2.filter fun r => partOfRec s0.1 extra r == p.2, sort := sortOfCode ctl.toNat }, 0)
  | .merge c =>
    let m := mergeCtl ctl
    let seq := mergeSeq dst m.kt (srcs.map Prod.snd)
    if c = 0 then one seq (sortedBy m.kt) 0
    else
      let gs := (groupsOf (recEq dst m.kt) seq).map (m.group c)
      one (gs.map Prod.fst) (sortedBy m.kt) (orFlags (gs.map Prod.snd))
  | .join drop => one (joinRecs s0.1 s1.1 dst.recSize drop ctl s0.2 s1.2) .unsorted 0
  | .set x => one (setRecs dst x s0.2 s1.2) .unsorted 0
  | .dedup => one ((groupsOf (recEq s0.1 (ctl.getLsbD 0)) s0.2).filterMap List.head?) .unsorted 0
  | .count =>
    let gs := (groupsOf (recEq s0.1 false) s0.2).map (countRec s0.1 dst.recSize)
    one (gs.map Prod.fst) .unsorted (orFlags (gs.map Prod.snd))

/-! ## User merges (R151-R153) -/

/-- Change the user merge of an operation. -/
def State.setUser (s : State) (op : Nat) (u : UserMerge) : State :=
  { s with ops := s.ops.map fun (o : Op) =>
      if o.id = op then
        { o with kind := match o.kind with
            | .run f d x c e _ => .run f d x c e (some u)
            | k => k }
      else o }

/-- R151, R153: the lent rings come back empty. -/
def State.returnRings (s : State) (op : Nat) : State :=
  s.mapCrews fun c => match c.lend with
    | some l => if l.op = op then { c with lend := none, rings := (c.rings.set 3 []).set 7 [] } else c
    | none => c

/-- R152: the entries of a round over the groups of given numbers: a control entry, then A and B of each
lane; the elements of A and B beyond the live pairs are 0 (DESIGN CHOICE, log 77). -/
def roundEntries (m : MergeCtl) (vu : Nat) (u : UserMerge) (gs : List Nat) : List (List Nat) :=
  let pad (l : List Nat) : List Nat := l ++ List.replicate (vu - l.length) 0
  let pair (g : Nat) : List Byte × List Byte := match u.groups[g]? with
    | some (acc, x :: _) => (acc, x)
    | _ => ([], [])
  pad (gs.map fun _ => 1) :: ((List.range m.nv).map fun l =>
    [pad (gs.map fun g => m.lane (pair g).1 l), pad (gs.map fun g => m.lane (pair g).2 l)]).flatten

/-- R152: the results of a round replace the lanes of its groups. -/
def UserMerge.fold (m : MergeCtl) (u : UserMerge) : UserMerge :=
  let upd (p : (List Byte × List (List Byte)) × Nat) : List Byte × List (List Byte) :=
    match u.round.findIdx? fun g => g == p.2 with
    | none => p.1
    | some i => (m.putLanes p.1.1 (u.results.map fun r => r.getD i 0), p.1.2.drop 1)
  { u with groups := (List.zip u.groups (List.range u.groups.length)).map upd, round := [], results := [] }

/-- R151-R153: one action of the engine in a user merge; none while it waits for the computer. A round carries the
unfinished groups of lowest number, at most VU, from element 0 on (DESIGN CHOICE, log 77). -/
def State.userStep (s : State) (o : Op) (dst : CabEntry) (dsts : List Nat) (srcs : List Bound) (ctl : Word)
    (u : UserMerge) : R (Option State) :=
  let m := mergeCtl ctl
  match s.focusCrew o.crew with
  | none => .ok none
  | some s1 =>
    match s1.crew.lend with
    | none => .ok none
    | some l =>
      if !u.started then
        match s1.sourceRecs o srcs with
        | (.error c, s2) => .ok (some ((s2.returnRings o.id).failRun o c))
        | (.ok xs, s2) =>
          let gs := (groupsOf (recEq dst m.kt) (mergeSeq dst m.kt (xs.map Prod.snd))).map fun g =>
            (g.headD [], g.drop 1)
          .ok (some (s2.setUser o.id { u with started := true, groups := gs }))
      else if s1.crew.rings[(7 : Fin 8)].any fun e => e.count != l.vu then
        .ok (some ((s1.returnRings o.id).failRun o fltOperand))
      else if !u.out.isEmpty && decide (s1.crew.rings[(3 : Fin 8)].length < 4) then
        let r : RingEntry := { count := l.vu, esz := 4, unit := 4, per := 1, strip := 0, bytes := bytesOfElems 4 (u.out.headD []) }
        .ok (some ((s1.modCrew fun c => { c with rings := c.rings.set 3 (c.rings[(3 : Fin 8)] ++ [r]) }).setUser o.id
          { u with out := u.out.drop 1 }))
      else if !u.round.isEmpty then
        match s1.crew.rings[(7 : Fin 8)] with
        | [] => .ok none
        | e :: rest =>
          let s2 := s1.modCrew fun c => { c with rings := c.rings.set 7 rest }
          let u1 := { u with results := u.results ++ [elemsOf 4 l.vu (s2.entryBytes e (4 * l.vu))] }
          .ok (some (s2.setUser o.id (if u1.results.length = m.nv then u1.fold m else u1)))
      else if !u.out.isEmpty then .ok none
      else if !u.last then
        let gs := ((List.range u.groups.length).filter fun g => match u.groups[g]? with
          | some (_, _ :: _) => true
          | _ => false).take l.vu
        .ok (some (if gs.isEmpty then s1.setUser o.id { u with last := true, out := [List.replicate l.vu 0] }
          else (s1.setUser o.id { u with round := gs, out := roundEntries m l.vu u gs }).countCore o.core 178 1 (some o.who)))
      else if !s1.crew.rings[(3 : Fin 8)].isEmpty then .ok none
      else do
        let out : Output := { idx := dsts.headD 0, recs := u.groups.map Prod.fst, sort := sortedBy m.kt }
        let s2 ← s1.endRun o [out] 0
        .ok (some (s2.returnRings o.id))

/-! ## The end of a run engine operation -/

/-- R128, R133: a run engine operation acts: it publishes and writes its token, or a user merge takes its
next action; none when it cannot act now. -/
def State.runEngineStep (s : State) (o : Op) : Option State :=
  match o.kind with
  | .run f dsts srcs ctl extra user =>
    match s.opRun o (dsts.headD 0) with
    | none => some (s.failRun o fltRunState)
    | some (dst, _) =>
      match user with
      | some u =>
        match s.userStep o dst dsts srcs ctl u with
        | .ok r => r
        | .error _ => none
      | none =>
        if extra == [1] && (match f with | .sort _ => true | _ => false) then
          some (s.endOp o (BitVec.ofNat 64 ((srcs.map Bound.len).sum * dst.recSize)) 0)
        else
          match s.sourceRecs o srcs with
          | (.error c, s1) => some (s1.failRun o c)
          | (.ok xs, s1) =>
            let r := runOutputs f dst dsts ctl extra xs
            match s1.endRun o r.1 r.2 with
            | .ok s2 => some s2
            | .error _ => none
  | _ => none

/-- RUN_ENGINE_PUBLISH (R128): an operation that cannot end now leaves the state as it is. -/
def execRunEnginePublish (op : Nat) (s : State) : Host.Outcome State Fault Refusal :=
  match s.ops.find? fun o => o.id == op with
  | none => .next s
  | some o => .next ((s.runEngineStep o).getD s)

end Sys2Proof.Machine
end

