-- ==== Sys2Proof/Machine/Inflate.lean ====
section
/-! DEFINITION. The raw DEFLATE decoder of cpyd's FMT 1 (R221). The chapter names RFC 1951 and does not
repeat it: the format is taken from the RFC (PRESUMED, log 21). -/

namespace Sys2Proof.Machine

/-- A decoder under way: the bits left, what has been written, and whether all is well so far. -/
structure Inf where
  bits : List Bool
  out : Array Byte
  ok : Bool

/-- The stream is malformed. -/
def Inf.fail (d : Inf) : Inf := { d with ok := false }

/-- The value of bits, the first least significant. -/
def bitsNat : List Bool → Nat
  | [] => 0
  | b :: r => (if b then 1 else 0) + 2 * bitsNat r

/-- Take `n` bits, or none when the stream ends. -/
def takeBits (n : Nat) (l : List Bool) : Option (Nat × List Bool) :=
  let h := l.take n
  if h.length = n then some (bitsNat h, l.drop n) else none

/-- A canonical Huffman code: codes of each length from 1 on, and the symbols in code order. -/
structure Huff where
  counts : List Nat
  syms : List Nat
  deriving DecidableEq, Repr

/-- The canonical code of code lengths. -/
def huffOf (lens : List Nat) : Huff :=
  let at_ (k : Nat) : List Nat := ((List.zip lens (List.range lens.length)).filter fun p => p.1 == k).map Prod.snd
  { counts := (List.range 15).map fun k => (at_ (k + 1)).length
    syms := ((List.range 15).map fun k => at_ (k + 1)).flatten }

/-- The codes a set of lengths leaves unused, at the greatest length; none when it claims too many. -/
def huffLeft : List Nat → Nat → Option Nat
  | [], left => some left
  | c :: r, left => if 2 * left < c then none else huffLeft r (2 * left - c)

/-- Whether a set of lengths is usable: complete, or a single code of one bit. -/
def huffOk (h : Huff) : Bool :=
  match huffLeft h.counts 1 with
  | none => false
  | some 0 => true
  | some _ => h.counts.headD 0 == 1 && h.syms.length == 1 || h.syms.isEmpty

/-- Decode one symbol: the code bits arrive most significant first. -/
def huffSym (syms : List Nat) : List Nat → Nat → Nat → Nat → List Bool → Option (Nat × List Bool)
  | [], _, _, _, _ => none
  | _, _, _, _, [] => none
  | c :: cs, code, first, index, b :: bits =>
    let code := 2 * code + (if b then 1 else 0)
    if code < first + c then (syms[index + (code - first)]?).map fun x => (x, bits)
    else huffSym syms cs code (2 * (first + c)) (index + c) bits

/-- Decode one symbol of a code. -/
def Huff.sym (h : Huff) (bits : List Bool) : Option (Nat × List Bool) := huffSym h.syms h.counts 0 0 0 bits

/-- RFC 1951: bases and extra bits of length codes 257-285 and of distance codes 0-29. -/
def lenBase : List Nat :=
  [3, 4, 5, 6, 7, 8, 9, 10, 11, 13, 15, 17, 19, 23, 27, 31, 35, 43, 51, 59, 67, 83, 99, 115, 131, 163, 195, 227, 258]
def lenExtra : List Nat :=
  [0, 0, 0, 0, 0, 0, 0, 0, 1, 1, 1, 1, 2, 2, 2, 2, 3, 3, 3, 3, 4, 4, 4, 4, 5, 5, 5, 5, 0]
def distBase : List Nat :=
  [1, 2, 3, 4, 5, 7, 9, 13, 17, 25, 33, 49, 65, 97, 129, 193, 257, 385, 513, 769, 1025, 1537, 2049, 3073, 4097,
   6145, 8193, 12289, 16385, 24577]
def distExtra : List Nat :=
  [0, 0, 0, 0, 1, 1, 2, 2, 3, 3, 4, 4, 5, 5, 6, 6, 7, 7, 8, 8, 9, 9, 10, 10, 11, 11, 12, 12, 13, 13]

/-- A base with its extra bits. -/
def extraOf (base extra : List Nat) (k : Nat) (bits : List Bool) : Option (Nat × List Bool) :=
  match base[k]?, extra[k]? with
  | some b, some x => (takeBits x bits).map fun r => (b + r.1, r.2)
  | _, _ => none

/-- Copy `n` bytes from `dist` back. -/
def copyBack (dist : Nat) : Nat → Array Byte → Array Byte
  | 0, out => out
  | n + 1, out => copyBack dist n (out.push (out.getD (out.size - dist) 0))

/-- The symbols of a compressed block, up to its end. -/
def inflateCodes (lim : Nat) (hl hd : Huff) : Nat → Inf → Inf
  | 0, d => d.fail
  | fuel + 1, d =>
    match hl.sym d.bits with
    | none => d.fail
    | some (s, bits) =>
      if s < 256 then
        (if lim ≤ d.out.size then d.fail
         else inflateCodes lim hl hd fuel { d with bits := bits, out := d.out.push (BitVec.ofNat 8 s) })
      else if s = 256 then { d with bits := bits }
      else
        match extraOf lenBase lenExtra (s - 257) bits with
        | none => d.fail
        | some (len, b1) =>
          match hd.sym b1 with
          | none => d.fail
          | some (ds, b2) =>
            match extraOf distBase distExtra ds b2 with
            | none => d.fail
            | some (dist, b3) =>
              if d.out.size < dist ∨ lim < d.out.size + len then d.fail
              else inflateCodes lim hl hd fuel { d with bits := b3, out := copyBack dist len d.out }

/-- A stored block: the bits up to a byte boundary are passed over. -/
def inflateStored (lim total : Nat) (d : Inf) : Inf :=
  let bits := d.bits.drop (d.bits.length % 8)
  match takeBits 16 bits with
  | none => d.fail
  | some (n, b1) =>
    match takeBits 16 b1 with
    | none => d.fail
    | some (c, b2) =>
      if n + c ≠ 65535 ∨ lim < d.out.size + n ∨ b2.length < 8 * n ∨ total = 0 then d.fail
      else
        let bytes := (chunksOf 8 n b2).map fun x => BitVec.ofNat 8 (bitsNat x)
        { d with bits := b2.drop (8 * n), out := d.out ++ bytes.toArray }

/-- RFC 1951: the order of the code length codes. -/
def clOrder : List Nat := [16, 17, 18, 0, 8, 7, 9, 6, 10, 5, 11, 4, 12, 3, 13, 2, 14, 1, 15]

/-- Read `n` fields of `w` bits. -/
def takeMany (w : Nat) : Nat → List Bool → Option (List Nat × List Bool)
  | 0, bits => some ([], bits)
  | n + 1, bits =>
    match takeBits w bits with
    | none => none
    | some (x, b1) => (takeMany w n b1).map fun r => (x :: r.1, r.2)

/-- The code lengths of a dynamic block. -/
def readLens (h : Huff) (total : Nat) : Nat → List Nat → List Bool → Option (List Nat × List Bool)
  | 0, _, _ => none
  | fuel + 1, acc, bits =>
    if total ≤ acc.length then (if acc.length = total then some (acc, bits) else none)
    else
      match h.sym bits with
      | none => none
      | some (s, b1) =>
        if s < 16 then readLens h total fuel (acc ++ [s]) b1
        else if s = 16 then
          match acc.getLast?, takeBits 2 b1 with
          | some p, some (n, b2) => readLens h total fuel (acc ++ List.replicate (n + 3) p) b2
          | _, _ => none
        else if s = 17 then
          (match takeBits 3 b1 with
           | some (n, b2) => readLens h total fuel (acc ++ List.replicate (n + 3) 0) b2
           | none => none)
        else
          match takeBits 7 b1 with
          | some (n, b2) => readLens h total fuel (acc ++ List.replicate (n + 11) 0) b2
          | none => none

/-- The two codes of a dynamic block. -/
def dynamicCodes (bits : List Bool) : Option (Huff × Huff × List Bool) :=
  match takeBits 5 bits with
  | none => none
  | some (hlit, b1) =>
    match takeBits 5 b1 with
    | none => none
    | some (hdist, b2) =>
      match takeBits 4 b2 with
      | none => none
      | some (hclen, b3) =>
        if 29 < hlit ∨ 29 < hdist then none
        else
          match takeMany 3 (hclen + 4) b3 with
          | none => none
          | some (cl, b4) =>
            let lens := (List.range 19).map fun k => cl.getD (clOrder.findIdx fun x => x == k) 0
            let hc := huffOf lens
            if huffLeft hc.counts 1 ≠ some 0 then none
            else
              match readLens hc (hlit + 257 + hdist + 1) 400 [] b4 with
              | none => none
              | some (ls, b5) =>
                let ll := ls.take (hlit + 257)
                let hl := huffOf ll
                let hd := huffOf (ls.drop (hlit + 257))
                if ll.getD 256 0 = 0 ∨ !huffOk hl ∨ !huffOk hd then none else some (hl, hd, b5)

/-- RFC 1951: the fixed codes. -/
def fixedLit : Huff :=
  huffOf (List.replicate 144 8 ++ List.replicate 112 9 ++ List.replicate 24 7 ++ List.replicate 8 8)
def fixedDist : Huff := huffOf (List.replicate 30 5)

/-- Blocks up to the final one. -/
def inflateBlocks (lim total : Nat) : Nat → Inf → Inf
  | 0, d => d.fail
  | fuel + 1, d =>
    match takeBits 3 d.bits with
    | none => d.fail
    | some (h, bits) =>
      let d1 := { d with bits := bits }
      let d2 : Inf :=
        if h / 2 = 0 then inflateStored lim total d1
        else if h / 2 = 1 then inflateCodes lim fixedLit fixedDist (8 * total + 1) d1
        else if h / 2 = 2 then
          match dynamicCodes bits with
          | some (hl, hd, b) => inflateCodes lim hl hd (8 * total + 1) { d with bits := b }
          | none => d1.fail
        else d1.fail
      if !d2.ok then d2 else if h % 2 = 1 then d2 else inflateBlocks lim total fuel d2

/-- R221: FMT 1: what a raw DEFLATE stream writes, and whether it reaches its final block within the
input and the output within `lim` bytes. -/
def inflate (bs : List Byte) (lim : Nat) : List Byte × Bool :=
  let d := inflateBlocks lim bs.length (8 * bs.length + 1) { bits := unpackBits bs, out := #[], ok := true }
  (d.out.toList, d.ok)

end Sys2Proof.Machine
end

