-- ==== Sys2Proof/Machine/Zstd.lean ====
section
/-! DEFINITION. The Zstandard decoder of cpyd's FMT 0 (R221). The chapter names RFC 8878 and does not
repeat it: the format is taken from the RFC (PRESUMED, log 21). -/

namespace Sys2Proof.Machine

/-! ## The content checksum -/

def xxP1 : Word := 0x9E3779B185EBCA87
def xxP2 : Word := 0xC2B2AE3D27D4EB4F
def xxP3 : Word := 0x165667B19E3779F9
def xxP4 : Word := 0x85EBCA77C2B2AE63
def xxP5 : Word := 0x27D4EB2F165667C5

/-- One accumulator step. -/
def xxRound (acc x : Word) : Word := (acc + x * xxP2).rotateLeft 31 * xxP1

/-- An accumulator merged into the hash. -/
def xxMerge (h acc : Word) : Word := (h ^^^ xxRound 0 acc) * xxP1 + xxP4

/-- A little-endian word of bytes. -/
def wordOf (bs : List Byte) : Word := BitVec.ofNat 64 (leNat bs)

/-- The stripes of 32 bytes. -/
def xxStripes : Nat → Word × Word × Word × Word → List Byte → Word × Word × Word × Word
  | 0, a, _ => a
  | n + 1, (a, b, c, d), bs =>
    xxStripes n (xxRound a (wordOf (bs.take 8)), xxRound b (wordOf ((bs.drop 8).take 8)),
      xxRound c (wordOf ((bs.drop 16).take 8)), xxRound d (wordOf ((bs.drop 24).take 8))) (bs.drop 32)

/-- The bytes after the last stripe. -/
def xxTail : Nat → Word → List Byte → Word
  | 0, h, _ => h
  | fuel + 1, h, bs =>
    if 8 ≤ bs.length then
      xxTail fuel ((h ^^^ xxRound 0 (wordOf (bs.take 8))).rotateLeft 27 * xxP1 + xxP4) (bs.drop 8)
    else if 4 ≤ bs.length then
      xxTail fuel ((h ^^^ wordOf (bs.take 4) * xxP1).rotateLeft 23 * xxP2 + xxP3) (bs.drop 4)
    else
      match bs with
      | [] => h
      | b :: r => xxTail fuel ((h ^^^ b.setWidth 64 * xxP5).rotateLeft 11 * xxP1) r

/-- XXH64 with seed 0. -/
def xxh64 (bs : List Byte) : Word :=
  let n := bs.length
  let h0 : Word :=
    if n < 32 then xxP5
    else
      let (a, b, c, d) := xxStripes (n / 32) (xxP1 + xxP2, xxP2, 0, 0 - xxP1) bs
      xxMerge (xxMerge (xxMerge (xxMerge (a.rotateLeft 1 + b.rotateLeft 7 + c.rotateLeft 12 + d.rotateLeft 18) a) b) c) d
  let h := xxTail 40 (h0 + BitVec.ofNat 64 n) (bs.drop (n / 32 * 32))
  let h := (h ^^^ h >>> 33) * xxP2
  let h := (h ^^^ h >>> 29) * xxP3
  h ^^^ h >>> 32

/-! ## Bit streams -/

/-- A stream that is read backwards: its bits in reading order, after the marker bit; none when the last
byte holds no marker. -/
def backBits (bs : List Byte) : Option (List Bool) :=
  match (unpackBits bs).reverse.dropWhile fun b => !b with
  | [] => none
  | _ :: r => if (bs.getLast?.getD 0) = 0 then none else some r

/-- The value of bits read most significant first. -/
def backNat (l : List Bool) : Nat := l.foldl (fun v b => 2 * v + (if b then 1 else 0)) 0

/-- Take `n` bits, or none when too few are left. -/
def takeBack (n : Nat) (l : List Bool) : Option (Nat × List Bool) :=
  let h := l.take n
  if h.length = n then some (backNat h, l.drop n) else none

/-! ## FSE tables -/

/-- A decoding table: symbol, bits to read, base of the next state; and its accuracy. -/
structure FTab where
  log : Nat
  cells : Array (Nat × Nat × Nat)

/-- The probabilities of a table description; -1 is a symbol of the lowest probability. -/
def fseProbs : Nat → Nat → Nat → List Int → List Bool → Option (List Int × List Bool)
  | 0, _, _, _, _ => none
  | fuel + 1, maxSym, remaining, acc, bits =>
    if remaining = 0 then some (acc, bits)
    else if maxSym < acc.length then none
    else
      let k := (remaining + 1).log2 + 1
      match takeBits (k - 1) bits with
      | none => none
      | some (lo, b1) =>
        let threshold := 2 ^ k - 1 - (remaining + 1)
        let r : Option (Nat × List Bool) :=
          if lo < threshold then some (lo, b1)
          else
            match takeBits 1 b1 with
            | none => none
            | some (1, b2) => some (lo + 2 ^ (k - 1) - threshold, b2)
            | some (_, b2) => some (lo, b2)
        match r with
        | none => none
        | some (v, b2) =>
          let p : Int := (v : Int) - 1
          if remaining < p.natAbs then none
          else if p = 0 then
            match zeroRun2 fuel b2 0 with
            | none => none
            | some (n, b3) => fseProbs fuel maxSym remaining (acc ++ List.replicate (n + 1) 0) b3
          else fseProbs fuel maxSym (remaining - p.natAbs) (acc ++ [p]) b2
where
  /-- The further zero probabilities: two bits at a time, on after a 3. -/
  zeroRun2 : Nat → List Bool → Nat → Option (Nat × List Bool)
    | 0, _, _ => none
    | fuel + 1, bits, n =>
      match takeBits 2 bits with
      | none => none
      | some (x, b) => if x = 3 then zeroRun2 fuel b (n + 3) else some (n + x, b)

/-- The next free position of the spread. -/
def fseSkip (size high step : Nat) : Nat → Nat → Nat
  | 0, pos => pos
  | fuel + 1, pos => if pos < high then pos else fseSkip size high step fuel ((pos + step) % size)

/-- Spread one symbol over `n` positions. -/
def fseSpread (size high step sym : Nat) : Nat → Nat × Array Nat → Nat × Array Nat
  | 0, a => a
  | n + 1, (pos, t) =>
    fseSpread size high step sym n (fseSkip size high step size ((pos + step) % size), t.setIfInBounds pos sym)

/-- The table of probabilities. -/
def fseTable (log : Nat) (probs : List Int) : FTab :=
  let size := 2 ^ log
  let ps := List.zip probs (List.range probs.length)
  let low := (ps.filter fun p => p.1 == -1).map Prod.snd
  let t0 : Array Nat := (List.zip low (List.range low.length)).foldl
    (fun (t : Array Nat) p => t.setIfInBounds (size - 1 - p.2) p.1) (Array.replicate size 0)
  let high := size - low.length
  let step := size / 2 + size / 8 + 3
  let r := ps.foldl (fun (a : Nat × Array Nat) p =>
    if 0 < p.1 then fseSpread size high step p.2 p.1.toNat a else a) (0, t0)
  let cnt0 : Array Nat := (probs.map fun p => if p = -1 then 1 else p.toNat).toArray
  let cells := (r.2.toList.foldl (fun (a : Array (Nat × Nat × Nat) × Array Nat) s =>
    let nx := a.2.getD s 0
    let nb := log - nx.log2
    (a.1.push (s, nb, nx * 2 ^ nb - size), a.2.setIfInBounds s (nx + 1))) (#[], cnt0)).1
  { log := log, cells := cells }

/-- A table of one symbol. -/
def rleTable (sym : Nat) : FTab := { log := 0, cells := #[(sym, 0, 0)] }

/-- A table description at the head of bytes: the table and the bytes it takes. -/
def readTable (maxLog maxSym : Nat) (bs : List Byte) : Option (FTab × Nat) :=
  match takeBits 4 (unpackBits (bs.take 512)) with
  | none => none
  | some (a, bits) =>
    if maxLog < a + 5 then none
    else
      match fseProbs 2000 maxSym (2 ^ (a + 5)) [] bits with
      | none => none
      | some (ps, rest) =>
        if maxSym + 1 < ps.length then none
        else some (fseTable (a + 5) ps, (8 * (bs.take 512).length - rest.length + 7) / 8)

/-- The symbol of a state. -/
def FTab.sym (t : FTab) (st : Nat) : Nat := (t.cells.getD st (0, 0, 0)).1

/-- The next state. -/
def FTab.step (t : FTab) (st : Nat) (bits : List Bool) : Option (Nat × List Bool) :=
  let c := t.cells.getD st (0, 0, 0)
  (takeBack c.2.1 bits).map fun r => (c.2.2 + r.1, r.2)

/-! ## Huffman trees and literals -/

/-- The symbols of an interleaved pair of states, until the stream ends. -/
def fseWeights (t : FTab) : Nat → Nat → Nat → List Bool → List Nat → Option (List Nat)
  | 0, _, _, _, _ => none
  | fuel + 1, s1, s2, bits, acc =>
    match t.step s1 bits with
    | some (n1, b) => fseWeights t fuel s2 n1 b (acc ++ [t.sym s1])
    | none => some (acc ++ [t.sym s1, t.sym s2])

/-- A Huffman table: the most bits, and the symbol and bits of each index of that many. -/
structure HTab where
  bits : Nat
  cells : Array (Nat × Nat)

/-- The table of weights; the last weight is implied. -/
def huffTable (ws : List Nat) : Option HTab :=
  let total := (ws.map fun w => if w = 0 then 0 else 2 ^ (w - 1)).sum
  if total = 0 then none
  else
    let mb := total.log2 + 1
    let left := 2 ^ mb - total
    if left ≠ 2 ^ left.log2 ∨ 11 < mb then none
    else
      let all := ws ++ [left.log2 + 1]
      let at_ (k : Nat) : List Nat := ((List.zip all (List.range all.length)).filter fun p => p.1 == k).map Prod.snd
      let cells := ((List.range mb).map fun k =>
        ((at_ (k + 1)).map fun s => List.replicate (2 ^ k) (s, mb - k)).flatten).flatten
      if 256 < all.length then none else some { bits := mb, cells := cells.toArray }

/-- A tree description: the table and the bytes it takes. -/
def readTree (bs : List Byte) : Option (HTab × Nat) :=
  match bs with
  | [] => none
  | h :: rest =>
    let n := h.toNat
    if 128 ≤ n then
      let k := n - 127
      let raw := rest.take ((k + 1) / 2)
      if raw.length < (k + 1) / 2 then none
      else
        let ws := ((raw.map fun b => [b.toNat / 16, b.toNat % 16]).flatten).take k
        (huffTable ws).map fun t => (t, 1 + (k + 1) / 2)
    else
      let body := rest.take n
      if body.length < n then none
      else
        match readTable 6 15 body with
        | none => none
        | some (t, used) =>
          match backBits (body.drop used) with
          | none => none
          | some bits =>
            match takeBack t.log bits with
            | none => none
            | some (s1, b1) =>
              match takeBack t.log b1 with
              | none => none
              | some (s2, b2) =>
                match fseWeights t 260 s1 s2 b2 [] with
                | none => none
                | some ws => if 255 < ws.length then none else (huffTable ws).map fun x => (x, 1 + n)

/-- The symbols of a Huffman stream, which must end exactly. -/
def huffStream (t : HTab) : Nat → List Bool → Array Byte → Option (Array Byte)
  | 0, bits, out => if bits.isEmpty then some out else none
  | n + 1, bits, out =>
    let w := bits.take t.bits
    let c := t.cells.getD (backNat w * 2 ^ (t.bits - w.length)) (0, 0)
    if c.2 = 0 ∨ bits.length < c.2 then none
    else huffStream t n (bits.drop c.2) (out.push (BitVec.ofNat 8 c.1))

/-- Literal streams one after the other, each of `n` symbols by its bytes. -/
def huffStreams (t : HTab) : List (Nat × List Byte) → Array Byte → Option (Array Byte)
  | [], out => some out
  | (n, bs) :: r, out =>
    match backBits bs with
    | none => none
    | some bits =>
      match huffStream t n bits out with
      | none => none
      | some o => huffStreams t r o

/-- The decoder of a frame between blocks: what is written, where the frame starts, the tree and tables of
the block before, and the recent offsets. -/
structure Zst where
  out : Array Byte
  start : Nat
  tree : Option HTab
  ll : Option FTab
  of : Option FTab
  ml : Option FTab
  reps : Nat × Nat × Nat

/-- The literals of a block, the decoder with its tree, and the bytes taken. -/
def readLits (z : Zst) (bs : List Byte) : Option (Array Byte × Zst × Nat) :=
  let h := leNat (bs.take 5)
  let ty := h % 4
  let sf := h / 4 % 4
  if bs.isEmpty then none
  else if ty < 2 then
    let (hn, n) := if sf % 2 = 0 then (1, h % 256 / 8) else if sf = 1 then (2, h % 2 ^ 16 / 16) else (3, h % 2 ^ 24 / 16)
    if 131072 < n ∨ bs.length < hn then none
    else if ty = 0 then
      let x := (bs.drop hn).take n
      if x.length < n then none else some (x.toArray, z, hn + n)
    else
      match (bs.drop hn).head? with
      | none => none
      | some b => some ((List.replicate n b).toArray, z, hn + 1)
  else
    let (hn, w) := if sf < 2 then (3, 10) else if sf = 2 then (4, 14) else (5, 18)
    let n := h / 16 % 2 ^ w
    let cn := h / 2 ^ (4 + w) % 2 ^ w
    let body := (bs.drop hn).take cn
    if 131072 < n ∨ bs.length < hn ∨ body.length < cn then none
    else
      let tr : Option (HTab × Nat) := if ty = 2 then readTree body else z.tree.map fun t => (t, 0)
      match tr with
      | none => none
      | some (t, used) =>
        let st := body.drop used
        let parts : Option (List (Nat × List Byte)) :=
          if sf = 0 then some [(n, st)]
          else
            let a := leNat (st.take 2)
            let b := leNat ((st.drop 2).take 2)
            let c := leNat ((st.drop 4).take 2)
            let d := st.drop 6
            let q := (n + 3) / 4
            if st.length < 6 ∨ d.length < a + b + c ∨ n < 3 * q then none
            else some [(q, d.take a), (q, (d.drop a).take b), (q, (d.drop (a + b)).take c), (n - 3 * q, d.drop (a + b + c))]
        match parts with
        | none => none
        | some ps =>
          match huffStreams t ps #[] with
          | none => none
          | some out => some (out, { z with tree := some t }, hn + cn)

/-! ## Sequences -/

/-- RFC 8878: bases and extra bits of the literal length codes. -/
def zLlBase : List Nat :=
  [0, 1, 2, 3, 4, 5, 6, 7, 8, 9, 10, 11, 12, 13, 14, 15, 16, 18, 20, 22, 24, 28, 32, 40, 48, 64, 128, 256, 512, 1024,
   2048, 4096, 8192, 16384, 32768, 65536]
def zLlExtra : List Nat :=
  [0, 0, 0, 0, 0, 0, 0, 0, 0, 0, 0, 0, 0, 0, 0, 0, 1, 1, 1, 1, 2, 2, 3, 3, 4, 6, 7, 8, 9, 10, 11, 12, 13, 14, 15, 16]

/-- RFC 8878: bases and extra bits of the match length codes. -/
def zMlBase : List Nat :=
  ((List.range 32).map fun k => k + 3) ++
  [35, 37, 39, 41, 43, 47, 51, 59, 67, 83, 99, 131, 259, 515, 1027, 2051, 4099, 8195, 16387, 32771, 65539]
def zMlExtra : List Nat :=
  List.replicate 32 0 ++ [1, 1, 1, 1, 2, 2, 3, 3, 4, 4, 5, 7, 8, 9, 10, 11, 12, 13, 14, 15, 16]

/-- RFC 8878: the predefined distributions. -/
def zLlDefault : FTab := fseTable 6
  [4, 3, 2, 2, 2, 2, 2, 2, 2, 2, 2, 2, 2, 1, 1, 1, 2, 2, 2, 2, 2, 2, 2, 2, 2, 3, 2, 1, 1, 1, 1, 1, -1, -1, -1, -1]
def zMlDefault : FTab := fseTable 6
  ([1, 4, 3, 2, 2, 2, 2, 2, 2] ++ List.replicate 37 1 ++ List.replicate 7 (-1))
def zOfDefault : FTab := fseTable 5
  ([1, 1, 1, 1, 1, 1, 2, 2, 2] ++ List.replicate 15 1 ++ List.replicate 5 (-1))

/-- A sequence table by its mode: the table and the bytes it takes. -/
def seqTable (mode : Nat) (dflt : FTab) (prev : Option FTab) (maxLog maxSym : Nat) (bs : List Byte) : Option (FTab × Nat) :=
  if mode = 0 then some (dflt, 0)
  else if mode = 1 then
    match bs with
    | [] => none
    | b :: _ => if maxSym < b.toNat then none else some (rleTable b.toNat, 1)
  else if mode = 2 then readTable maxLog maxSym bs
  else prev.map fun t => (t, 0)

/-- RFC 8878: the offset of an offset value, and the recent offsets after it. -/
def repOffset (v ll : Nat) (r : Nat × Nat × Nat) : Nat × (Nat × Nat × Nat) :=
  if 3 < v then (v - 3, (v - 3, r.1, r.2.1))
  else
    let k := v - 1 + (if ll = 0 then 1 else 0)
    if k = 0 then (r.1, r)
    else if k = 1 then (r.2.1, (r.2.1, r.1, r.2.2))
    else if k = 2 then (r.2.2, (r.2.2, r.1, r.2.1))
    else (r.1 - 1, (r.1 - 1, r.1, r.2.1))

/-- Sequences executed one by one; the bit stream must end exactly. -/
def runSeqs (win lim : Nat) (tl tof tm : FTab) (lits : Array Byte) :
    Nat → Nat → Nat → Nat → List Bool → Nat → Zst → Option (Nat × Zst)
  | 0, _, _, _, bits, pos, z => if bits.isEmpty then some (pos, z) else none
  | n + 1, sl, so, sm, bits, pos, z =>
    let oc := tof.sym so
    match takeBack oc bits with
    | none => none
    | some (ox, b1) =>
      match zMlBase[tm.sym sm]?, zMlExtra[tm.sym sm]?, zLlBase[tl.sym sl]?, zLlExtra[tl.sym sl]? with
      | some mb, some mx, some lb, some lx =>
        match takeBack mx b1 with
        | none => none
        | some (mv, b2) =>
          match takeBack lx b2 with
          | none => none
          | some (lv, b3) =>
            let ll := lb + lv
            let ml := mb + mv
            let (off, reps) := repOffset (2 ^ oc + ox) ll z.reps
            let out1 := z.out ++ (lits.extract pos (pos + ll))
            if lits.size < pos + ll ∨ off = 0 ∨ out1.size - z.start < off ∨ win < off ∨ lim < out1.size + ml then none
            else
              let z1 := { z with out := copyBack off ml out1, reps := reps }
              if n = 0 then runSeqs win lim tl tof tm lits n sl so sm b3 (pos + ll) z1
              else
                match tl.step sl b3 with
                | none => none
                | some (sl', b4) =>
                  match tm.step sm b4 with
                  | none => none
                  | some (sm', b5) =>
                    match tof.step so b5 with
                    | none => none
                    | some (so', b6) => runSeqs win lim tl tof tm lits n sl' so' sm' b6 (pos + ll) z1
      | _, _, _, _ => none

/-- A compressed block. -/
def zBlock (win lim : Nat) (z : Zst) (bs : List Byte) : Option Zst :=
  match readLits z bs with
  | none => none
  | some (lits, z1, used) =>
    let sec := bs.drop used
    let b (k : Nat) : Nat := (sec.getD k 0).toNat
    let head : Option (Nat × Nat) :=
      if sec.isEmpty then none
      else if b 0 < 128 then some (b 0, 1)
      else if b 0 < 255 then (if sec.length < 2 then none else some ((b 0 - 128) * 256 + b 1, 2))
      else if sec.length < 3 then none else some (b 1 + 256 * b 2 + 0x7F00, 3)
    match head with
    | none => none
    | some (0, k) =>
      if sec.length ≠ k ∨ lim < z1.out.size + lits.size then none else some { z1 with out := z1.out ++ lits }
    | some (n, k) =>
      let modes := b k
      let body := sec.drop (k + 1)
      if sec.length < k + 1 ∨ modes % 4 ≠ 0 then none
      else
        match seqTable (modes / 64) zLlDefault z1.ll 9 35 body with
        | none => none
        | some (tl, u1) =>
          match seqTable (modes / 16 % 4) zOfDefault z1.of 8 31 (body.drop u1) with
          | none => none
          | some (tof, u2) =>
            match seqTable (modes / 4 % 4) zMlDefault z1.ml 9 52 (body.drop (u1 + u2)) with
            | none => none
            | some (tm, u3) =>
              match backBits (body.drop (u1 + u2 + u3)) with
              | none => none
              | some bits =>
                match takeBack tl.log bits with
                | none => none
                | some (sl, b1) =>
                  match takeBack tof.log b1 with
                  | none => none
                  | some (so, b2) =>
                    match takeBack tm.log b2 with
                    | none => none
                    | some (sm, b3) =>
                      match runSeqs win lim tl tof tm lits n sl so sm b3 0
                          { z1 with ll := some tl, of := some tof, ml := some tm } with
                      | none => none
                      | some (pos, z2) =>
                        let out := z2.out ++ lits.extract pos lits.size
                        if lim < out.size then none else some { z2 with out := out }

/-! ## Frames -/

/-- The blocks of a frame: the bytes after them, what is written, and whether all is well. -/
def zBlocks (win lim : Nat) : Nat → Zst → List Byte → List Byte × Array Byte × Bool
  | 0, z, bs => (bs, z.out, false)
  | fuel + 1, z, bs =>
    let h := leNat (bs.take 3)
    let n := h / 8
    let cap := Nat.min win 131072
    let body := bs.drop 3
    let ty := h / 2 % 4
    let lim' := Nat.min lim (z.out.size + cap)
    let r : Option (Zst × Nat) :=
      if bs.length < 3 ∨ cap < n then none
      else if ty = 0 then
        (if body.length < n ∨ lim < z.out.size + n then none else some ({ z with out := z.out ++ (body.take n).toArray }, n))
      else if ty = 1 then
        (match body.head? with
         | none => none
         | some x => if lim < z.out.size + n then none else some ({ z with out := z.out ++ (List.replicate n x).toArray }, 1))
      else if ty = 2 then
        (if body.length < n then none else (zBlock win lim' z (body.take n)).map fun z' => (z', n))
      else none
    match r with
    | none => (bs, z.out, false)
    | some (z1, k) => if h % 2 = 1 then (body.drop k, z1.out, true) else zBlocks win lim fuel z1 (body.drop k)

/-- R221: frames up to the end of the input, at least one of them no skippable frame. -/
def zFrames (lim : Nat) : Nat → Bool → Array Byte → List Byte → Array Byte × Bool
  | 0, _, out, _ => (out, false)
  | fuel + 1, seen, out, bs =>
    if bs.isEmpty then (out, seen)
    else
      let magic := leNat (bs.take 4)
      if magic / 16 = 0x184D2A5 then
        let n := leNat ((bs.drop 4).take 4)
        if bs.length < 8 + n then (out, false) else zFrames lim fuel seen out (bs.drop (8 + n))
      else
        let d := (bs.getD 4 0).toNat
        let single := d / 32 % 2 = 1
        let p1 := if single then 5 else 6
        let wd := (bs.getD 5 0).toNat
        let dn := [0, 1, 2, 4].getD (d % 4) 0
        let dict := leNat ((bs.drop p1).take dn)
        let fn := [if single then 1 else 0, 2, 4, 8].getD (d / 64) 0
        let fcs := leNat ((bs.drop (p1 + dn)).take fn) + (if d / 64 = 1 then 256 else 0)
        let base := 2 ^ (10 + wd / 8)
        let win := if single then fcs else base + base / 8 * (wd % 8)
        let body := bs.drop (p1 + dn + fn)
        if bs.length < p1 + dn + fn ∨ magic ≠ 0xFD2FB528 ∨ d / 8 % 2 = 1 ∨ dict ≠ 0 ∨ 0x800000 < win then (out, false)
        else
          let r := zBlocks win lim (body.length + 1)
            { out := out, start := out.size, tree := none, ll := none, of := none, ml := none, reps := (1, 4, 8) } body
          let content := r.2.1.toList.drop out.size
          let rest := if d / 4 % 2 = 1 then r.1.drop 4 else r.1
          if !r.2.2 then (r.2.1, false)
          else if 0 < fn ∧ content.length ≠ fcs then (r.2.1, false)
          else if d / 4 % 2 = 1 ∧ (r.1.length < 4 ∨ leNat (r.1.take 4) ≠ (xxh64 content).toNat % 2 ^ 32) then (r.2.1, false)
          else zFrames lim fuel true r.2.1 rest

/-- R221: FMT 0: what a Zstandard stream writes, and whether it is well formed and within `lim` bytes. -/
def unzstd (bs : List Byte) (lim : Nat) : List Byte × Bool :=
  let r := zFrames lim (bs.length + 1) false #[] bs
  (r.1.toList, r.2)

end Sys2Proof.Machine
end

