-- ==== Sys2Proof/Machine/Engines.lean ====
section
/-! DEFINITION. Scratchpad buffers and the engines that fill and empty them: bdecl, brel, cpy, cpyd, bxform,
sread, swrite and rmark, and how each of their operations completes (R210-R231). -/

namespace Sys2Proof.Machine

/-! ## Buffers (R214-R217) -/

/-- R212: a buffer-id word. -/
def bufWord (w : Word) : R Nat := if w.toNat / 256 ≠ 0 then fltAt fltOperand 0 w else .ok w.toNat

/-- The buffer that an id names for the crew; an id of another context acts as FREE (R214). -/
def State.bufHere (s : State) (id : Nat) : Option Buf := s.buf? s.crew.coreIx s.crew.ctx id

/-- R215: the buffer of an id, which must be in one of the states. -/
def State.needBuf (s : State) (id : Nat) (ok : List BufSt) : R Buf :=
  match s.bufHere id with
  | some b => if ok.contains b.st then .ok b else bufFault (some b) id 0
  | none => bufFault none id 0

/-- R214: the lowest free id of a core's table. -/
def State.freeBuf (s : State) (core : Nat) : Option Nat :=
  lowestFree ((s.bufs.filter fun b => b.core == core).map Buf.id) 0 256

/-- R214: whether a range meets another declared buffer of the core. -/
def State.bufOverlap (s : State) (core lo n : Nat) : Bool :=
  s.bufs.any fun b => b.core == core && decide (lo < b.base + b.size) && decide (b.base < lo + n)

/-- BDECL (R214). -/
def execBdecl (d a b : Opd) (s : State) : Host.Outcome State Fault Refusal :=
  finish s do
    let base ← s.rd a
    let w ← s.rd b
    let size := w.toNat % 2 ^ 22
    need (w.extractLsb' 32 32 == 0 && w.extractLsb' 22 9 == 0 && size % 256 == 0 && decide (256 ≤ size) &&
      decide (size ≤ 0x300000)) fltOperand
    if base.toNat % 256 ≠ 0 then fltAt fltAlign base 0
    if Config.spadBytes < base.toNat + size then fltAt fltSpadRange base 0
    s.wrOk d
    s.drained
    let core := s.crew.coreIx
    if s.bufOverlap core base.toNat size then fltAt fltOperand base 0
    match s.freeBuf core with
    | none => flt fltBufTable
    | some id =>
      let x : Buf := { core := core, ctx := s.crew.ctx, id := id, base := base.toNat, size := size, comp := w.getLsbD 31
                       st := .empty, outs := 0, keep := true }
      let s1 := { s with bufs := s.bufs ++ [x] }
      let s2 := s1.modCrew fun c => { c with spec := c.spec.map fun sp => { sp with bufs := id :: sp.bufs } }
      .ok (s2.put d (BitVec.ofNat 64 id)).adv

/-- R216: the scratchpad range that a queued vector load reads; a gather's may be any. -/
def VEntry.reads (e : VEntry) : Option (Nat × Nat) :=
  match e.ins with
  | .ins (.vld _ _ b _ t) | .ins (.vldff _ _ b _ t) =>
    if toSpad b then some (e.sA.toNat, e.sA.toNat + e.vl * elSize t) else none
  | .ins (.vlds _ _ _ _ t) => some (hull (elSize t) ((List.range e.vl).map (strideAddr e)))
  | .ins (.vgaths ..) => some (0, Config.spadBytes)
  | _ => none

/-- R216: whether a queued vector load holds bytes of a range: it found a FULL buffer there. -/
def VEntry.holds (e : VEntry) (lo hi : Nat) : Bool :=
  (e.bufs.any fun b => b.st == .full && decide (b.base < hi) && decide (lo < b.base + b.size)) &&
    (match e.reads with
     | some r => decide (r.1 < hi) && decide (lo < r.2)
     | none => false)

/-- R216: whether a vector load that is still queued on a core holds bytes of a range. -/
def State.loadsQueued (s : State) (core lo hi : Nat) : Bool :=
  s.crews.any fun p => p.1.coreIx == core && p.2.any fun t => t.vq.any fun e => e.holds lo hi

/-- R215, R216: brel.rel, brel.free and brel.seal, which waits for the thread's stores. -/
def brel (a : Opd) (from_ : BufSt) (next : Option BufSt) (sl : Bool) (s : State) : Host.Outcome State Fault Refusal :=
  finish s do
    let w ← s.rd a
    let id ← bufWord w
    if sl then do
      s.drained
      await (s.thr.unperf.isEmpty && s.thr.held.isNone) .performed
    let b ← s.needBuf id [from_]
    .ok (match next with
      | some st => s.setBuf { b with st := st }
      | none => { s with bufs := s.bufs.filter fun x => !(x.core == b.core && x.ctx == b.ctx && x.id == id) }).adv

/-- BREL_REL (R215). -/
def execBrelRel (a : Opd) (s : State) : Host.Outcome State Fault Refusal := brel a .full (some .empty) false s

/-- BREL_FREE (R215). -/
def execBrelFree (a : Opd) (s : State) : Host.Outcome State Fault Refusal := brel a .empty none false s

/-- BREL_SEAL (R216). -/
def execBrelSeal (a : Opd) (s : State) : Host.Outcome State Fault Refusal := brel a .empty (some .full) true s

/-- R215: a fill issues. -/
def State.fillStart (s : State) (b : Buf) : State := s.setBuf { b with st := .filling }

/-- R215: a copy-out issues. -/
def State.outStart (s : State) (b : Buf) : State :=
  if b.st = .draining then s.setBuf { b with outs := b.outs + 1 }
  else s.setBuf { b with st := .draining, outs := 1, keep := true }

/-- R215: a fill ends: FULL, or EMPTY where it failed. -/
def State.fillEnd (s : State) (o : Op) (id : Nat) (ok : Bool) : State :=
  match s.buf? o.core o.ctx id with
  | some b => s.setBuf { b with st := if ok then .full else .empty }
  | none => s

/-- R215: a copy-out ends; a failed one counts as KEEP = 1. -/
def State.outEnd (s : State) (o : Op) (id : Nat) (keep : Bool) : State :=
  match s.buf? o.core o.ctx id with
  | some b =>
    if b.outs ≤ 1 then s.setBuf { b with st := if b.keep && keep then .full else .empty, outs := 0, keep := true }
    else s.setBuf { b with outs := b.outs - 1, keep := b.keep && keep }
  | none => s

/-- The scratchpad range an operation still reads. -/
def State.opReads (s : State) (o : Op) : Option (Nat × Nat) :=
  match o.kind with
  | .bxform cmd src _ _ _ => if cmd.toNat % 16 < 2 then none else some (src, src + cmd.toNat / 2 ^ 32 % 2 ^ 22)
  | .cpy ctl _ _ id => if ctl.getLsbD 63 then (s.buf? o.core o.ctx id).map fun b => (b.base, b.base + b.size) else none
  | .swrite _ _ _ id => (s.buf? o.core o.ctx id).map fun b => (b.base, b.base + b.size)
  | _ => none

/-- R216: whether a fill may write its bytes: every earlier read and copy-out of them has finished. -/
def State.fillFree (s : State) (o : Op) (lo hi : Nat) : Bool :=
  !(s.loadsQueued o.core lo hi) && (s.ops.takeWhile fun x => x.id != o.id).all fun x =>
    x.core != o.core || (match s.opReads x with
      | some r => !(decide (r.1 < hi) && decide (lo < r.2))
      | none => true)

/-- R215, R220, R250: bytes of a transfer that failed, from address `a` on: each aligned 8 bytes keep their old value
or take the one written (log 14). -/
def mixFailed (draw a : Nat) (old new : List Byte) : List Byte :=
  (List.zip (List.zip old new) (List.range new.length)).map fun p =>
    if Config.failedWrote draw ((a + p.2) / 8) then p.1.2 else p.1.1

/-- Scratchpad bytes written by a failed fill. -/
def State.spadMix (s : State) (o : Op) (base : Nat) (new : List Byte) : State :=
  (s.opSpadPut o base (mixFailed s.draw base (s.opSpad o base new.length) new)).drawn

/-! ## Checks shared by the transfers -/

/-- R213: RSV, and the fields that an instruction leaves 0. -/
def ctlOk (ctl : Word) (dir keep fua fmt raw : Bool) : Bool :=
  ctl.extractLsb' 32 25 == 0 && (dir || !ctl.getLsbD 63) && (keep || !ctl.getLsbD 62) && (fua || !ctl.getLsbD 61) &&
    (fmt || ctl.extractLsb' 58 3 == 0) && (raw || !ctl.getLsbD 57)

/-- R226: the slot images that logical bytes take. -/
def imagesFor (count : Nat) : Nat := (count + blockBytes - 1) / blockBytes * imageBytes

/-- R36, R256: the interlock range of a run and of the scratchpad. -/
def State.transferRanges (s : State) (h : Word) (off n : Nat) (toRun : Bool) (b : Option Buf) (m : Nat) : Ranges :=
  let run : Ranges := [(s.runTarget (h.toNat % 65536), off, off + n, toRun)]
  match b with
  | some x => run ++ [(.spad s.crew.coreIx, x.base, x.base + m, !toRun)]
  | none => run

/-- R36, R348: the accesses of a transfer as conflict detection and watchpoints see them. -/
def State.touchRanges (s : State) (rs : Ranges) : R State := do
  rs.forM fun r => match r.1 with
    | .spad _ => s.watch false r.2.2.2 r.2.1 (r.2.2.1 - r.2.1) none
    | _ => .ok ()
  rs.foldlM (fun (s' : State) r => s'.touch r.1 r.2.1 r.2.2.1 r.2.2.2) s

/-! ## cpy and cpyd (R220, R221) -/

/-- R226: the bytes of the buffer and of the run that a cpy moves. -/
def cpyLens (out comp raw : Bool) (count : Nat) : Nat × Nat :=
  if !comp then (count, count)
  else if out && raw then (imagesFor count, imagesFor count)
  else (imagesFor count, count)

/-- R220, R226: the limits on the fields of the run and the buffer, group d of R64. Whole blocks are needed
between a C buffer and a COMP run (DEDUCED, log 38). -/
def cpyLimits (ctl : Word) (e : CabEntry) (b : Buf) (off : Nat) : Bool :=
  let out := ctl.getLsbD 63
  let raw := ctl.getLsbD 57
  let count := ctl.toNat % 2 ^ 32
  let whole := off % blockBytes == 0 && count % blockBytes == 0
  !(raw && (!b.comp || e.comp)) && (out || !b.comp || e.comp) &&
    decide (count ≤ b.size) && decide ((cpyLens out b.comp raw count).1 ≤ b.size) &&
    off % e.recSize == 0 && count % e.recSize == 0 && (!(b.comp && e.comp) || whole) &&
    (!raw || count % blockBytes == 0)

/-- CPY (R220). -/
def execCpy (d a b : Opd) (s : State) : Host.Outcome State Fault Refusal :=
  finish s do
    tokenReg d
    let b1 ← opdPlus b 1
    let b2 ← opdPlus b 2
    let ctl ← s.rd a
    let h ← s.rd b
    let off ← s.rd b1
    let bw ← s.rd b2
    s.engineReady d
    let out := ctl.getLsbD 63
    need (ctlOk ctl true out false false out) fltOperand
    let id ← bufWord bw
    let n ← s.named h
    let raw := ctl.getLsbD 57
    let count := ctl.toNat % 2 ^ 32
    let bf := s.bufHere id
    let l := cpyLens out (match bf with | some x => x.comp | none => false) raw count
    let rs := s.transferRanges h off.toNat l.2 out bf l.1
    s.ilockRoom rs
    needObj (if out then n.e.mayWrite s.owner else n.e.mayRead s.owner) fltRunState h
    let x ← s.needBuf id (if out then [.full, .draining] else [.empty])
    need (cpyLimits ctl n.e x off.toNat) fltOperand
    if (if out then n.e.cap else n.e.len) * n.e.recSize < off.toNat + l.2 then fltAt fltRunBounds off h
    let s1 ← s.touchRanges rs
    let s2 := if out then s1.outStart x else s1.fillStart x
    .ok (s2.startOp d (.cpy ctl n.bound off.toNat id) rs)

/-- R221: the limits of cpyd's control word; FMT 2 takes whole slot images (DEDUCED, log 38). -/
def cpydCtl (ctl : Word) : Bool :=
  ctlOk ctl false false false true false && decide ((ctl.extractLsb' 58 3).toNat ≤ 2) &&
    !((ctl.extractLsb' 58 3).toNat == 2 && ctl.toNat % 2 ^ 32 % imageBytes != 0)

/-- CPYD (R221). -/
def execCpyd (d a b : Opd) (s : State) : Host.Outcome State Fault Refusal :=
  finish s do
    tokenReg d
    let b1 ← opdPlus b 1
    let b2 ← opdPlus b 2
    let ctl ← s.rd a
    let h ← s.rd b
    let off ← s.rd b1
    let bw ← s.rd b2
    s.engineReady d
    need (cpydCtl ctl) fltOperand
    let id ← bufWord bw
    let n ← s.named h
    let count := ctl.toNat % 2 ^ 32
    let bf := s.bufHere id
    let rs := s.transferRanges h off.toNat count false bf (match bf with | some x => x.size | none => 0)
    s.ilockRoom rs
    needObj (n.e.mayRead s.owner) fltRunState h
    let x ← s.needBuf id [.empty]
    if n.e.len * n.e.recSize < off.toNat + count then fltAt fltRunBounds off h
    let s1 ← s.touchRanges rs
    .ok ((s1.fillStart x).startOp d (.cpyd ctl n.bound off.toNat id) rs)

/-- R311, R358: the bytes of a bound source before the first page or aligned 64 bytes that cannot be read. -/
def State.boundPrefix (s : State) (o : Op) (b : Bound) (off n : Nat) : List Byte :=
  let reach := (List.range (n / 64 + 2)).takeWhile fun i =>
    let m := Nat.min n (64 * (i + 1) - off % 64)
    match (s.boundData o b off m).1 with | .ok _ => true | .error _ => false
  match (s.boundData o b off (Nat.min n (64 * reach.length - off % 64))).1 with
  | .ok bs => bs
  | .error _ => []

/-- R222, R226: the slot images that a fill of a C buffer writes, by their offset in the buffer. -/
def fillImages (e : CabEntry) (first : Nat) (bs : List Byte) : List (Nat × List Byte) :=
  (List.range (bs.length / blockBytes)).map fun i =>
    (i * imageBytes, imageOf e.esz (e.slotOf (first + i)) ((bs.drop (i * blockBytes)).take blockBytes))

/-- The entry of a bound run as it stands, whether or not it is still the version bound. -/
def State.boundEntry (s : State) (o : Op) (b : Bound) : Option CabEntry := (s.opRun o b.idx).map Prod.fst

/-- R220: a fill by cpy acts; none while it must wait. -/
def State.cpyIn (s : State) (o : Op) (ctl : Word) (b : Bound) (off id : Nat) : Option State :=
  let count := ctl.toNat % 2 ^ 32
  match s.buf? o.core o.ctx id with
  | none => some (s.endOp o (tokenOf fltBufState) 0)
  | some x =>
    if !s.fillFree o x.base (x.base + x.size) then none
    else
      match s.boundData o b off count with
      | (.error c, s1) =>
        let s2 := if x.comp then s1 else s1.spadMix o x.base (s.boundPrefix o b off count)
        some ((s2.fillEnd o id false).endOp o (tokenOf c) 0)
      | (.ok bs, s1) =>
        let s2 :=
          match x.comp, s1.boundEntry o b with
          | true, some e =>
            (fillImages (if e.ext = b.ext then e else { e with roots := [] }) (off / blockBytes) bs).foldl
              (fun (s' : State) (p : Nat × List Byte) => s'.opSpadPut o (x.base + p.1) p.2) s1
          | _, _ => s1.opSpadPut o x.base bs
        some ((s2.fillEnd o id true).endOp o (BitVec.ofNat 64 count) 0)

/-- R226: the bytes that a copy-out takes from a buffer; none where a block cannot be expanded. -/
def State.outBytes (s : State) (o : Op) (x : Buf) (raw : Bool) (count : Nat) : Option (List Byte) :=
  if !x.comp then some (s.opSpad o x.base count)
  else
    let img := s.opSpad o x.base (imagesFor count)
    if raw then some img else (expandAll (imagesFor count / imageBytes) img).map fun l => l.take count

/-- R130, R220: LEN and SORT follow a write of a bound run up to `hi`, where its extents are still the entry's. -/
def State.closeBound (s : State) (o : Op) (b : Bound) (hi : Nat) : State :=
  match s.globalRun o.ctx b.idx with
  | some (e, _) => if e.ext = b.ext then s.setEntry o.ctx b.idx (e.stored hi) else s
  | none => s

/-- R35, R130: bytes reach a bound run in place, through bound pages where it is translated. A speculative task's are
held back. -/
def State.writeNow (s : State) (o : Op) (b : Bound) (x : Extent) (bi : Binds) (off : Nat) (bs : List Byte) : State :=
  if ((s.opCrew o).map Crew.speculating).getD false then
    s.journalOf o.crew (.store b.idx b.ext x.va.toNat (if o.translate then bi else []) off bs)
  else
    (if o.translate then State.boundPut o.owner bi (bs.length / 65536 + 2) (x.va.toNat + off) bs s
     else s.extPutBy o.owner x.id off bs).closeBound o b (off + bs.length)

/-- R220, R311: the pages before the first that cannot be reached take each aligned 8 bytes or leave them (log 14);
what a speculative task holds back stays as it was. -/
def State.writePart (s : State) (o : Op) (x : Extent) (off : Nat) (bs : List Byte) : State :=
  let va := x.va.toNat + off
  if ((s.opCrew o).map Crew.speculating).getD false then s
  else
    (pagesOf va bs.length).takeWhile (fun p => (kvGet o.pages p).isSome ||
        (match (s.translate o.ctx o.core (p * 65536) true).1 with | .ok _ => true | .error _ => false))
      |>.foldl (fun s' p =>
        let lo := Nat.max va (p * 65536) - va
        let m := Nat.min bs.length ((p + 1) * 65536 - va) - lo
        match s'.opBind o (va + lo) m true with
        | (.ok bi, s1) =>
          State.boundPut o.owner bi 2 (va + lo)
            (mixFailed s.draw (va + lo) (s1.boundBytes o.owner bi 2 (va + lo) m) ((bs.drop lo).take m)) s1
        | (.error _, s1) => s1) s.drawn

/-- R129, R130, R220: an operation writes bytes of a bound run, whose pages are walked first in TRANSLATE mode; a
failure leaves part of them written. -/
def State.writeBound (s : State) (o : Op) (b : Bound) (off : Nat) (bs : List Byte) : Except Code State × State :=
  match s.ext? b.ext with
  | none => (.ok s, s)
  | some x =>
    if bs.isEmpty then (.ok s, s)
    else if o.translate then
      match s.opBind o (x.va.toNat + off) bs.length true with
      | (.ok bi, s1) => (.ok (s1.writeNow o b x bi off bs), s1)
      | (.error c, s1) => (.error c, s1.writePart o x off bs)
    else (.ok (s.writeNow o b x [] off bs), s)

/-- R220: a copy-out by cpy ends. -/
def State.cpyOut (s : State) (o : Op) (ctl : Word) (b : Bound) (off id : Nat) : State :=
  let count := ctl.toNat % 2 ^ 32
  let fail (s' : State) (c : Code) : State := (s'.outEnd o id true).endOp o (tokenOf c) 0
  match s.buf? o.core o.ctx id with
  | none => s.endOp o (tokenOf fltBufState) 0
  | some x =>
    match s.outBytes o x (ctl.getLsbD 57) count with
    | none => fail s fltUncorr
    | some bs =>
      match s.writeBound o b off bs with
      | (.error c, s1) => fail s1 c
      | (.ok s1, _) => (s1.outEnd o id (ctl.getLsbD 62)).endOp o (BitVec.ofNat 64 count) 0

/-- CPY_COMPLETE (R220): a cpy acts, when it can. -/
def State.cpyStep (s : State) (o : Op) : Option State :=
  match o.kind with
  | .cpy ctl b off id => if ctl.getLsbD 63 then some (s.cpyOut o ctl b off id) else s.cpyIn o ctl b off id
  | _ => none

/-- The pending operation of a number. -/
def State.op? (s : State) (id : Nat) : Option Op := s.ops.find? fun o => o.id == id

/-- CPY_COMPLETE (R220): an operation that cannot end now leaves the state as it is. -/
def execCpyComplete (op : Nat) (s : State) : Host.Outcome State Fault Refusal :=
  .next (match s.op? op with
    | some o => (s.cpyStep o).getD s
    | none => s)

/-- R221: what a stream expands to within a limit, and whether it is well formed. -/
def expandStream (fmt : Nat) (bs : List Byte) (lim : Nat) : List Byte × Bool :=
  if fmt = 0 then unzstd bs lim
  else if fmt = 1 then inflate bs lim
  else
    let n := bs.length / imageBytes
    match expandAll n bs with
    | some l => if l.length ≤ lim then (l, true) else (l.take lim, false)
    | none => ((expandSome n bs).take lim, false)

/-- R221: a cpyd acts; none while it must wait. -/
def State.cpydStep (s : State) (o : Op) : Option State :=
  match o.kind with
  | .cpyd ctl b off id =>
    match s.buf? o.core o.ctx id with
    | none => some (s.endOp o (tokenOf fltBufState) 0)
    | some x =>
      if !s.fillFree o x.base (x.base + x.size) then none
      else
        match s.boundData o b off (ctl.toNat % 2 ^ 32) with
        | (.error c, s1) => some ((s1.fillEnd o id false).endOp o (tokenOf c) 0)
        | (.ok bs, s1) =>
          let r := expandStream (ctl.extractLsb' 58 3).toNat bs x.size
          if r.2 then
            some (((s1.opSpadPut o x.base r.1).fillEnd o id true).endOp o (BitVec.ofNat 64 r.1.length) 0)
          else some (((s1.spadMix o x.base r.1).fillEnd o id false).endOp o (tokenOf fltDecomp) 0)
  | _ => none

/-- CPYD_COMPLETE (R221). -/
def execCpydComplete (op : Nat) (s : State) : Host.Outcome State Fault Refusal :=
  .next (match s.op? op with
    | some o => (s.cpydStep o).getD s
    | none => s)

/-! ## bxform (R218, R219) -/

/-- R218: the fields of a command word. -/
structure Xform where
  cmd : Nat
  esz : Nat
  cvt : Nat
  len : Nat
  deriving DecidableEq, Repr

/-- R218: a command word. -/
def xformOf (w : Word) : Xform :=
  { cmd := (w.extractLsb' 0 4).toNat, esz := (w.extractLsb' 4 2).toNat, cvt := (w.extractLsb' 8 2).toNat
    len := (w.extractLsb' 32 22).toNat }

/-- R218: source and destination element bytes of a conversion. -/
def Xform.cvtSizes (x : Xform) : Nat × Nat := if x.cvt < 2 then (2, 4) else (4, 2)

/-- R218: what LEN is a multiple of. -/
def Xform.unit (x : Xform) : Nat :=
  match x.cmd with
  | 0 => 1 | 1 => 4 | 2 => 128 | 3 => 2 ^ x.esz | 4 => 2 | 5 => 3 | 6 => 5 | _ => x.cvtSizes.1

/-- R218: the output bytes. -/
def Xform.outLen (x : Xform) : Nat :=
  match x.cmd with
  | 5 => 4 * x.len / 3
  | 6 => 8 * x.len / 5
  | 7 => x.len / x.cvtSizes.1 * x.cvtSizes.2
  | _ => x.len

/-- R218: limits of the command word, and of the two ranges where they overlap. -/
def xformOk (w : Word) (a : Opd) (src dst : Word) : Bool :=
  let x := xformOf w
  let apart := decide (src.toNat + x.len ≤ dst.toNat) || decide (dst.toNat + x.outLen ≤ src.toNat)
  w.extractLsb' 54 10 == 0 && w.extractLsb' 10 22 == 0 && w.extractLsb' 6 2 == 0 && decide (x.cmd < 8) &&
    decide (1 ≤ x.len) && decide (x.len ≤ 0x300000) && !(x.cmd == 3 && x.esz == 0) && x.len % x.unit == 0 &&
    (if x.cmd < 2 then a == .s 0 else apart || (decide (2 ≤ x.cmd) && decide (x.cmd ≤ 4) && src == dst))

/-- BXFORM (R218). -/
def execBxform (d a b : Opd) (s : State) : Host.Outcome State Fault Refusal :=
  finish s do
    tokenReg d
    let b1 ← opdPlus b 1
    let b2 ← opdPlus b 2
    let src ← s.rd a
    let w ← s.rd b
    let dst ← s.rd b1
    let p ← s.rd b2
    s.engineReady d
    let x := xformOf w
    need (xformOk w a src dst) fltOperand
    if src.toNat / 2 ^ 22 ≠ 0 then fltAt fltOperand src 0
    if dst.toNat / 2 ^ 22 ≠ 0 then fltAt fltOperand dst 0
    if src.toNat % 64 ≠ 0 then fltAt fltAlign src 0
    if dst.toNat % 64 ≠ 0 then fltAt fltAlign dst 0
    let reads := decide (2 ≤ x.cmd)
    if reads && decide (Config.spadBytes < src.toNat + x.len) then fltAt fltSpadRange src 0
    if Config.spadBytes < dst.toNat + x.outLen then fltAt fltSpadRange dst 0
    let core := s.crew.coreIx
    let rs : Ranges := (if reads then [(.spad core, src.toNat, src.toNat + x.len, false)] else []) ++
      [(.spad core, dst.toNat, dst.toNat + x.outLen, true)]
    s.ilockRoom rs
    if reads then s.spadCheck src x.len false
    s.spadCheck dst x.outLen true
    let s1 ← s.touchRanges rs
    let at_ : XformAt := { todo := List.range ((x.outLen + 63) / 64), kept := [], fl := 0 }
    .ok (s1.startOp d (.bxform w src.toNat dst.toNat p at_) rs)

/-- R218: one 128-byte tile transposed. -/
def transposeTile (t : List Byte) : List Byte :=
  let xs := elemsOf 2 64 t
  bytesOfElems 2 ((List.range 64).map fun k => xs.getD (k % 8 * 8 + k / 8) 0)

/-- R218: one sample normalised: (x - off) × scale, rounded once. -/
def normSample (p : Word) (x : Nat) : FRes :=
  let off := sInt 2 (p.toNat % 65536)
  match mulExact (.ofInt (sInt 2 x - off)) (fmt32.decode (p.toNat / 2 ^ 32)) with
  | (.nan _, fl) => { bits := fmtBf.nan false, fl := fl }
  | (.inf g, _) => { bits := fmtBf.inf g, fl := 0 }
  | (.fin g m e, _) => if m = 0 then { bits := fmtBf.zero g, fl := 0 } else fmtBf.round .rne g m e false

/-- R78, R218: one element converted. -/
def cvtSample (k x : Nat) : FRes :=
  match k with
  | 0 => fmt32.convert .rne false (fmtBf.decode x)
  | 1 => fmt32.convert .rne false (fmt16.decode x)
  | 2 => fmtBf.convert .rne false (fmt32.decode x)
  | _ => fmt16.convert .rne false (fmt32.decode x)

/-- R218: the output of a command and its flags. -/
def xformOut (x : Xform) (p : Word) (bs : List Byte) : List Byte × FF :=
  match x.cmd with
  | 0 => (List.replicate x.len 0, 0)
  | 1 => ((List.replicate (x.len / 4) (leBytes 4 p.toNat)).flatten, 0)
  | 2 => (((chunksOf 128 (x.len / 128) bs).map transposeTile).flatten, 0)
  | 3 => (((chunksOf (2 ^ x.esz) (x.len / 2 ^ x.esz) bs).map List.reverse).flatten, 0)
  | 4 =>
    let rs := (elemsOf 2 (x.len / 2) bs).map (normSample p)
    (bytesOfElems 2 (rs.map FRes.bits), orFlags (rs.map FRes.fl))
  | 5 =>
    let ns := bs.map BitVec.toNat
    (bytesOfElems 2 ((List.range (x.outLen / 2)).map (pixGet .p12 ns)), 0)
  | 6 =>
    let ns := bs.map BitVec.toNat
    (bytesOfElems 2 ((List.range (x.outLen / 2)).map (pixGet .p10 ns)), 0)
  | _ =>
    let rs := (elemsOf x.cvtSizes.1 (x.len / x.cvtSizes.1) bs).map (cvtSample x.cvt)
    (bytesOfElems x.cvtSizes.2 (rs.map FRes.bits), orFlags (rs.map FRes.fl))

/-- R218, R219: the source bytes that destination line `i` needs: where they begin and how many. -/
def Xform.lineSrc (x : Xform) (i : Nat) : Nat × Nat :=
  let per := match x.cmd with
    | 5 => 48 | 6 => 40
    | 7 => 64 / x.cvtSizes.2 * x.cvtSizes.1
    | _ => 64
  if x.cmd < 2 then (0, 0)
  else if x.cmd = 2 then (i / 2 * 128, 128)
  else (i * per, Nat.min per (x.len - i * per))

/-- R218, R219: destination line `i` and its flags, from the source bytes that it needs. -/
def Xform.line (x : Xform) (p : Word) (i : Nat) (bs : List Byte) : List Byte × FF :=
  if x.cmd < 2 then (xformOut { x with len := Nat.min 64 (x.len - i * 64) } p [])
  else
    let r := xformOut { x with len := bs.length } p bs
    (if x.cmd = 2 then (r.1.drop (i % 2 * 64)).take 64 else r.1, r.2)

/-- R219: source line `i` of a bxform as it was before a transform in place replaced it. -/
def State.xformSrc (s : State) (o : Op) (src : Nat) (a : XformAt) (i : Nat) : List Byte :=
  (kvGet a.kept i).getD (s.opSpad o (src + i * 64) 64)

/-- R219: a bxform's transform of one destination line, or its end; the order of the lines is free (log 72). -/
def State.bxformStep (s : State) (o : Op) : Option State :=
  match o.kind with
  | .bxform w src dst p a =>
    let x := xformOf w
    match a.todo[Config.performPick s.draw % a.todo.length]? with
    | none => some (s.endOp o (BitVec.ofNat 64 x.outLen) a.fl)
    | some i =>
      let q := x.lineSrc i
      let bs := if x.cmd = 2 then s.xformSrc o src a (i / 2 * 2) ++ s.xformSrc o src a (i / 2 * 2 + 1)
        else s.opSpad o (src + q.1) q.2
      let r := x.line p i bs
      let mate := i / 2 * 2 + (i + 1) % 2
      let kept := if x.cmd = 2 ∧ src = dst then
          (if (kvGet a.kept mate).isSome then a.kept.filter fun k => k.1 != mate else (i, s.opSpad o (src + i * 64) 64) :: a.kept)
        else a.kept
      let b : XformAt := { todo := a.todo.erase i, kept := kept, fl := a.fl ||| r.2 }
      let s1 := (s.opSpadPut o (dst + i * 64) r.1).drawn
      let s2 := { s1 with ops := s1.ops.map fun (y : Op) => if y.id = o.id then { y with kind := .bxform w src dst p b } else y }
      some (if b.todo.isEmpty then s2.endOp o (BitVec.ofNat 64 x.outLen) b.fl else s2)
  | _ => none

/-- BXFORM_COMPLETE (R218, R219): one more destination line is written, the last one with the token. -/
def execBxformComplete (op : Nat) (s : State) : Host.Outcome State Fault Refusal :=
  .next (match s.op? op with
    | some o => (s.bxformStep o).getD s
    | none => s)

/-! ## rmark (R228) -/

/-- R228: the element type of a code. -/
def elemTyOf (k : BitVec 3) : ElemTy :=
  match k.toNat with
  | 0 => .i8 | 1 => .i16 | 2 => .i32 | 3 => .i64 | 4 => .bf16 | 5 => .f16 | 6 => .f32 | _ => .f64

/-- R228: limits of an attribute word. An f32 TVAL is the one that TABS = 1 makes (DEDUCED, log 39). -/
def attrOk (w : Word) : Bool :=
  let t := elemTyOf (w.extractLsb' 4 3)
  let tv := fmt32.decode (w.toNat / 2 ^ 32)
  w.extractLsb' 8 24 == 0 && !(w.getLsbD 1 && !w.getLsbD 0) &&
    (w == 0 || (elSize t == 2 ^ (w.extractLsb' 2 2).toNat &&
      !((elFmt t).isNone && !w.getLsbD 7) &&
      !(w.getLsbD 7 && (tv.isNan || (tv.neg && !(match tv with | .fin _ m _ => m == 0 | _ => false))))))

/-- RMARK (R228). -/
def execRmark (a b : Opd) (s : State) : Host.Outcome State Fault Refusal :=
  finish s do
    let h ← s.rd a
    let w ← s.rd b
    need (attrOk w) fltOperand
    let (i, e, _) ← s.handle h
    s.drained
    needObj (e.mayWrite s.owner && e.len == 0) fltRunState h
    .ok (s.editEntry i e (.mark (w.getLsbD 0) (w.getLsbD 1) (w.getLsbD 7) (elemTyOf (w.extractLsb' 4 3))
      (w.extractLsb' 2 2) (w.extractLsb' 32 32))).adv

/-! ## Storage (R230, R231) -/

/-- R230, R334: the queue pair that a target word names, for a crew's context and die. -/
def State.qpOf (s : State) (t : Word) : Option NvmeQp :=
  s.nvme.find? fun q => q.drive == t.extractLsb' 0 5 && q.qp == t.extractLsb' 8 8 && q.nsid == t.extractLsb' 32 32 &&
    q.ctx == s.crew.ctx && q.die == s.crew.die

/-- R230: bytes of a storage command. -/
def commandBytes (ctl : Word) (q : NvmeQp) : Nat := ctl.toNat % 2 ^ 32 * q.lba

/-- The storage command of an operation: target, first LBA and count. -/
def Op.storage (o : Op) : Option (Word × Nat × Nat) :=
  match o.kind with
  | .sread ctl t l _ | .swrite ctl t l _ => some (t, l.toNat, ctl.toNat % 2 ^ 32)
  | _ => none

/-- R231: a pending storage command of the thread overlaps a range of the same namespace. -/
def State.storageOverlap (s : State) (t : Word) (lba n : Nat) : Bool :=
  s.ops.any fun o => o.crew == s.crew.id && o.thread == s.thr.idx && (match o.storage with
    | some (u, l, m) => u.extractLsb' 0 5 == t.extractLsb' 0 5 && u.extractLsb' 32 32 == t.extractLsb' 32 32 &&
        decide (l < lba + n) && decide (lba < l + m)
    | none => false)

/-- R230: the 64-byte Read or Write command of the NVM command set for `n` LBAs and `bytes` bytes at a PCIe address
(PRESUMED, log 14): opcode and CID, NSID, PRP1 and PRP2, the LBA, and the count with FUA. -/
def sqEntry (write fua : Bool) (cid nsid : Nat) (lba : Word) (n : Nat) (addr : Word) (bytes : Nat) (list : Word) : List Byte :=
  let prp2 : Word := if addr.toNat % 4096 + bytes ≤ 4096 then 0
    else if addr.toNat % 4096 + bytes ≤ 8192 then BitVec.ofNat 64 ((addr.toNat / 4096 + 1) * 4096) else list
  leBytes 4 ((if write then 1 else 2) + cid % 65536 * 65536) ++ leBytes 4 nsid ++ List.replicate 16 0 ++ leBytes 8 addr.toNat ++
    leBytes 8 prp2.toNat ++ leBytes 8 lba.toNat ++ leBytes 4 (n - 1 + (if fua then 2 ^ 30 else 0)) ++ List.replicate 12 0

/-- R230, R334: a command enters its submission queue, and the doorbell write leaves the package. Its data moves from
or to the buffer at `base` through the core's peer-to-peer window. -/
def State.submit (s : State) (q : NvmeQp) (op : Nat) (write : Bool) (ctl lba : Word) (base : Nat) : State :=
  let at_ := q.sq + 64 * q.tail
  let n := ctl.toNat % 2 ^ 32
  let addr := Config.windowBase + BitVec.ofNat 64 (spadKey s.crew.coreIx base)
  let bs := sqEntry write (write && ctl.getLsbD 61) op q.nsid.toNat lba n addr (n * q.lba) (Config.prpList s.draw)
  let s1 := (s.spadPut (q.die.toNat * 32 + q.core.toNat) (s.ownerOf q.ctx) at_ bs).drawn
  { s1 with nvme := s1.nvme.map fun (x : NvmeQp) =>
      if x.drive = q.drive ∧ x.qp = q.qp then { x with tail := (x.tail + 1) % x.depth, out := x.out ++ [op] } else x }

/-- R230: sread and swrite. A command whose LBA range overlaps one that is pending waits at issue (R231). -/
def storage (write : Bool) (d a b : Opd) (s : State) : Host.Outcome State Fault Refusal :=
  finish s do
    tokenReg d
    let b1 ← opdPlus b 1
    let b2 ← opdPlus b 2
    let ctl ← s.rd a
    let t ← s.rd b
    let lba ← s.rd b1
    let bw ← s.rd b2
    s.engineReady d
    let n := ctl.toNat % 2 ^ 32
    need (ctlOk ctl false write write false write && decide (1 ≤ n) && decide (n ≤ 65536)) fltOperand
    need (t.extractLsb' 5 3 == 0 && t.extractLsb' 16 16 == 0) fltOperand
    let id ← bufWord bw
    let bf := s.bufHere id
    let raw := ctl.getLsbD 57
    let m := match s.qpOf t with | some q => commandBytes ctl q | none => 0
    let room (x : Buf) : Nat := if x.comp && write && !raw then imagesFor m else m
    let rs : Ranges := match bf with
      | some x => [(.spad s.crew.coreIx, x.base, x.base + room x, !write)]
      | none => []
    s.ilockRoom rs
    let x ← s.needBuf id (if write then [.full, .draining] else [.empty])
    match s.qpOf t with
    | none => flt fltOperand
    | some q => do
      need (decide (m ≤ x.size) && decide (room x ≤ x.size) && !(raw && (!x.comp || m % imageBytes != 0))) fltOperand
      if write then s.oldestOnly
      await (!s.storageOverlap t lba.toNat n) .storage
      await (decide (q.out.length + 1 < q.depth)) .storage
      let s1 ← s.touchRanges rs
      let s2 := (if write then s1.outStart x else s1.fillStart x).submit q s1.fresh write ctl lba x.base
      .ok (s2.startOp d (if write then .swrite ctl t lba id else .sread ctl t lba id) rs)

/-- SREAD (R230). -/
def execSread (d a b : Opd) (s : State) : Host.Outcome State Fault Refusal := storage false d a b s

/-- SWRITE (R230). -/
def execSwrite (d a b : Opd) (s : State) : Host.Outcome State Fault Refusal := storage true d a b s

/-- R334: the 16-byte completion queue entry of a command (PRESUMED, log 14): the submission head and queue, the
command, the phase tag and the status. -/
def cqEntry (q : NvmeQp) (cid : Nat) (status : BitVec 16) : List Byte :=
  List.replicate 8 0 ++ leBytes 4 (q.tail + q.qp.toNat * 65536) ++
    leBytes 4 (cid % 65536 + (if q.phase then 65536 else 0) + status.toNat % 32768 * 131072)

/-- R230, R334: the drive writes a command's completion at the head of the completion queue, where its phase tag
shows it: the queue pair's slot is free, and a non-zero status is kept. -/
def State.storageSeen (s : State) (op : Nat) (status : BitVec 16) : State :=
  match s.nvme.find? fun q => q.out.contains op with
  | none => s
  | some q =>
    let s1 := s.spadPut (q.die.toNat * 32 + q.core.toNat) (s.ownerOf q.ctx) (q.sq + 64 * q.depth + 16 * q.head) (cqEntry q op status)
    let last := q.head + 1 = q.depth
    { s1 with nvme := s1.nvme.map fun (x : NvmeQp) =>
        if x.drive = q.drive ∧ x.qp = q.qp then
          { x with
            out := x.out.filter fun i => i != op, err := if status = 0 then x.err else status
            head := if last then 0 else x.head + 1, phase := if last then !x.phase else x.phase }
        else x }

/-- R216: whether a completion must wait: it ends a fill whose bytes an earlier read still holds. -/
def State.storageWaits (s : State) (op : Nat) : Bool :=
  match s.op? op with
  | some o =>
    (match o.kind with
     | .sread _ _ _ id => (match s.buf? o.core o.ctx id with | some x => !s.fillFree o x.base (x.base + x.size) | none => false)
     | _ => false)
  | none => false

/-- STORAGE_COMPLETE (R230): the drive's completion, with the data that a read brings; missing bytes are
zero. The completion of a command whose operation has been discarded (R211) only frees its slot. -/
def execStorageComplete (op : Nat) (status : BitVec 16) (data : List (BitVec 8)) (s : State) :
    Host.Outcome State Fault Refusal :=
  .next (match s.op? op with
    | none => s.storageSeen op status
    | some o =>
      let bytes (ctl : Word) : Nat := match s.nvme.find? fun q => q.out.contains op with
        | some q => commandBytes ctl q
        | none => 0
      let s0 := s.storageSeen op status
      match o.kind with
      | .sread ctl _ _ id =>
        let n := bytes ctl
        let bs := (data ++ List.replicate (n - data.length) 0).take n
        (match s.buf? o.core o.ctx id with
         | none => s0.endOp o (tokenOf fltBufState) 0
         | some x =>
           if status = 0 then
             ((s0.opSpadPut o x.base bs).fillEnd o id true).endOp o (BitVec.ofNat 64 n) 0
           else ((s0.spadMix o x.base bs).fillEnd o id false).endOp o (tokenOf fltStorage) 0)
      | .swrite ctl _ _ id =>
        let n := bytes ctl
        (match s.buf? o.core o.ctx id with
         | none => s0.endOp o (tokenOf fltBufState) 0
         | some x =>
           if (s.outBytes o x (ctl.getLsbD 57) n).isNone then (s0.outEnd o id true).endOp o (tokenOf fltUncorr) 0
           else if status = 0 then (s0.outEnd o id (ctl.getLsbD 62)).endOp o (BitVec.ofNat 64 n) 0
           else (s0.outEnd o id true).endOp o (tokenOf fltStorage) 0)
      | _ => s)

end Sys2Proof.Machine
end

