-- ==== Sys2Proof/Machine/Fabric.lean ====
section
/-! DEFINITION. Fabric messages: xput and xsend at issue, relays, delivery to this package, and the return of
their tokens (R232-R236). Another package is outside the model: what a message that leaves this one meets
there comes back with FABRIC_TOKEN_RETURN (log 1). -/

namespace Sys2Proof.Machine

/-! ## Issue -/

/-- R232: the fields of a fabric control word. -/
def fabCount (ctl : Word) : Nat := ctl.toNat % 2 ^ 22
def fabKeep (ctl : Word) : Bool := ctl.getLsbD 22
def fabSig (ctl : Word) : Bool := ctl.getLsbD 23
def fabRidx (ctl : Word) : BitVec 6 := ctl.extractLsb' 24 6
def fabDie (ctl : Word) : BitVec 2 := ctl.extractLsb' 30 2
def fabAdd (ctl : Word) : Nat := ctl.toNat / 2 ^ 32

/-- R232: RIDX is 0 where no leg is relay, and ADD is 0 where SIG is. -/
def fabCtlOk (ctl : Word) (t : Route) : Bool :=
  (Route.relays t || fabRidx ctl == 0) && (fabSig ctl || fabAdd ctl == 0)

/-- A message joins those in flight; `id` is its operation's number too. -/
def State.launchMsg (s : State) (t : Route) (ctl : Word) (data : List Byte) : State :=
  let m : Msg := { id := s.fresh, op := s.fresh, route := t, ridx := fabRidx ctl, relays := 0, link := none
                   data := data, delivered := none, ordinal := s.thr.pushes }
  { s with msgs := s.msgs ++ [m] }

/-- R225, R226: up to `n` logical bytes of a buffer: those before the first slot image that cannot be expanded. -/
def State.bufData (s : State) (b : Buf) (n : Nat) : List Byte :=
  if !b.comp then s.spadRead b.base n
  else (expandSome (imagesFor n / imageBytes) (s.spadRead b.base (imagesFor n))).take n

/-- R226: the logical bytes that a buffer can hold. -/
def Buf.room (b : Buf) : Nat := if b.comp then b.size / imageBytes * blockBytes else b.size

/-- XPUT (R232, R233). A signal address that no package could hold fails at issue (DEDUCED, log 40). -/
def execXput (r : BitVec 6) (t : Route) (s : State) : Host.Outcome State Fault Refusal :=
  finish s do
    let d := regOf6 r
    tokenReg d
    let r1 ← opdPlus d 1
    let r2 ← opdPlus d 2
    let r3 ← opdPlus d 3
    let r4 ← opdPlus d 4
    let r5 ← opdPlus d 5
    let ctl ← s.rd r1
    let bw ← s.rd r2
    let h ← s.rd r3
    let off ← s.rd r4
    let sa ← s.rd r5
    s.engineReady d
    let n := fabCount ctl
    need (fabCtlOk ctl t && fabDie ctl == 0) fltOperand
    if fabSig ctl && (spaceOf sa != 1 || !addrOk sa) then fltAt fltOperand sa 0
    if n = 0 then do
      if fabSig ctl && sa.toNat % 8 != 0 then fltAt fltAlign sa 0
      s.oldestOnly
      .ok ((s.launchMsg t ctl []).startOp d (.xput ctl t none h off sa) [])
    else do
      let id ← bufWord bw
      if fabSig ctl && sa.toNat % 8 != 0 then fltAt fltAlign sa 0
      let rs : Ranges := match s.bufHere id with
        | some x => [(.spad s.crew.coreIx, x.base, x.base + (if x.comp then imagesFor n else n), false)]
        | none => []
      s.ilockRoom rs
      let x ← s.needBuf id [.full, .draining]
      need (decide (n ≤ x.size) && decide (n ≤ x.room)) fltOperand
      s.oldestOnly
      let s1 ← s.touchRanges rs
      let s2 := s1.launchMsg t ctl (s1.bufData x n)
      .ok ((s2.outStart x).startOp d (.xput ctl t (some id) h off sa) rs)

/-- XSEND (R232, R234). The bytes that COUNT records take are known at the destination; the message carries what the
buffer can give. -/
def execXsend (r : BitVec 6) (t : Route) (s : State) : Host.Outcome State Fault Refusal :=
  finish s do
    let d := regOf6 r
    tokenReg d
    let r1 ← opdPlus d 1
    let r2 ← opdPlus d 2
    let r3 ← opdPlus d 3
    let ctl ← s.rd r1
    let bw ← s.rd r2
    let h ← s.rd r3
    s.engineReady d
    need (fabCtlOk ctl t && !fabSig ctl && decide (1 ≤ fabCount ctl)) fltOperand
    let id ← bufWord bw
    let rs : Ranges := match s.bufHere id with
      | some x => [(.spad s.crew.coreIx, x.base, x.base + x.size, false)]
      | none => []
    s.ilockRoom rs
    let x ← s.needBuf id [.full, .draining]
    need (decide (fabCount ctl * 8 ≤ x.room)) fltOperand
    s.oldestOnly
    let s1 ← s.touchRanges rs
    let s2 := (s1.launchMsg t ctl (s1.bufData x x.room)).modThr fun t => { t with pushes := t.pushes + 1 }
    .ok ((s2.outStart x).startOp d (.xsend ctl t id h) rs)

/-! ## In flight -/

/-- The message of a number. -/
def State.msg? (s : State) (id : Nat) : Option Msg := s.msgs.find? fun m => m.id == id

/-- Change a message. -/
def State.setMsg (s : State) (m : Msg) : State :=
  { s with msgs := s.msgs.map fun (x : Msg) => if x.id = m.id then m else x }

/-- A message reaches its end with a token value. -/
def State.settleMsg (s : State) (m : Msg) (v : Word) : State := s.setMsg { m with delivered := some v }

/-- The route string and RIDX of an operation's message as issued. -/
def Op.fabric (o : Op) : Option (Route × BitVec 6) :=
  match o.kind with
  | .xput ctl t _ _ _ _ => some (t, fabRidx ctl)
  | .xsend ctl t _ _ => some (t, fabRidx ctl)
  | _ => none

/-- R236, R269: whether a message has still to leave or to be delivered here: a delivered xsend until its push has
entered the queue. -/
def State.undelivered (s : State) (m : Msg) : Bool :=
  m.link.isNone && (m.delivered.isNone || s.pushes.any fun p => p.id == m.id)

/-- R236: whether an earlier message of the thread with an equal route string and RIDX is still to leave or to be
delivered. -/
def State.msgBehind (s : State) (m : Msg) (o : Op) : Bool :=
  (s.msgs.takeWhile fun x => x.id != m.id).any fun x => s.undelivered x && (match s.op? x.op with
    | some p => p.crew == o.crew && p.thread == o.thread && p.fabric == o.fabric
    | none => false)

/-- R335, R236: whether a message fails: before stage 2, or where its legs meet a retired link or no package of the
domain in service. -/
def State.noWay (s : State) (m : Msg) : Bool :=
  decide (s.stage.toNat < 2) || !s.pathOk s.xyz (Route.hops m.route)

/-- R236, R360: a message leaves over a port of its first leg's direction. -/
def State.leave (s : State) (m : Msg) : State :=
  match m.route.leg0 with
  | .hop d _ =>
    (match s.portFor d.val with
     | some p => { s.setMsg { m with link := some p.val } with ports := s.ports.set p (s.ports[p].send m) }.countPort p.val 0 m.flits
     | none => s)
  | _ => s

/-- Why a message cannot be acted on here: a failed route, or, of an xput, slot images that cannot be expanded. -/
def State.badMsg (s : State) (m : Msg) (o : Op) : Option Code :=
  if s.noWay m then some fltRoute
  else
    match o.kind with
    | .xput ctl _ (some _) _ _ _ => if m.data.length < fabCount ctl then some fltUncorr else none
    | _ => none

/-- RELAY_FORWARD (R235): this package's relay engine forwards a message by its table, or discards it. -/
def execRelayForward (msg : Nat) (s : State) : Host.Outcome State Fault Refusal :=
  .next (match s.msg? msg with
    | none => s
    | some m =>
      if m.delivered.isSome || m.link.isSome || m.route.leg0 != .relay then s
      else
        let e := s.relay[Fin.ofNat 64 m.ridx.toNat]
        if s.noWay m || !e.getLsbD 63 || decide (4 ≤ m.relays) then s.settleMsg m (tokenOf fltRoute)
        else
          match Route.ofCode (e.extractLsb' 0 18) with
          | none => s.settleMsg m (tokenOf fltRoute)
          | some t => s.setMsg { m with route := t, ridx := e.extractLsb' 24 6, relays := m.relays + 1 })

/-! ## Delivery to this package -/

/-- R126, R130, R136, R220, R233: the checks of an xput's data at its destination. -/
def State.xputCheck (s : State) (o : Op) (h off : Word) (n : Nat) : Except Code (Nat × CabEntry) :=
  let idx := h.toNat % 65536
  match s.globalRun o.ctx idx with
  | none => .error fltRunHandle
  | some (e, _) =>
    if h.toNat / 2 ^ 32 ≠ 0 ∨ idx = 0 ∨ !(e.live || e.st == .closed) ∨ e.gen ≠ BitVec.ofNat 16 (h.toNat / 65536) then .error fltRunHandle
    else if !e.mayWrite (s.ownerOf o.ctx) then .error fltRunState
    else if off.toNat % e.recSize ≠ 0 ∨ n % e.recSize ≠ 0 then .error fltOperand
    else if e.cap * e.recSize < off.toNat + n then .error fltRunBounds
    else .ok (idx, e)

/-- R233, R238: the signal of an xput: no failure, or why the add fails. -/
def State.signalCheck (s : State) (o : Op) (sa : Word) : Option Code :=
  if sigPkg sa ≠ s.pkg then some fltRoute
  else if !s.sigMine (s.ownerOf o.ctx) sa then some fltSignal
  else none

/-- R233: ADD is added to the signal word, an atomic at its slice (R339). -/
def State.addSignal (s : State) (sa : Word) (v : Nat) : State :=
  { s with sig := s.sig.put (sigKey sa) (leBytes 8 (leNat (s.sigBytes sa 8) + v)) }.sigEvent sa 2

/-- R215, R233: an xput's operation as its destination performs it, in the translation mode of its context there. -/
def State.atDest (s : State) (o : Op) : Op :=
  { o with translate := (match s.ctxOf o.ctx with | some c => c.translate | none => false), pages := [] }

/-- R233: an xput acts at its destination: the data, then the signal; the token value and the state. A signal that
cannot be added fails the whole xput before its data, and its code is the one reported; a part of a block of a COMP run
may be written from a C buffer (DESIGN CHOICE, log 40). -/
def State.xputArrive (s : State) (o : Op) (data : List Byte) (ctl h off sa : Word) : Word × State :=
  let n := fabCount ctl
  let sig (s' : State) : State := if fabSig ctl then s'.addSignal sa (fabAdd ctl) else s'
  match (if fabSig ctl then s.signalCheck o sa else none) with
  | some c => (tokenOf c, s)
  | none =>
    if n = 0 then (0, sig s)
    else
      match s.xputCheck o h off n with
      | .error c => (tokenOf c, s)
      | .ok (idx, e) =>
        let b : Bound := { idx := idx, ver := e.ver, ext := e.ext, len := e.len }
        match s.writeBound (s.atDest o) b off.toNat data with
        | (.error c, s1) => (tokenOf c, s1)
        | (.ok s1, _) => (BitVec.ofNat 64 n, sig s1)

/-- R232: a message of another package as its operation acts here, in the context of its number; its translations
are core 0's (log 40). -/
def State.inboundOp (s : State) (x : Inbound) : Op :=
  { id := s.fresh, kind := .xput x.ctl { leg0 := .null, leg1 := .null, leg2 := .null } none x.handle x.off x.sig
    tok := .dropped, crew := s.fresh, thread := 0, ctx := x.ctx
    owner := s.ownerOf x.ctx, core := 0, translate := false, pages := [], ts := x.ts, slot := 0, pc := 0 }

/-- XPUT_DELIVER (R233, R236): delivery to this package, or the departure of a message for another. The token of one
that another package sends is that package's. -/
def execXputDeliver (msg : Arrival) (s : State) : Host.Outcome State Fault Refusal :=
  .next (match msg with
    | .inbound x => if s.stage.toNat < 2 then s else (s.xputArrive (s.inboundOp x) (x.data.take (fabCount x.ctl)) x.ctl x.handle x.off x.sig).2
    | .own id =>
      match s.msg? id with
      | none => s
      | some m =>
        match s.op? m.op with
        | none => { s with msgs := s.msgs.filter fun x => x.id != id }
        | some o =>
          match o.kind with
          | .xput ctl _ _ h off sa =>
            if m.delivered.isSome || m.link.isSome || s.msgBehind m o then s
            else
              match s.badMsg m o with
              | some c => s.settleMsg m (tokenOf c)
              | none =>
                if !s.endsHere m.route then s.leave m
                else
                  let r := s.xputArrive o m.data ctl h off sa
                  r.2.settleMsg m r.1
          | _ => s)

/-- R234: a queue that an xsend names. -/
def State.xsendQueue (s : State) (o : Op) (h : Word) (die : BitVec 2) : Except Code (Nat × BEntry) :=
  let idx := h.toNat % 65536
  match s.queueAt { ctx := o.ctx, idx := idx } with
  | none => .error fltQueueHandle
  | some b =>
    if h.toNat / 2 ^ 32 ≠ 0 ∨ idx = 0 ∨ !b.live ∨ b.gen ≠ BitVec.ofNat 16 (h.toNat / 65536) ∨ (b.die ≠ die ∧ b.launchQ.isNone) then
      .error fltQueueHandle
    else if b.kind ≠ .expert ∧ b.kind ≠ .stream then .error fltQueueKind
    else if b.closed then .error fltQueueState
    else .ok (idx, b)

/-- R163, R165: a push sets out for its queue, which it touches. -/
def State.pushed (s : State) (p : Push) : State :=
  { s with pushes := s.pushes ++ [p] }.modQueue p.q.ctx p.q.idx fun x => { x with touched := s.clk }

/-- R165, R167, R234: an xsend's records leave for the queue's home core as one push of a number; the token value and
the state. `room` is the most that its buffer could hold, and `data` what it gave (R226). -/
def State.xsendArrive (s : State) (o : Op) (id ordinal room : Nat) (data : List Byte) (ctl h : Word) : Word × State :=
  match s.xsendQueue o h (fabDie ctl) with
  | .error c => (tokenOf c, s)
  | .ok (idx, b) =>
    let q : QRef := { ctx := o.ctx, idx := idx }
    let n := fabCount ctl
    let f := Nat.min n (s.queueRoom q b)
    if room < n * b.recSize then (tokenOf fltOperand, s)
    else if data.length < n * b.recSize then (tokenOf fltUncorr, s)
    else if f = 0 then (tokenOf fltQueueSpill, s.countCore o.core 211 1 (some o.who))
    else
      let p : Push := { id := id, q := q, recs := chunksOf b.recSize f data, origin := o.ts
                        thread := o.crew * 4 + o.thread, slot := o.slot, ordinal := ordinal }
      (BitVec.ofNat 64 (f * b.recSize), (if b.inSram || b.launchQ.isSome then s else s.addMiss o.ctx idx).pushed p)

/-- XSEND_DELIVER (R234, R236): delivery to this package, or the departure of a message for another. The token of one
that another package sends is that package's. -/
def execXsendDeliver (msg : Arrival) (s : State) : Host.Outcome State Fault Refusal :=
  .next (match msg with
    | .inbound x =>
      if s.stage.toNat < 2 then s
      else (State.xsendArrive { s with fresh := s.fresh + 1 } (s.inboundOp x) s.fresh 0 x.data.length x.data x.ctl x.handle).2
    | .own id =>
      match s.msg? id with
      | none => s
      | some m =>
        match s.op? m.op with
        | none => { s with msgs := s.msgs.filter fun x => x.id != id }
        | some o =>
          match o.kind with
          | .xsend ctl _ buf h =>
            if m.delivered.isSome || m.link.isSome || s.msgBehind m o then s
            else
              match s.badMsg m o with
              | some c => s.settleMsg m (tokenOf c)
              | none =>
                if !s.endsHere m.route then s.leave m
                else
                  let room := match s.buf? o.core o.ctx buf with | some b => b.room | none => m.data.length
                  let r := s.xsendArrive o m.id m.ordinal room m.data ctl h
                  r.2.settleMsg m r.1
          | _ => s)

/-! ## The token -/

/-- R215, R236: a message's token is written and its copy-out ends; a negative value is a failure. -/
def State.endMsg (s : State) (m : Msg) (o : Op) (v : Word) : State :=
  let s1 := { s with msgs := s.msgs.filter fun x => x.id != m.id }
  let keep (ctl : Word) : Bool := v.getLsbD 63 || fabKeep ctl
  match o.kind with
  | .xput ctl _ (some id) _ _ _ => (s1.outEnd o id (keep ctl)).endOp o v 0
  | .xsend ctl _ id _ => (s1.outEnd o id (keep ctl)).endOp o v 0
  | _ => s1.endOp o v 0

/-- FABRIC_TOKEN_RETURN (R236): the value that delivery here found, or the one that another package returns. An
xsend's waits for its push to enter the queue (R271). -/
def execFabricTokenReturn (msg : Nat) (value : BitVec 64) (s : State) : Host.Outcome State Fault Refusal :=
  .next (match s.msg? msg with
    | none => s
    | some m =>
      match s.op? m.op with
      | none => { s with msgs := s.msgs.filter fun x => x.id != msg }
      | some o =>
        match m.delivered with
        | some v => if s.pushes.any fun p => p.id == m.id then s else s.endMsg m o v
        | none => if m.link.isSome then s.endMsg m o value else s)

end Sys2Proof.Machine
end

