-- ==== Sys2Proof/Machine/Package.lean ====
section
/-! DEFINITION. What happens to the package as a whole: its stages, its ports and their flits, power and heat,
firmware faults, scrubbing, the peer window and SPDM (R313, R329-R331, R335, R337, R357-R364). -/

namespace Sys2Proof.Machine

/-! ## Stages (R335, R337) -/

/-- POWER_GOOD (R335): what the package does not hold itself, its fuses and its retired dies stay; a core that fails
its self-test retires its die (R361). -/
def execPowerGood (s : State) : Host.Outcome State Fault Refusal :=
  .next { State.reset with
    host := s.host, hostDenied := s.hostDenied, inputs := s.inputs, stepNo := s.stepNo, draw := s.draw + 1, fresh := s.fresh
    capclass := s.capclass, deadDies := s.deadDies ||| Config.selfTest s.draw, pkg := s.pkg, xyz := s.xyz, lag := s.lag, slack := s.slack }

/-- STAGE1_READY (R335): it can happen once an image is loaded and the package is not held. -/
def execStage1Ready (die : BitVec 2) (s : State) : Host.Outcome State Fault Refusal :=
  .next (if 1 ≤ s.stage.toNat ∧ s.deadDies.getLsbD die.toNat = false then { s with dieRdy := s.dieRdy ||| BitVec.ofNat 4 (2 ^ die.toNat) }
    else s)

/-- R235, R302: a relay table entry, for the place that it leads to and its NEXT; not VALID where no order will do. -/
def State.relayWord (s : State) (k : Nat) : Word :=
  match Config.relayGoal (match s.fw with | some f => f.version | none => 0) k with
  | none => 0
  | some (t, next) =>
    match s.routeTo t with
    | none => 0
    | some r => BitVec.ofNat 64 (2 ^ 63 + next.toNat * 2 ^ 24 + r.code.toNat)

/-- R302, R335, R361: the firmware writes the fabric map with the retired links, and then the relay table. -/
def State.writeTables (s : State) : State :=
  let s1 := { s with
    fabric := s.pkg :: (Config.fabricMap s.draw).filter fun p => p != s.pkg
    badLinks := Config.linkMap s.draw
    draw := s.draw + 1 }
  { s1 with relay := Vector.ofFn fun (k : Fin 64) => s1.relayWord k.val }

/-- STAGE2_READY (R335). -/
def execStage2Ready (s : State) : Host.Outcome State Fault Refusal :=
  .next (if s.stage = 1 then { s with stage := 2 }.writeTables else s)

/-- STAGE3_READY (R335). -/
def execStage3Ready (s : State) : Host.Outcome State Fault Refusal :=
  .next (if s.stage = 2 then { s with stage := 3 } else s)

/-- R337: every context is killed. -/
def State.killAll (s : State) (f : FaultRec) : State :=
  (s.ctxs.map Ctx.ctx).foldl (fun s' c => s'.kill c f) s

/-- R337: the package returns to stage 0 with no image. -/
def State.firmwareDown (s : State) (f : FaultRec) : State :=
  { s.killAll f with stage := 0, dieRdy := 0, fw := none }

/-- FIRMWARE_FAULT (R337). -/
def execFirmwareFault (s : State) : Host.Outcome State Fault Refusal := .next (s.firmwareDown (bareFault 0))

/-! ## Ports (R225, R359-R361) -/

/-- Change a port. -/
def State.modPort (s : State) (p : Nat) (f : Port → Port) : State :=
  if h : p < 24 then { s with ports := s.ports.set p (f s.ports[p]) } else s

/-- A port. -/
def State.port (s : State) (p : Nat) : Port := if h : p < 24 then s.ports[p] else Port.init

/-- R360: failures in succession that take a link down. -/
def maxFails : Nat := 8

/-- R360: the flits that a sender sends again once one of them has been NAKed. -/
def Port.replay (x : Port) (seq : BitVec 12) : List Flit := x.sent.dropWhile fun f => f.seq != seq

/-- R360, R361: the messages with a flit that may be undelivered: one from the flit last NAKed on, or any in the retry
buffer. -/
def Port.owing (x : Port) : List Nat := (match x.replayFrom with | some q => x.replay q | none => x.sent).filterMap Flit.msg

/-- R361: a message with a flit undelivered on a link that has failed ends with −FLT_ROUTE: after 8 failures every one
with a flit from the failing one on; else which of those that may have one do is free (log 1). -/
def State.loseFlits (s : State) (p : Nat) (x : Port) : State :=
  { s with
    msgs := s.msgs.map fun (m : Msg) =>
      if m.link = some p ∧ m.delivered.isNone ∧ x.owing.contains m.id = true ∧ (maxFails ≤ x.txFails ∨ Config.flitsLost s.draw m.id) then
        { m with delivered := some (tokenOf fltRoute) } else m
    draw := s.draw + 1 }

/-- R361: a port is retired: its messages are lost, and the tables are written again once they stand. -/
def State.retirePort (s : State) (p : Nat) : State :=
  if p < 24 then
    let s1 := ({ s with phRdy := s.phRdy &&& ~~~(BitVec.ofNat 24 (2 ^ p)) }.modPort p fun x =>
      { x with retired := true, trained := false, comp := false, sent := [] }).loseFlits p (s.port p)
    if 2 ≤ s.stage.toNat then s1.writeTables else s1
  else s

/-- PORT_TRAINED (R225, R335, R359): both ends have trained. -/
def execPortTrained (port : BitVec 5) (s : State) : Host.Outcome State Fault Refusal :=
  .next (if 1 ≤ s.stage.toNat ∧ port.toNat < 24 ∧ (s.port port.toNat).retired = false then
    { s with phRdy := s.phRdy ||| BitVec.ofNat 24 (2 ^ port.toNat), draw := s.draw + 1 }.modPort port.toNat fun x =>
      { x with trained := true, comp := Config.portCompresses s.draw }
    else s)

/-- PORT_TRAINING_TIMEOUT (R359): a port that has not trained is retired. -/
def execPortTrainingTimeout (port : BitVec 5) (s : State) : Host.Outcome State Fault Refusal :=
  .next (if (s.port port.toNat).trained then s else s.retirePort port.toNat)

/-- R360: what a receiver makes of a flit. -/
def Port.receive (x : Port) (seq : BitVec 12) (good : Bool) : Port :=
  if seq ≠ x.rx then x
  else if good then { x with rx := x.rx + 1, nak := false, fails := 0 }
  else { x with nak := true, fails := x.fails + 1 }

/-- R360, R361: a port whose flit has failed 8 times in succession is down, and retired. -/
def State.portFailed (s : State) (p : Nat) : State :=
  if maxFails ≤ (s.port p).fails ∨ maxFails ≤ (s.port p).txFails then s.retirePort p else s

/-- FLIT_RECEIVE (R360): a flit that fails its CRC is NAKed, and later ones are discarded until it arrives. -/
def execFlitReceive (port : BitVec 5) (seq : BitVec 12) (good : Bool) (s : State) : Host.Outcome State Fault Refusal :=
  .next (if (s.port port.toNat).trained then
      ((if good ∧ seq = (s.port port.toNat).rx then s.countPort port.toNat 1 1 else s).modPort port.toNat fun x =>
        x.receive seq good).portFailed port.toNat
    else s)

/-- R360: what a sender makes of a NAK of a flit that its retry buffer holds: it sends that flit and all later ones
again, in this step. -/
def Port.naked (x : Port) (seq : BitVec 12) : Port :=
  if (x.replay seq).isEmpty then x
  else { x with replayFrom := some seq, txFails := if x.replayFrom = some seq then x.txFails + 1 else 1 }

/-- FLIT_NAK (R360). -/
def execFlitNak (port : BitVec 5) (seq : BitVec 12) (s : State) : Host.Outcome State Fault Refusal :=
  .next (if (s.port port.toNat).trained then
      ((s.countPort port.toNat 2 ((s.port port.toNat).replay seq).length).modPort port.toNat fun x => x.naked seq).portFailed port.toNat
    else s)

/-- LINK_DOWN (R360, R361). -/
def execLinkDown (port : BitVec 5) (s : State) : Host.Outcome State Fault Refusal := .next (s.retirePort port.toNat)

/-- UNCORRECTED_CODEWORD_LIMIT (R361). -/
def execUncorrectedCodewordLimit (port : BitVec 5) (s : State) : Host.Outcome State Fault Refusal :=
  .next (s.retirePort port.toNat)

/-! ## Power and heat (R363, R364) -/

/-- R363: the junction temperatures of the six dies. -/
def dieTemps (t : BitVec 48) : List Nat := (List.range 6).map fun i => (t.extractLsb' (8 * i) 8).toNat

/-- R364: whether issue rates are lowered. -/
def rateLow (power cap : BitVec 16) (temps : BitVec 48) : Bool :=
  decide (cap.toNat < power.toNat) || (dieTemps temps).any fun t => decide (105 < t)

/-- R318, R364: the save of a crew that is stopping with a fault starts no handler: it is a save of REASON 3, and its
header keeps the fault. -/
def State.withhold (s : State) : State :=
  s.modCrew fun c => { c with stop := c.stop.map fun x => if x.reason = 2 then { x with reason := 3, dbg := true } else x }

/-- R321, R42: a crew is saved now; a speculative task that is not the oldest aborts. -/
def State.saveNow (reason : BitVec 4) (s : State) (id : Nat) : State :=
  match s.focusCrew id with
  | none => s
  | some s1 =>
    if s1.crew.stop.isSome then s1.withhold.goOnSave
    else
      match s1.crew.spec with
      | some sp => if sp.oldest then (s1.stopCrew reason none false).trySave else s1.abortTask sp.task
      | none => (s1.stopCrew reason none false).trySave

/-- R364: at 115 °C every context is saved and the package held in stage 0. -/
def State.trip (s : State) : State :=
  { (s.crews.map fun p => p.1.id).foldl (State.saveNow 3) s with hold := true, stage := 0, dieRdy := 0 }

/-- R363, R364: the power manager has new readings. Once every die is below 95 °C the hold ends and, with an image
loaded, stage 1 begins again (DEDUCED, log 47). -/
def State.sense (s : State) (power : BitVec 16) (temps : BitVec 48) : State :=
  let s1 := { s with power := power, temps := temps, throt := rateLow power s.cap temps }
  if (dieTemps temps).any fun t => decide (115 ≤ t) then s1.trip
  else if s1.hold && (dieTemps temps).all (fun t => decide (t < 95)) then
    { s1 with hold := false, stage := if s1.fw.isSome then 1 else 0 }
  else s1

/-- POWER_THROTTLE (R364). -/
def execPowerThrottle (watts : BitVec 16) (temps : BitVec 48) (s : State) : Host.Outcome State Fault Refusal :=
  .next (s.sense watts temps)

/-- THROTTLE_END (R364). -/
def execThrottleEnd (watts : BitVec 16) (temps : BitVec 48) (s : State) : Host.Outcome State Fault Refusal :=
  .next (s.sense watts temps)

/-- THERMAL_TRIP (R364). -/
def execThermalTrip (temps : BitVec 48) (s : State) : Host.Outcome State Fault Refusal := .next (s.sense s.power temps)

/-- THERMAL_RECOVERY (R364). -/
def execThermalRecovery (temps : BitVec 48) (s : State) : Host.Outcome State Fault Refusal := .next (s.sense s.power temps)

/-! ## Scrubbing (R329, R330, R357, R358) -/

/-- R329: whether a pending operation reads a byte of its core's scratchpad. -/
def State.readsByte (s : State) (core a : Nat) (o : Op) : Bool :=
  o.core == core && (match s.opReads o with | some r => decide (r.1 ≤ a) && decide (a < r.2) | none => false)

/-- R215, R329: an operation that reads an uncorrectable line ends with −FLT_UNCORR. -/
def State.opUncorr (s : State) (o : Op) : State :=
  match o.kind with
  | .cpy _ _ _ id | .swrite _ _ _ id => (s.outEnd o id true).endOp o (tokenOf fltUncorr) 0
  | _ => s.endOp o (tokenOf fltUncorr) 0

/-- R329: an uncorrectable error in a line of a context: it is killed if it runs; else the error goes to the tokens of
the operations that read the line, or to the driver. -/
def State.badOwner (s : State) (c : Ctx) (ops : List Op) : State :=
  if c.st = .running then s.kill c.ctx (bareFault fltUncorr)
  else
    match ops with
    | [] => s.report c.ctx (bareFault fltUncorr)
    | l => l.foldl State.opUncorr s

/-- R329, R358: an uncorrectable scratchpad line, by the package's byte address of it; a line of the firmware returns
the package to stage 0. -/
def State.badLine (s : State) (k : Nat) : State :=
  let tag := s.spadTag.get (k / 64)
  let core := k / Config.spadStride
  if tag = 0 then s.firmwareDown (bareFault fltUncorr)
  else
    match s.ctxs.find? fun c => c.owner == tag && c.st != .killed with
    | some c => s.badOwner c (s.ops.filter fun o => o.ctx == c.ctx && s.readsByte core (k % Config.spadStride) o)
    | none => s

/-- R361: a core that reports a second uncorrectable register error is retired with its die, which is then out of
service (log 48). -/
def State.regError (s : State) (core : Nat) : State :=
  let die := BitVec.ofNat 4 (2 ^ (core / 32))
  let s1 := { s with regErrs := s.regErrs.write core [s.regErrs.get core + 1] }
  if s.regErrs.get core = 0 then s1 else { s1 with deadDies := s.deadDies ||| die, dieRdy := s.dieRdy &&& ~~~die }

/-- R330, R339: a poisoned word is logged as latent, and event 238 counts it. -/
def State.logLatent (s : State) (core : Nat) (ctx : BitVec 16) (w : Poison) : State :=
  ({ s with latent := s.latent ++ [(ctx, w)] }).countCore core 238 1 (some { ctx := ctx, core := core, slot := 0, pc := 0, elem := none })

/-- R330: the poisoned words of the crew in a slot of a core, with its context. -/
def State.poisonOn (s : State) (core slot : Nat) : List (BitVec 16 × Poison) :=
  ((s.crews.filter fun p => p.1.coreIx == core && p.1.slot.toNat == slot).map fun p => p.1.poison.map fun w => (p.1.ctx, w)).flatten

/-- R330, R358: an uncorrectable vector register word becomes poisoned in the crew that holds it, and is logged as
latent. -/
def State.badWord (s : State) (core slot reg elem : Nat) : State :=
  let mark (p : Crew × List Thread) : Crew × List Thread :=
    if p.1.coreIx = core ∧ p.1.slot.toNat = slot ∧ reg < countOf p.1.count ∧ elem < p.1.mvl.toNat then
      let w : Poison := { reg := reg, elem := elem }
      if p.1.poison.contains w then p else ({ p.1 with poison := p.1.poison ++ [w] }, p.2)
    else p
  let s1 := { s with
    crew := if s.live then (mark (s.crew, s.thr :: s.mates)).1 else s.crew
    others := s.others.map mark }
  let new := (s1.poisonOn core slot).filter fun w => !(s.poisonOn core slot).contains w
  if new.isEmpty then s1 else (new.foldl (fun s' w => s'.logLatent core w.1 w.2) s1).regError core

/-- R329: the crew in a slot of a core. -/
def State.crewIn (s : State) (core slot : Nat) : Option Crew :=
  (s.crews.find? fun p => p.1.coreIx == core && p.1.slot.toNat == slot).map Prod.fst

/-- R329: the context of a crew, a queue or a signal line with an uncorrectable word is hit; none is where nothing owns
the word. -/
def State.badOf (s : State) (ctx : Option (BitVec 16)) : State :=
  match ctx.bind s.ctxOf with
  | some c => s.badOwner c []
  | none => s

/-- R329: whether a pending operation reads a byte of extents. -/
def Op.readsExt (id a : Nat) (o : Op) : Bool :=
  match o.kind with
  | .run _ _ srcs _ _ _ => srcs.any fun b => b.ext == some id
  | .cpy ctl b off _ => !ctl.getLsbD 63 && b.ext == some id && decide (off ≤ a) && decide (a < off + ctl.toNat % 2 ^ 32)
  | .cpyd ctl b off _ => b.ext == some id && decide (off ≤ a) && decide (a < off + ctl.toNat % 2 ^ 32)
  | _ => false

/-- R10, R329, R356: an uncorrectable word of a slice's cache, by the device physical address that its line holds: the
line is that of the context whose extent has the address, and of nobody where none has (log 48). -/
def State.badCached (s : State) (pa : Nat) : State :=
  match s.extAt pa 64 with
  | some (x, off) =>
    (match s.ctxOf x.ctx with
     | some c => s.badOwner c (s.ops.filter fun o => o.ctx == x.ctx && Op.readsExt x.id off o)
     | none => s)
  | none => s

/-- R329, R356, R361: an uncorrectable word of a scalar register, an accumulator, queue SRAM, run engine staging SRAM,
a signal line or a slice's cache, as `j` codes it: its kind, core, crew slot and place (log 48). An operation of the
run engine that ends so gives a lent ring pair back (R151). -/
def State.badOther (s : State) (j : Nat) : State :=
  let core := j / 8 % 128
  let slot := j / 1024 % 4
  let k := j / 4096
  match j % 8 with
  | 0 => if (s.crewIn core slot).isSome then (s.badOf ((s.crewIn core slot).map Crew.ctx)).regError core else s
  | 1 => s.badOf ((s.crews.find? fun p => p.1.coreIx == core && slot % crewsOf p.1.crews == p.1.slot.toNat).map fun p => p.1.ctx)
  | 2 =>
    let l := s.segments.filter fun q => q.2.inSram && q.2.die.toNat * 32 + q.2.home.toNat == core
    s.badOf ((l[k % l.length]?).map fun q => q.1.ctx)
  | 3 =>
    let l := s.ops.filter fun o => o.core == core && (match o.kind with | .run .. => true | _ => false)
    (match l[k % l.length]? with | some o => (s.returnRings o.id).failRun o fltUncorr | none => s)
  | 4 => s.badOf (kvGet s.sigOwn k)
  | 5 => s.badCached (k * 64)
  | _ => s

/-- One uncorrectable SRAM word that is found: below 2^29 a scratchpad byte address as BAR2 lays them out, then the
vector register words, then the others (log 48). -/
def State.badSram (s : State) (n : Nat) : State :=
  if n < 2 ^ 29 then s.badLine n
  else if n < 2 ^ 29 + 2 ^ 31 then
    let k := n - 2 ^ 29
    s.badWord (k / 2 ^ 24) (k / 2 ^ 22 % 4) (k / 32768 % 128) (k % 32768)
  else s.badOther (n - 2 ^ 29 - 2 ^ 31)

/-- SRAM_SCRUB (R357, R358): corrected words change nothing that a program sees. -/
def execSramScrub (bad : List Nat) (s : State) : Host.Outcome State Fault Refusal := .next (bad.foldl State.badSram s)

/-- R358: an uncorrectable DRAM frame that the scrubber finds: the context that holds an extent there in its pool is
killed, and the frame leaves every pool. Which of its sub-beats a later read meets is free (log 48). -/
def State.badFrame (s : State) (f : Nat) : State :=
  let s1 := { s.drawn with dramBad := (f * 1024 + Config.performPick s.draw % 1024) :: s.dramBad }
  (match s.exts.find? fun (x : Extent) => x.parts.any fun p => decide (p.1 < (f + 1) * 65536) && decide (f * 65536 < p.1 + p.2) with
    | some x => s1.kill x.ctx (bareFault fltUncorr)
    | none => s1).withdraw f

/-- DRAM_PATROL_SCRUB (R357, R358): the frames found bad. -/
def execDramPatrolScrub (bad : List Nat) (s : State) : Host.Outcome State Fault Refusal := .next (bad.foldl State.badFrame s)

/-! ## The link (R331) -/

/-- R331: bytes of the peer window that hold a scratchpad; the last 1 MiB of each core's window ignores
writes. -/
def peerBytes (off : Nat) : List Byte → List (Nat × Byte)
  | [] => []
  | b :: r => if off < 2 ^ 29 ∧ off % Config.spadStride < Config.spadBytes then (off, b) :: peerBytes (off + 1) r else peerBytes (off + 1) r

/-- R331: the bytes that a read of the peer window returns; the last 1 MiB of each core's window reads zero. -/
def State.peerRead (s : State) (off len : Nat) : List Byte :=
  (List.range len).map fun i =>
    let a := off + i
    if a < 2 ^ 29 ∧ a % Config.spadStride < Config.spadBytes then (s.spad.bytes a 1).headD 0 else 0

/-- PEER_WINDOW_ACCESS (R331): a read returns the bytes to the host, and a write reaches them, whatever tag their lines
have (DEDUCED, log 49). -/
def execPeerWindowAccess (off : BitVec 29) (len : Nat) (data : Option (List (BitVec 8))) (s : State) :
    Host.Outcome State Fault Refusal :=
  match data with
  | none => .next { s with hostOut := s.peerRead off.toNat len }
  | some bs =>
    .next { s with spad := (peerBytes off.toNat (bs.take len)).foldl (fun (m : Mem) (p : Nat × Byte) => m.put p.1 [p.2]) s.spad }

/-- R331: the fuse word that holds every core's CAPCLASS. -/
def State.fuseWord (s : State) : List Byte :=
  (List.range 32).map fun j => BitVec.ofNat 8 ((List.range 4).foldr (fun i acc => acc * 4 + (s.capOf (4 * j + i)).toNat) 0)

/-- R331: the three SPDM measurements. -/
def State.measurements (s : State) : List (BitVec 384) :=
  [Config.sha384 Config.bootRom, (match s.fw with | some f => f.digest | none => Config.sha384 []), Config.sha384 s.fuseWord]

/-- SPDM_REQUEST (R331). -/
def execSpdmRequest (req : List (BitVec 8)) (s : State) : Host.Outcome State Fault Refusal :=
  .next { s with spdm := Config.spdmAnswer req s.measurements }

end Sys2Proof.Machine
end

