-- ==== Sys2Proof/Machine/Mailbox.lean ====
section
/-! DEFINITION. The commands of the management mailbox that no other file holds, and the host's register writes
(R306, R308, R310, R312, R313, R318, R321, R327, R332-R337, R361, R363). -/

namespace Sys2Proof.Machine

/-! ## Resync and firmware (R336, R337) -/

/-- R335: the STAGE register. -/
def State.stageWord (s : State) : Word :=
  BitVec.ofNat 64 (s.phRdy.toNat * 2 ^ 8 + s.dieRdy.toNat * 2 ^ 4 + s.stage.toNat)

/-- R336: the code of a context's state. -/
def CtxSt.code : CtxSt → Nat
  | .running => 0 | .saved => 1 | .killed => 2

/-- R336: a context entry of the summary. -/
def ctxEntry (c : Ctx) : List Byte :=
  leBytes 8 (c.ctx.toNat + c.owner.toNat * 2 ^ 16 + c.st.code * 2 ^ 26 +
    (c.bureau.countP fun p => p.2.live) % 2 ^ 16 * 2 ^ 32 + (c.cab.countP fun p => p.2.live) % 2 ^ 16 * 2 ^ 48) ++
    leBytes 8 (Nat.min c.faults.length 255)

/-- R336: the ports retired, one bit each. -/
def State.retiredPorts (s : State) : Nat :=
  (List.range 24).foldl (fun n p => if (s.port p).retired then n + 2 ^ p else n) 0

/-- R336: X, Y and Z of the package, three bits each, at their places in the summary. -/
def State.placeWord (s : State) : Nat :=
  s.pkg.toNat + (s.xyz.toNat % 8) * 2 ^ 16 + (s.xyz.toNat / 8 % 8) * 2 ^ 20 + (s.xyz.toNat / 64) * 2 ^ 24

/-- R336: the 4 KiB summary. -/
def State.summary (s : State) : List Byte :=
  let head := leBytes 8 s.stageWord.toNat ++
    leBytes 8 (match s.fw with | some f => f.version.toNat | none => 0) ++
    leBytes 48 (match s.fw with | some f => f.digest.toNat | none => 0) ++
    leBytes 8 s.ctxs.length ++ leBytes 8 Config.counterRunAddr.toNat ++ leBytes 8 s.placeWord ++
    leBytes 8 s.retiredPorts ++ leBytes 8 (s.ctxs.map fun c => c.faults.length).sum ++ List.replicate 24 0
  let body := ((s.ctxs.take 248).map ctxEntry).flatten
  head ++ body ++ List.replicate (3968 - body.length) 0

/-- RESYNC (R336). -/
def cmdResync (a : MbArgs) : State → State :=
  State.commandBody 0 a [allBits] fun s =>
    if s.hostRange a.a0 4096 4096 then success { s with host := s.host.put a.a0.toNat s.summary } else refuse s mbBadArg

/-- RESYNC (R336). -/
def execResync (a : MbArgs) (s : State) : Host.Outcome State Fault Refusal := s.command 0x0001 a cmdResync

/-- R337: a context that has been killed and awaits collection is not live (DEDUCED, log 47). -/
def Ctx.alive (c : Ctx) : Bool := c.st != .killed

/-- FWLOAD (R337): stage 1 starts, unless the package is held (R364). -/
def cmdFwload (a : MbArgs) : State → State :=
  State.commandBody 0 a [allBits, allBits] fun s =>
    let n := a.a1.toNat
    if !s.hostRange a.a0 n 1 then refuse s mbBadArg
    else if s.ctxs.any Ctx.alive then refuse s mbBusy
    else
      let bs := s.host.bytes a.a0.toNat n
      if Config.signatureOk bs then
        success { s with
          fw := some { version := Config.imageVersion bs, digest := Config.sha384 bs }
          stage := if s.hold then 0 else 1, dieRdy := 0 }
      else refuse s mbBadImg

/-- FWLOAD (R337). -/
def execFwload (a : MbArgs) (s : State) : Host.Outcome State Fault Refusal := s.command 0x0002 a cmdFwload

/-! ## Contexts (R310, R312, R313, R318, R333) -/

/-- R312: the key slot of a number, if a key or its retirement has been noted. -/
def State.keySlot (s : State) (k : BitVec 10) : KeySlot :=
  (s.keys.find? fun x => x.slot == k).getD { slot := k, key := 0, epoch := 0, retired := false }

/-- Put a key slot back; slots stand in rising order. -/
def putKey (k : KeySlot) : List KeySlot → List KeySlot
  | [] => [k]
  | x :: r => if x.slot = k.slot then k :: r else if k.slot.toNat < x.slot.toNat then k :: x :: r else x :: putKey k r

/-- Put a key slot back. -/
def State.setKey (s : State) (k : KeySlot) : State := { s with keys := putKey k s.keys }

/-- R333: a context as CTXNEW makes it. -/
def Ctx.init (ctx : BitVec 16) (owner : BitVec 10) : Ctx :=
  { ctx := ctx, owner := owner, translate := false, root := none, cab := [], bureau := [], pools := [], trap := none
    st := .running, faults := [], dbg := none, brks := [], trc := none, rpl := none, tlb := [], saved := [], images := [] }

/-- R238, R313: the driver allocates signal lines that no context has to a new one, which ones being free (log 73);
their bytes read zero. -/
def State.giveLines (s : State) (ctx : BitVec 16) : State :=
  let ls := (Config.signalLines s.draw).dedup.filter fun l => (kvGet s.sigOwn l).isNone
  { s with
    sigOwn := s.sigOwn ++ ls.map fun l => (l, ctx)
    sig := s.sig.filter fun e => !ls.contains (e.1 / 64)
    draw := s.draw + 1 }

/-- CTXNEW (R313, R333). -/
def cmdCtxnew (a : MbArgs) : State → State :=
  State.commandBody 1 a [0x3FFFFFF] fun s =>
    let ctx := ctxField a.a0
    let owner : BitVec 10 := a.a0.extractLsb' 16 10
    if (s.ctxOf ctx).isSome || decide (248 ≤ s.ctxs.length) then refuse s mbBadArg
    else if (s.keySlot owner).retired then refuse s mbBusy
    else success ({ s with ctxs := s.ctxs ++ [Ctx.init ctx owner] }.giveLines ctx)

/-- CTXNEW (R333). -/
def execCtxnew (a : MbArgs) (s : State) : Host.Outcome State Fault Refusal := s.command 0x0101 a cmdCtxnew

/-- R313, R333: a context ends: everything it holds is freed, and its key slot is retired once no other context
uses it. -/
def State.endContext (s : State) (c : Ctx) : State :=
  let s1 := s.kill c.ctx (bareFault 0)
  let s2 := { s1 with
    ctxs := s1.ctxs.filter fun x => x.ctx != c.ctx
    exts := s1.exts.filter fun x => x.ctx != c.ctx
    sigOwn := s1.sigOwn.filter fun p => p.2 != c.ctx
    trace := s1.trace.filter fun r => r.ctx != c.ctx }
  let s3 := if c.owner = 0 ∨ s2.ctxs.any (fun x => x.owner == c.owner) then s2
    else s2.setKey { s2.keySlot c.owner with retired := true }
  s3.freeClosed

/-- CTXKILL (R333). -/
def cmdCtxkill (a : MbArgs) : State → State :=
  State.commandBody 1 a [0xFFFF] fun s =>
    match s.ctxOf (ctxField a.a0) with
    | none => refuse s mbBadArg
    | some c => .done mbOk [BitVec.ofNat 64 (s.crews.countP fun p => p.1.ctx == c.ctx)] (s.endContext c)

/-- CTXKILL (R333). -/
def execCtxkill (a : MbArgs) (s : State) : Host.Outcome State Fault Refusal := s.command 0x0102 a cmdCtxkill

/-- Whether a crew of a context runs. -/
def State.crewsRun (s : State) (ctx : BitVec 16) : Bool := s.crews.any fun p => p.1.ctx == ctx

/-- XLATE (R310, R333). -/
def cmdXlate (a : MbArgs) : State → State :=
  State.commandBody 1 a [0xFFFF, allBits, 1] fun s =>
    let ctx := ctxField a.a0
    if (s.ctxOf ctx).isNone || a.a1.toNat % 2048 != 0 || decide (2 ^ 52 ≤ a.a1.toNat) then refuse s mbBadArg
    else if s.crewsRun ctx then refuse s mbBusy
    else success (s.modCtx ctx fun c => { c with root := some a.a1.toNat, translate := a.a2.getLsbD 0 })

/-- XLATE (R310). -/
def execXlate (a : MbArgs) (s : State) : Host.Outcome State Fault Refusal := s.command 0x0103 a cmdXlate

/-- R312, R333: a key slot that the driver may name. -/
def slotField (w : Word) : Option (BitVec 10) := if w.toNat = 0 then none else some (w.setWidth 10)

/-- R309, R312: records of a queue that stand in DRAM, swapped out or in its spill run, once their key is gone: unrelated
bytes, which `noise` gives by the record's number and the byte. -/
def rekeyRecs (noise : Nat → Byte) (all : Bool) (l : List QRec) : List QRec :=
  (List.zip l (List.range l.length)).map fun p =>
    if all || p.1.spilled then { p.1 with data := (List.range p.1.data.length).map fun i => noise (p.2 * 64 + i) } else p.1

/-- R312: a queue whose context's key is gone. -/
def BEntry.rekeyed (noise : Nat → Byte) (b : BEntry) : BEntry :=
  { b with
    recs := rekeyRecs noise (!b.inSram) b.recs
    claims := (List.zip b.claims (List.range b.claims.length)).map fun p =>
      { p.1 with recs := rekeyRecs (fun i => noise (2 ^ 32 * (p.2 + 1) + i)) (!b.inSram) p.1.recs } }

/-- R312: what the queues of a slot's contexts hold in DRAM when the slot's key changes. -/
def State.rekeyQueues (s : State) (k : BitVec 10) : State :=
  { s with
    draw := s.draw + 1
    ctxs := s.ctxs.map fun (c : Ctx) => if c.owner = k then { c with bureau := c.bureau.map fun p =>
      (p.1, p.2.rekeyed fun i => Config.unrelatedByte s.draw (2 ^ 64 * (c.ctx.toNat * 65536 + p.1) + i)) } else c }

/-- R312: a slot takes a key; another key makes what the old one wrote unrelated bytes. -/
def State.installKey (s : State) (k : BitVec 10) (key : BitVec 512) : State :=
  let o := s.keySlot k
  let known := s.keys.any fun x => x.slot == k
  if known && o.key == key then s.setKey { o with retired := false }
  else ({ s with fresh := s.fresh + 1 }.rekeyQueues k).setKey { slot := k, key := key, epoch := s.fresh, retired := false }

/-- KEYLOAD (R312, R313). -/
def cmdKeyload (a : MbArgs) : State → State :=
  State.commandBody 1 a [0x3FF, allBits] fun s =>
    match slotField a.a0 with
    | none => refuse s mbBadArg
    | some k =>
      if !s.hostRange a.a1 64 64 then refuse s mbBadArg
      else if (s.keySlot k).retired then refuse s mbBusy
      else success (s.installKey k (BitVec.ofNat 512 (s.host.nat a.a1.toNat 64)))

/-- KEYLOAD (R312). -/
def execKeyload (a : MbArgs) (s : State) : Host.Outcome State Fault Refusal := s.command 0x0104 a cmdKeyload

/-- R313: a record of an invalidated queue segment reads zeros; one in the spill run stays. -/
def QRec.wiped (r : QRec) : QRec := if r.spilled then r else { r with data := r.data.map fun _ => 0 }

/-- R163, R313: the segment of a queue in SRAM is invalidated. -/
def BEntry.wiped (b : BEntry) : BEntry :=
  if b.inSram then { b with recs := b.recs.map QRec.wiped, claims := b.claims.map fun c => { c with recs := c.recs.map QRec.wiped } } else b

/-- R313: a push of an owner that is still on its way: what it writes under the old tag is invalidated too. -/
def State.wipePush (s : State) (k : BitVec 10) (p : Push) : Push :=
  if s.ownerOf p.q.ctx = k then { p with recs := p.recs.map fun r => r.map fun _ => 0 } else p

/-- R313: every line of scratchpad, queue SRAM and signal space that an owner holds is invalidated. -/
def State.dropLines (s : State) (k : BitVec 10) : State :=
  { s with
    pushes := s.pushes.map (s.wipePush k)
    spad := s.spad.filter fun e => s.spadTag.get (e.1 / 64) != k
    spadTag := s.spadTag.filter fun e => e.2 != k
    sig := s.sig.filter fun e => !((kvGet s.sigOwn (e.1 / 64)).map s.ownerOf == some k)
    ctxs := s.ctxs.map fun (c : Ctx) => if c.owner = k then { c with bureau := c.bureau.map fun p => (p.1, p.2.wiped) } else c }

/-- PURGE (R313): the contexts that hold the slot stop first; it waits for them. -/
def cmdPurge (a : MbArgs) : State → State :=
  State.commandBody 1 a [0x3FF] fun s =>
    match slotField a.a0 with
    | none => refuse s mbBadArg
    | some k =>
      let mine (s' : State) (p : Crew × List Thread) : Bool := s'.ownerOf p.1.ctx == k && (s'.ctxOf p.1.ctx).isSome
      let s1 := ((s.crews.filter (mine s)).map fun p => p.1.id).foldl (State.saveNow 3) s
      if s1.crews.any (mine s1) then .wait s1
      else success (({ s1 with draw := s1.draw + 1 }.dropLines k).installKey k (Config.randomKey s1.draw))

/-- PURGE (R313). -/
def execPurge (a : MbArgs) (s : State) : Host.Outcome State Fault Refusal := s.command 0x0105 a cmdPurge

/-- TRAPSET (R318). -/
def cmdTrapset (a : MbArgs) : State → State :=
  State.commandBody 1 a [0xFFFFFFFF, allBits, allBits, allBits] fun s =>
    let ctx := ctxField a.a0
    let drv : BitVec 16 := a.a0.extractLsb' 16 16
    let entryOk := match s.codeObj drv a.a1 with | .good _ => true | _ => false
    if (s.ctxOf ctx).isNone || (s.ctxOf drv).isNone || !entryOk || (s.driverRun drv a.a2).isNone then refuse s mbBadArg
    else if (s.codeBad drv a.a1).isSome then refuse (s.withdrawBad (s.codeBad drv a.a1)) mbBadArg
    else success (s.modCtx ctx fun c => { c with
      trap := some { entry := a.a1, drv := drv, pool := a.a2, wdog := a.a3.toNat } })

/-- TRAPSET (R318). -/
def execTrapset (a : MbArgs) (s : State) : Host.Outcome State Fault Refusal := s.command 0x0106 a cmdTrapset

/-! ## Save and restore (R321, R326, R327) -/

/-- The crews that a SAVE names. -/
def State.saveTargets (s : State) (ctx : BitVec 16) (w : Word) : List Crew :=
  if w = allBits then (s.crews.filter fun p => p.1.ctx == ctx).map Prod.fst
  else (s.crewAt ctx (crewField (w.setWidth 9))).toList

/-- The state of a SAVE that goes on, with the numbers of its crews. -/
def State.saveMark (s : State) (ids : List Nat) : State :=
  { s with mbox := { s.mbox with res := [0, 0, 0, 0, 0, 0, 0, 1] ++ ids.map (BitVec.ofNat 64) } }

/-- The numbers of the crews that the SAVE under way has named so far. -/
def State.saveIds (s : State) : List Nat :=
  if s.mbox.res.getD 7 0 == 1 then (s.mbox.res.drop 8).map BitVec.toNat else []

/-- R333: the areas that a SAVE of crews has written. -/
def State.savedAreas (s : State) (ctx : BitVec 16) (ids : List Nat) : List Nat :=
  match s.ctxOf ctx with
  | none => []
  | some c => ((c.saved.filter fun x => ids.contains x.crewId).map SavedCrew.area)

/-- SAVE (R321, R333): it ends once its crews are saved. -/
def cmdSave (a : MbArgs) : State → State :=
  State.commandBody 1 a [0xFFFF, allBits] fun s =>
    let ctx := ctxField a.a0
    let going := s.mbox.res.getD 7 0 == 1
    if (s.ctxOf ctx).isNone || !(a.a1 == allBits || decide (a.a1.toNat < 512)) then refuse s mbBadArg
    else if (s.poolExt ctx).isNone then refuse s mbDenied
    else
      let l := s.saveTargets ctx a.a1
      if !going && a.a1 != allBits && l.isEmpty then refuse s mbBadArg
      else
        let ids := (s.saveIds ++ l.map Crew.id).dedup
        let s1 := (l.map Crew.id).foldl (State.saveNow 3) s
        if (s1.saveTargets ctx a.a1).any (fun c => c.stop.isSome) then .wait (s1.saveMark ids)
        else
          let l1 := s1.savedAreas ctx ids
          .done mbOk [BitVec.ofNat 64 (l1.foldl Nat.min (l1.headD (s.poolTop ctx))), BitVec.ofNat 64 l1.length] s1

/-- SAVE (R321). -/
def execSave (a : MbArgs) (s : State) : Host.Outcome State Fault Refusal := s.command 0x0107 a cmdSave

/-- RESTORE (R326, R327). -/
def cmdRestore (a : MbArgs) : State → State :=
  State.commandBody 1 a [0xFFFF, allBits, 0x1FF] fun s =>
    let ctx := ctxField a.a0
    let t := crewField (a.a2.setWidth 9)
    match s.ctxOf ctx with
    | none => refuse s mbBadArg
    | some c =>
      match c.saved.find? fun x => x.area == a.a1.toNat with
      | none => refuse s mbBadImg
      | some x =>
        if x.slot ≠ t.2.2 then refuse s mbBadArg
        else
          match s.restoreAt ctx a.a1.toNat t.1 t.2.1 with
          | .ok s1 => success s1
          | .error (st, r) => .done st r (s.areaRead ctx a.a1.toNat st)

/-- RESTORE (R327). -/
def execRestore (a : MbArgs) (s : State) : Host.Outcome State Fault Refusal := s.command 0x0108 a cmdRestore

/-! ## Pools, queues and shared runs (R308) -/

/-- R358: a pool without the frames that have been withdrawn. -/
def State.poolParts (s : State) (base n : Nat) : List (Nat × Nat) :=
  s.withdrawn.foldl (fun l f => (l.map (poolWithout f)).flatten) [(base, n)]

/-- BPOOL (R308). The device physical addresses of the bonded DRAM (R16) run from 0 to 384 GiB, and a range that leaves
them is answered BADARG (DESIGN CHOICE, log 9, log 44). -/
def cmdBpool (a : MbArgs) : State → State :=
  State.commandBody 1 a [0xFFFF, allBits, allBits] fun s =>
    let ctx := ctxField a.a0
    let b := a.a1.toNat
    let n := a.a2.toNat
    if (s.ctxOf ctx).isNone || b % 65536 != 0 || n % 65536 != 0 || decide (Config.dramBytes < b + n) then refuse s mbBadArg
    else success (s.modCtx ctx fun c => { c with pools := c.pools ++ s.poolParts b n })

/-- BPOOL (R308). -/
def execBpool (a : MbArgs) (s : State) : Host.Outcome State Fault Refusal := s.command 0x0109 a cmdBpool

/-- EVICT (R308): BUSY while a crew of the context runs (log 44). -/
def cmdEvict (a : MbArgs) : State → State :=
  State.commandBody 1 a [0xFFFF] fun s =>
    let ctx := ctxField a.a0
    if (s.ctxOf ctx).isNone then refuse s mbBadArg
    else if s.crewsRun ctx then refuse s mbBusy
    else success (s.modCtx ctx fun c => { c with
      bureau := c.bureau.map fun p => if p.2.live && p.2.pinned then (p.1, { p.2 with inSram := false }) else p })

/-- EVICT (R308). -/
def execEvict (a : MbArgs) (s : State) : Host.Outcome State Fault Refusal := s.command 0x010A a cmdEvict

/-- SHARE (R308): DENIED where the target's Cabinet is full (log 44). -/
def cmdShare (a : MbArgs) : State → State :=
  State.commandBody 1 a [0xFFFFFFFF, allBits] fun s =>
    let src := ctxField a.a0
    let tgt : BitVec 16 := a.a0.extractLsb' 16 16
    match s.driverRun src a.a1 with
    | none => refuse s mbBadArg
    | some e =>
      if (s.ctxOf tgt).isNone || e.st != .published then refuse s mbBadArg
      else
        match s.freeIndex tgt with
        | none => refuse s mbDenied
        | some i =>
          let g := nextGen (s.genAt tgt i)
          .done mbOk [handleWord g i] (s.setEntry tgt i { e with gen := g, shared := some (src, a.a1.toNat % 65536), spillOf := none, roots := [] })

/-- SHARE (R308). -/
def execShare (a : MbArgs) (s : State) : Host.Outcome State Fault Refusal := s.command 0x010B a cmdShare

/-- R308: the context and index that bind a launch queue. -/
def State.boundAt (s : State) (q : BitVec 12) : Option QRef :=
  s.ctxs.findSome? fun c => (c.bureau.find? fun p => p.2.live && p.2.launchQ == some q).map fun p => { ctx := c.ctx, idx := p.1 }

/-- R308: the LAUNCH entry of a bound queue. -/
def launchEntry (q : BitVec 12) (gen : BitVec 16) : BEntry :=
  { entryOfDesc 0 gen none with launchQ := some q }

/-- QBIND (R308): DENIED where the Bureau is full (log 44). -/
def cmdQbind (a : MbArgs) : State → State :=
  State.commandBody 1 a [0xFFFF0FFF] fun s =>
    let q : BitVec 12 := a.a0.setWidth 12
    let ctx : BitVec 16 := a.a0.extractLsb' 16 16
    if (s.ctxOf ctx).isNone || (s.boundAt q).isSome then refuse s mbBadArg
    else
      match s.freeQueueIndex ctx with
      | none => refuse s mbDenied
      | some i =>
        let g := nextGen (s.queueGen ctx i)
        .done mbOk [handleWord g i] (s.setQueue ctx i (launchEntry q g))

/-- QBIND (R308). -/
def execQbind (a : MbArgs) (s : State) : Host.Outcome State Fault Refusal := s.command 0x0201 a cmdQbind

/-- R308: a launch queue has nothing left to read, start or retire. -/
def State.queueIdle (s : State) (q : BitVec 12) : Bool :=
  (s.lq q).head == (s.lq q).tail && (s.lq q).pending.isNone && !(s.launches.any fun l => l.queue == some q)

/-- QUNBIND (R308): it waits for the queue. -/
def cmdQunbind (a : MbArgs) : State → State :=
  State.commandBody 1 a [0xFFF] fun s =>
    let q : BitVec 12 := a.a0.setWidth 12
    match s.boundAt q with
    | none => refuse s mbBadArg
    | some r =>
      if s.queueIdle q then success (s.modQueue r.ctx r.idx fun b => { b with live := false, launchQ := none })
      else .wait s

/-- QUNBIND (R308). -/
def execQunbind (a : MbArgs) (s : State) : Host.Outcome State Fault Refusal := s.command 0x0202 a cmdQunbind

/-! ## Storage queue pairs (R334) -/

/-- R334: DRIVE, QP and CTX of MBARG0. -/
def pairField (w : Word) : BitVec 5 × BitVec 8 × BitVec 16 := (w.setWidth 5, w.extractLsb' 8 8, w.extractLsb' 16 16)

/-- R334: the bits of MBARG0 that name a pair. -/
def pairBits : Word := 0xFFFFFF1F

/-- R334: the bound pair of a drive and number. -/
def State.pair? (s : State) (d : BitVec 5) (q : BitVec 8) : Option NvmeQp := s.nvme.find? fun x => x.drive == d && x.qp == q

/-- R334: whether the queue memory lies in the scratchpad and outside every declared buffer. -/
def State.ringsFit (s : State) (core off depth : Nat) : Bool :=
  decide (off + 80 * depth ≤ Config.spadBytes) &&
    !(s.bufs.any fun b => b.core == core && decide (off < b.base + b.size) && decide (b.base < off + 80 * depth))

/-- NVMEQP (R334). -/
def cmdNvmeqp (a : MbArgs) : State → State :=
  State.commandBody 1 a [pairBits, allBits, allBits, 0x7FF007F, allBits, 0xFFFFFFFF, allBits] fun s =>
    let (d, q, ctx) := pairField a.a0
    let depth := (a.a3.extractLsb' 16 11).toNat
    let die : BitVec 2 := a.a3.setWidth 2
    let core : BitVec 5 := a.a3.extractLsb' 2 5
    if (s.ctxOf ctx).isNone || decide (depth < 2) || decide (1024 < depth) || !(a.a6 == 512 || a.a6 == 4096) ||
        !s.ringsFit (die.toNat * 32 + core.toNat) a.a4.toNat depth || (s.pair? d q).isSome then refuse s mbBadArg
    else success { s with nvme := s.nvme ++
      [{ drive := d, qp := q, ctx := ctx, die := die, core := core, depth := depth, sq := a.a4.toNat, nsid := a.a5.setWidth 32
         lba := a.a6.toNat, sqDb := a.a1, cqDb := a.a2, tail := 0, head := 0, phase := true, out := [], err := 0 }] }

/-- NVMEQP (R334). -/
def execNvmeqp (a : MbArgs) (s : State) : Host.Outcome State Fault Refusal := s.command 0x0203 a cmdNvmeqp

/-- R334: the pair that an MBARG0 names, bound to its context. -/
def State.pairOf (s : State) (w : Word) : Option NvmeQp :=
  let (d, q, ctx) := pairField w
  match s.pair? d q with
  | some x => if x.ctx = ctx then some x else none
  | none => none

/-- NVMEUNQP (R334): it waits for every command on the pair. -/
def cmdNvmeunqp (a : MbArgs) : State → State :=
  State.commandBody 1 a [pairBits] fun s =>
    match s.pairOf a.a0 with
    | none => refuse s mbBadArg
    | some x =>
      if x.out.isEmpty then success { s with nvme := s.nvme.filter fun y => !(y.drive == x.drive && y.qp == x.qp) } else .wait s

/-- NVMEUNQP (R334). -/
def execNvmeunqp (a : MbArgs) (s : State) : Host.Outcome State Fault Refusal := s.command 0x0204 a cmdNvmeunqp

/-- NVMEERR (R334). -/
def cmdNvmeerr (a : MbArgs) : State → State :=
  State.commandBody 1 a [pairBits] fun s =>
    match s.pairOf a.a0 with
    | none => refuse s mbBadArg
    | some x => .done mbOk [zext64 x.err] s

/-- NVMEERR (R334). -/
def execNvmeerr (a : MbArgs) (s : State) : Host.Outcome State Fault Refusal := s.command 0x0205 a cmdNvmeerr

/-! ## Power and ports (R361, R363) -/

/-- R363: the result words of PWRREAD. -/
def State.powerWords (s : State) : List Word :=
  [BitVec.ofNat 64 (s.cap.toNat * 2 ^ 32 + (if s.throt then 2 ^ 31 else 0) + s.power.toNat), zext64 s.temps]

/-- PWRREAD (R363). -/
def cmdPwrread (a : MbArgs) : State → State := State.commandBody 0 a [] fun s => .done mbOk s.powerWords s

/-- PWRREAD (R363). -/
def execPwrread (a : MbArgs) (s : State) : Host.Outcome State Fault Refusal := s.command 0x0401 a cmdPwrread

/-- PWRCAP (R363, R364). -/
def cmdPwrcap (a : MbArgs) : State → State :=
  State.commandBody 1 a [allBits] fun s =>
    if 1500 ≤ a.a0.toNat ∧ a.a0.toNat ≤ 3000 then
      let cap : BitVec 16 := a.a0.setWidth 16
      success { s with cap := cap, throt := rateLow s.power cap s.temps }
    else refuse s mbBadArg

/-- PWRCAP (R363). -/
def execPwrcap (a : MbArgs) (s : State) : Host.Outcome State Fault Refusal := s.command 0x0402 a cmdPwrcap

/-- RETIRE (R361). -/
def cmdRetire (a : MbArgs) : State → State :=
  State.commandBody 2 a [allBits] fun s =>
    if a.a0.toNat < 24 then success (s.retirePort a.a0.toNat) else refuse s mbBadArg

/-- RETIRE (R361). -/
def execRetire (a : MbArgs) (s : State) : Host.Outcome State Fault Refusal := s.command 0x0403 a cmdRetire

/-! ## The dispatch of commands and the host's register writes (R306, R332, R333) -/

/-- R333: the command of an OP number. -/
def commandOf (op : Nat) : Option (MbArgs → State → State) :=
  match op with
  | 0x0001 => some cmdResync
  | 0x0002 => some cmdFwload
  | 0x0101 => some cmdCtxnew
  | 0x0102 => some cmdCtxkill
  | 0x0103 => some cmdXlate
  | 0x0104 => some cmdKeyload
  | 0x0105 => some cmdPurge
  | 0x0106 => some cmdTrapset
  | 0x0107 => some cmdSave
  | 0x0108 => some cmdRestore
  | 0x0109 => some cmdBpool
  | 0x010A => some cmdEvict
  | 0x010B => some cmdShare
  | 0x0201 => some cmdQbind
  | 0x0202 => some cmdQunbind
  | 0x0203 => some cmdNvmeqp
  | 0x0204 => some cmdNvmeunqp
  | 0x0205 => some cmdNvmeerr
  | 0x0301 => some cmdCntcfg
  | 0x0302 => some cmdCntread
  | 0x0303 => some cmdCntclr
  | 0x0304 => some cmdCntprog
  | 0x0305 => some cmdCntdump
  | 0x0306 => some cmdTrccfg
  | 0x0307 => some cmdDbgattach
  | 0x0308 => some cmdBrkset
  | 0x0309 => some cmdStep
  | 0x030A => some cmdDbgstop
  | 0x030B => some cmdRplcfg
  | 0x0401 => some cmdPwrread
  | 0x0402 => some cmdPwrcap
  | 0x0403 => some cmdRetire
  | _ => none

/-- The operands of a command from the MBARG registers. -/
def argsOf (tag : BitVec 16) (rsv : BitVec 32) (l : List Word) : MbArgs :=
  { tag := tag, rsv := rsv, a0 := l.getD 0 0, a1 := l.getD 1 0, a2 := l.getD 2 0, a3 := l.getD 3 0, a4 := l.getD 4 0
    a5 := l.getD 5 0, a6 := l.getD 6 0, a7 := l.getD 7 0 }

/-- R332, R333: a command word is written: an unlisted OP returns BADOP. -/
def State.writeCommand (s : State) (v : Word) : State :=
  if s.mbox.run then s
  else
    let op := v.toNat % 65536
    let a := argsOf (v.extractLsb' 48 16) (v.extractLsb' 16 32) s.mbox.args
    let s0 := { s with mbox := { s.mbox with cmd := v } }
    let s1 := s0.startCommand op a false
    match commandOf op with
    | some f => f a s1
    | none => s1.endCommand mbBadOp []

/-- R332: the command that executes goes on. -/
def State.goOnCommand (s : State) : State :=
  if s.mbox.run then
    match commandOf s.mbox.op.toNat with
    | some f => f (argsOf s.mbox.tag 0 s.mbox.held) s
    | none => s
  else s

/-- UNKNOWN_OP (R333). -/
def execUnknownOp (op : BitVec 16) (tag : BitVec 16) (s : State) : Host.Outcome State Fault Refusal :=
  .next (if s.mbox.run || (commandOf op.toNat).isSome then s
    else (s.startCommand op.toNat (argsOf tag 0 []) true).endCommand mbBadOp [])

/-- R306: a write to a register of a launch queue block. -/
def State.writeQueueReg (s : State) (off : Nat) (v : Word) : Host.Outcome State Fault Refusal :=
  let q := BitVec.ofNat 12 (off / 32)
  match off % 32 with
  | 0 => .next (s.writeQbase q v)
  | 8 => .next (s.writeQcfg q v)
  | 16 => .next (s.writeTail q v)
  | _ => .next s

/-- R306: the fields of QCFG and ERR, and a register of a launch queue block as the host reads it. -/
def LQueue.read (l : LQueue) (off : Nat) : Word :=
  match off with
  | 0 => l.base
  | 8 => BitVec.ofNat 64 (l.ctx.toNat * 2 ^ 16 + l.priocap.toNat * 2 ^ 10 + l.log2sz.toNat * 2 + (if l.en then 1 else 0))
  | 16 => zext64 l.tail
  | 24 => BitVec.ofNat 64 (l.errReason.toNat * 2 ^ 48 + l.errSlot.toNat * 2 ^ 32 + l.head.toNat)
  | _ => 0

/-- R306, R331, R332: what a host read of an aligned word of BAR0 returns; an unassigned one reads zero (log 76). -/
def State.registerRead (s : State) (off : Nat) : Word :=
  if off % 8 ≠ 0 then 0
  else if off = 0 then s.mbox.cmd
  else if off ≤ 0x40 then s.mbox.args.getD (off / 8 - 1) 0
  else if off ≤ 0x80 then s.mbox.res.getD (off / 8 - 9) 0
  else if off = 0x88 then s.mbox.stat
  else if off = 0x1000 then s.stageWord
  else if 0x100000 ≤ off ∧ off < 0x120000 then (s.lq (BitVec.ofNat 12 ((off - 0x100000) / 32))).read (off % 32)
  else 0

/-- REGISTER_WRITE (R306, R331, R332): a host write to BAR0; read-only and unassigned registers ignore it. -/
def execRegisterWrite (off : BitVec 21) (v : BitVec 64) (s : State) : Host.Outcome State Fault Refusal :=
  let o := off.toNat
  if o = 0 then .next (s.writeCommand v)
  else if 0x100000 ≤ o ∧ o < 0x120000 then s.writeQueueReg (o - 0x100000) v
  else if o % 8 = 0 ∧ o ≤ 0x40 then .next { s with mbox := { s.mbox with args := s.mbox.args.set (o / 8 - 1) v } }
  else .next s

end Sys2Proof.Machine
end

