-- ==== Sys2Proof/Machine/Scalar.lean ====
section
/-! DEFINITION. Scalar integer and floating-point instructions (R84-R92). -/

namespace Sys2Proof.Machine

/-- Write a scalar destination and merge flags, each of which may take an entry of the history buffer, then go on
(R82, R85, R291). -/
def State.wrF (s : State) (d : Opd) (v : Word) (f : FF) : R State := do
  s.wrOk d
  (((s.put d v).modThr fun t => t.mergeF f).adv).histKept

/-- R86: an instruction of two scalar sources. -/
def scalar2 (s : State) (d a b : Opd) (f : Word → Word → Word) : Host.Outcome State Fault Refusal :=
  finish s do
    let x ← s.rd a
    let y ← s.rd b
    let s1 ← s.wr d (f x y)
    .ok s1.adv

/-- R86-R89: an instruction of one scalar source. -/
def scalar1 (s : State) (d a : Opd) (f : Word → Word) : Host.Outcome State Fault Refusal :=
  finish s do
    let x ← s.rd a
    let s1 ← s.wr d (f x)
    .ok s1.adv

/-- R87: an instruction of two scalar sources that raises flags. -/
def scalar2F (s : State) (d a b : Opd) (f : Word → Word → Word × FF) : Host.Outcome State Fault Refusal :=
  finish s do
    let x ← s.rd a
    let y ← s.rd b
    s.wrF d (f x y).1 (f x y).2

/-- R86: a truth value. -/
def ofBool64 (b : Bool) : Word := if b then 1 else 0

/-- R86: the shift amount b[5:0]. -/
def shamt (y : Word) : Nat := y.toNat % 64

/-- R86: signed high product. -/
def mulhS (x y : Word) : Word := BitVec.ofInt 64 (x.toInt * y.toInt / 2 ^ 64)
/-- R86: unsigned high product. -/
def mulhU (x y : Word) : Word := BitVec.ofNat 64 (x.toNat * y.toNat / 2 ^ 64)

/-- R87: signed division truncating toward zero. -/
def divS (x y : Word) : Word × FF := if y = 0 then (-1, fDZ) else (x.sdiv y, 0)
/-- R87: unsigned division. -/
def divU (x y : Word) : Word × FF := if y = 0 then (-1, fDZ) else (x / y, 0)
/-- R87: the remainder with the sign of the dividend. -/
def remS (x y : Word) : Word × FF := if y = 0 then (x, fDZ) else (x.srem y, 0)
/-- R87: unsigned remainder. -/
def remU (x y : Word) : Word × FF := if y = 0 then (x, fDZ) else (x % y, 0)

/-- R86: leading zeros. -/
def clz64 (x : Word) : Word := BitVec.ofNat 64 (64 - bitLen x.toNat)
/-- R86: trailing zeros. -/
def ctz64 (x : Word) : Word := BitVec.ofNat 64 (((List.range 64).find? fun i => x.getLsbD i).getD 64)
/-- R86: one bits. -/
def popc64 (x : Word) : Word := BitVec.ofNat 64 ((List.range 64).countP fun i => x.getLsbD i)


/-- ADD (R86). -/
def execAdd (d a b : Opd) (s : State) : Host.Outcome State Fault Refusal :=
  scalar2 s d a b fun x y => x + y

/-- SUB (R86). -/
def execSub (d a b : Opd) (s : State) : Host.Outcome State Fault Refusal :=
  scalar2 s d a b fun x y => x - y

/-- AND (R86). -/
def execAnd (d a b : Opd) (s : State) : Host.Outcome State Fault Refusal :=
  scalar2 s d a b fun x y => x &&& y

/-- OR (R86). -/
def execOr (d a b : Opd) (s : State) : Host.Outcome State Fault Refusal :=
  scalar2 s d a b fun x y => x ||| y

/-- XOR (R86). -/
def execXor (d a b : Opd) (s : State) : Host.Outcome State Fault Refusal :=
  scalar2 s d a b fun x y => x ^^^ y

/-- ANDN (R86). -/
def execAndn (d a b : Opd) (s : State) : Host.Outcome State Fault Refusal :=
  scalar2 s d a b fun x y => x &&& ~~~y

/-- SLL (R86). -/
def execSll (d a b : Opd) (s : State) : Host.Outcome State Fault Refusal :=
  scalar2 s d a b fun x y => x <<< shamt y

/-- SRL (R86). -/
def execSrl (d a b : Opd) (s : State) : Host.Outcome State Fault Refusal :=
  scalar2 s d a b fun x y => x >>> shamt y

/-- SRA (R86). -/
def execSra (d a b : Opd) (s : State) : Host.Outcome State Fault Refusal :=
  scalar2 s d a b fun x y => x.sshiftRight (shamt y)

/-- ROL (R86). -/
def execRol (d a b : Opd) (s : State) : Host.Outcome State Fault Refusal :=
  scalar2 s d a b fun x y => x.rotateLeft (shamt y)

/-- ROR (R86). -/
def execRor (d a b : Opd) (s : State) : Host.Outcome State Fault Refusal :=
  scalar2 s d a b fun x y => x.rotateRight (shamt y)

/-- MIN (R86). -/
def execMin (d a b : Opd) (s : State) : Host.Outcome State Fault Refusal :=
  scalar2 s d a b fun x y => if x.slt y then x else y

/-- MAX (R86). -/
def execMax (d a b : Opd) (s : State) : Host.Outcome State Fault Refusal :=
  scalar2 s d a b fun x y => if x.slt y then y else x

/-- MINU (R86). -/
def execMinu (d a b : Opd) (s : State) : Host.Outcome State Fault Refusal :=
  scalar2 s d a b fun x y => if x.ult y then x else y

/-- MAXU (R86). -/
def execMaxu (d a b : Opd) (s : State) : Host.Outcome State Fault Refusal :=
  scalar2 s d a b fun x y => if x.ult y then y else x

/-- SEL (R86): d := a if the old d is non-zero, else b. -/
def execSel (d a b : Opd) (s : State) : Host.Outcome State Fault Refusal :=
  finish s do
    let x ← s.rd a
    let y ← s.rd b
    let c ← s.rd d
    let s1 ← s.wr d (if c ≠ 0 then x else y)
    .ok s1.adv

/-- MUL (R86). -/
def execMul (d a b : Opd) (s : State) : Host.Outcome State Fault Refusal :=
  scalar2 s d a b fun x y => x * y

/-- MULH (R86). -/
def execMulh (d a b : Opd) (s : State) : Host.Outcome State Fault Refusal :=
  scalar2 s d a b mulhS

/-- MULHU (R86). -/
def execMulhu (d a b : Opd) (s : State) : Host.Outcome State Fault Refusal :=
  scalar2 s d a b mulhU

/-- DIV (R87). -/
def execDiv (d a b : Opd) (s : State) : Host.Outcome State Fault Refusal :=
  scalar2F s d a b divS

/-- DIVU (R87). -/
def execDivu (d a b : Opd) (s : State) : Host.Outcome State Fault Refusal :=
  scalar2F s d a b divU

/-- REM (R87). -/
def execRem (d a b : Opd) (s : State) : Host.Outcome State Fault Refusal :=
  scalar2F s d a b remS

/-- REMU (R87). -/
def execRemu (d a b : Opd) (s : State) : Host.Outcome State Fault Refusal :=
  scalar2F s d a b remU

/-- CLZ (R86). -/
def execClz (d a : Opd) (s : State) : Host.Outcome State Fault Refusal :=
  scalar1 s d a clz64

/-- CTZ (R86). -/
def execCtz (d a : Opd) (s : State) : Host.Outcome State Fault Refusal :=
  scalar1 s d a ctz64

/-- POPC (R86). -/
def execPopc (d a : Opd) (s : State) : Host.Outcome State Fault Refusal :=
  scalar1 s d a popc64

/-- SEQ (R86). -/
def execSeq (d a b : Opd) (s : State) : Host.Outcome State Fault Refusal :=
  scalar2 s d a b fun x y => ofBool64 (x == y)

/-- SLT (R86). -/
def execSlt (d a b : Opd) (s : State) : Host.Outcome State Fault Refusal :=
  scalar2 s d a b fun x y => ofBool64 (x.slt y)

/-- SLTU (R86). -/
def execSltu (d a b : Opd) (s : State) : Host.Outcome State Fault Refusal :=
  scalar2 s d a b fun x y => ofBool64 (x.ult y)

/-- SLE (R86). -/
def execSle (d a b : Opd) (s : State) : Host.Outcome State Fault Refusal :=
  scalar2 s d a b fun x y => ofBool64 (x.sle y)

/-- SLEU (R86). -/
def execSleu (d a b : Opd) (s : State) : Host.Outcome State Fault Refusal :=
  scalar2 s d a b fun x y => ofBool64 (x.ule y)

/-- ADD_IMM (R88). -/
def execAddImm (d a : Opd) (i : BitVec 11) (s : State) : Host.Outcome State Fault Refusal :=
  scalar1 s d a fun x => x + sext64 i

/-- AND_IMM (R88). -/
def execAndImm (d a : Opd) (i : BitVec 11) (s : State) : Host.Outcome State Fault Refusal :=
  scalar1 s d a fun x => x &&& sext64 i

/-- OR_IMM (R88). -/
def execOrImm (d a : Opd) (i : BitVec 11) (s : State) : Host.Outcome State Fault Refusal :=
  scalar1 s d a fun x => x ||| sext64 i

/-- XOR_IMM (R88). -/
def execXorImm (d a : Opd) (i : BitVec 11) (s : State) : Host.Outcome State Fault Refusal :=
  scalar1 s d a fun x => x ^^^ sext64 i

/-- SLT_IMM (R88). -/
def execSltImm (d a : Opd) (i : BitVec 11) (s : State) : Host.Outcome State Fault Refusal :=
  scalar1 s d a fun x => ofBool64 (x.slt (sext64 i))

/-- SLTU_IMM (R88). -/
def execSltuImm (d a : Opd) (i : BitVec 11) (s : State) : Host.Outcome State Fault Refusal :=
  scalar1 s d a fun x => ofBool64 (x.ult (sext64 i))

/-- SLL_IMM (R88). -/
def execSllImm (d a : Opd) (sh : BitVec 6) (s : State) : Host.Outcome State Fault Refusal :=
  scalar1 s d a fun x => x <<< sh.toNat

/-- SRL_IMM (R88). -/
def execSrlImm (d a : Opd) (sh : BitVec 6) (s : State) : Host.Outcome State Fault Refusal :=
  scalar1 s d a fun x => x >>> sh.toNat

/-- SRA_IMM (R88). -/
def execSraImm (d a : Opd) (sh : BitVec 6) (s : State) : Host.Outcome State Fault Refusal :=
  scalar1 s d a fun x => x.sshiftRight sh.toNat

/-- ROL_IMM (R88). -/
def execRolImm (d a : Opd) (sh : BitVec 6) (s : State) : Host.Outcome State Fault Refusal :=
  scalar1 s d a fun x => x.rotateLeft sh.toNat

/-- LIMM (R89). -/
def execLimm (d : Opd) (i : BitVec 18) (s : State) : Host.Outcome State Fault Refusal :=
  finish s do
    let s1 ← s.wr d (sext64 i)
    .ok s1.adv

/-- LHI (R89). -/
def execLhi (d : Opd) (i : BitVec 18) (s : State) : Host.Outcome State Fault Refusal :=
  scalar1 s d d fun x => (x <<< 18) ||| zext64 i

/-- R90: the format of the scalar floating-point opcodes. -/
def fpFmt : FpTy → Fmt
  | .f64 => fmt64
  | .f32 => fmt32

/-- R90: the operand's code: an f32 is bits 31:0 of its register. -/
def fpCode (t : FpTy) (x : Word) : Nat := x.toNat % 2 ^ (fpFmt t).bits

/-- R90: a floating-point operation of two sources, rounded by frm.RM with RNE in place of stochastic
rounding. -/
def fp2 (s : State) (t : FpTy) (d a b : Opd) (f : Fmt → Rm → Nat → Nat → FRes) :
    Host.Outcome State Fault Refusal :=
  finish s do
    let x ← s.rd a
    let y ← s.rd b
    let r := f (fpFmt t) (rmOf s.thr.csr.frm) (fpCode t x) (fpCode t y)
    s.wrF d (BitVec.ofNat 64 r.bits) r.fl

/-- R90: a floating-point operation of one source. -/
def fp1 (s : State) (t : FpTy) (d a : Opd) (f : Fmt → Rm → Nat → FRes) :
    Host.Outcome State Fault Refusal :=
  finish s do
    let x ← s.rd a
    let r := f (fpFmt t) (rmOf s.thr.csr.frm) (fpCode t x)
    s.wrF d (BitVec.ofNat 64 r.bits) r.fl

/-- R90: ffma: a × b + d, rounded once. -/
def fpFma (s : State) (t : FpTy) (d a b : Opd) : Host.Outcome State Fault Refusal :=
  finish s do
    let x ← s.rd a
    let y ← s.rd b
    let z ← s.rd d
    let r := (fpFmt t).fma (rmOf s.thr.csr.frm) (fpCode t x) (fpCode t y) (fpCode t z)
    s.wrF d (BitVec.ofNat 64 r.bits) r.fl

/-- R91: a comparison: its truth and flags. -/
def fcmp (s : State) (t : FpTy) (d a b : Opd) (f : Fmt → Nat → Nat → Bool × FF) :
    Host.Outcome State Fault Refusal :=
  scalar2F s d a b fun x y =>
    let r := f (fpFmt t) (fpCode t x) (fpCode t y)
    (ofBool64 r.1, r.2)

/-- FADD_F64 (R90). -/
def execFaddF64 (d a b : Opd) (s : State) : Host.Outcome State Fault Refusal :=
  fp2 s .f64 d a b fun f rm x y => f.add rm x y

/-- FSUB_F64 (R90). -/
def execFsubF64 (d a b : Opd) (s : State) : Host.Outcome State Fault Refusal :=
  fp2 s .f64 d a b fun f rm x y => f.sub rm x y

/-- FMUL_F64 (R90). -/
def execFmulF64 (d a b : Opd) (s : State) : Host.Outcome State Fault Refusal :=
  fp2 s .f64 d a b fun f rm x y => f.mul rm x y

/-- FDIV_F64 (R90). -/
def execFdivF64 (d a b : Opd) (s : State) : Host.Outcome State Fault Refusal :=
  fp2 s .f64 d a b fun f rm x y => f.div rm x y

/-- FMIN_F64 (R90). -/
def execFminF64 (d a b : Opd) (s : State) : Host.Outcome State Fault Refusal :=
  fp2 s .f64 d a b fun f _ x y => f.minmax false x y

/-- FMAX_F64 (R90). -/
def execFmaxF64 (d a b : Opd) (s : State) : Host.Outcome State Fault Refusal :=
  fp2 s .f64 d a b fun f _ x y => f.minmax true x y

/-- FSQRT_F64 (R90). -/
def execFsqrtF64 (d a : Opd) (s : State) : Host.Outcome State Fault Refusal :=
  fp1 s .f64 d a fun f rm x => f.sqrt rm x

/-- FCLASS_F64 (R90). -/
def execFclassF64 (d a : Opd) (s : State) : Host.Outcome State Fault Refusal :=
  fp1 s .f64 d a fun f _ x => { bits := f.fclass x, fl := 0 }

/-- FFMA_F64 (R90). -/
def execFfmaF64 (d a b : Opd) (s : State) : Host.Outcome State Fault Refusal :=
  fpFma s .f64 d a b

/-- FADD_F32 (R90). -/
def execFaddF32 (d a b : Opd) (s : State) : Host.Outcome State Fault Refusal :=
  fp2 s .f32 d a b fun f rm x y => f.add rm x y

/-- FSUB_F32 (R90). -/
def execFsubF32 (d a b : Opd) (s : State) : Host.Outcome State Fault Refusal :=
  fp2 s .f32 d a b fun f rm x y => f.sub rm x y

/-- FMUL_F32 (R90). -/
def execFmulF32 (d a b : Opd) (s : State) : Host.Outcome State Fault Refusal :=
  fp2 s .f32 d a b fun f rm x y => f.mul rm x y

/-- FDIV_F32 (R90). -/
def execFdivF32 (d a b : Opd) (s : State) : Host.Outcome State Fault Refusal :=
  fp2 s .f32 d a b fun f rm x y => f.div rm x y

/-- FMIN_F32 (R90). -/
def execFminF32 (d a b : Opd) (s : State) : Host.Outcome State Fault Refusal :=
  fp2 s .f32 d a b fun f _ x y => f.minmax false x y

/-- FMAX_F32 (R90). -/
def execFmaxF32 (d a b : Opd) (s : State) : Host.Outcome State Fault Refusal :=
  fp2 s .f32 d a b fun f _ x y => f.minmax true x y

/-- FSQRT_F32 (R90). -/
def execFsqrtF32 (d a : Opd) (s : State) : Host.Outcome State Fault Refusal :=
  fp1 s .f32 d a fun f rm x => f.sqrt rm x

/-- FCLASS_F32 (R90). -/
def execFclassF32 (d a : Opd) (s : State) : Host.Outcome State Fault Refusal :=
  fp1 s .f32 d a fun f _ x => { bits := f.fclass x, fl := 0 }

/-- FFMA_F32 (R90). -/
def execFfmaF32 (d a b : Opd) (s : State) : Host.Outcome State Fault Refusal :=
  fpFma s .f32 d a b

/-- FCMP_EQ (R91). -/
def execFcmpEq (d a b : Opd) (t : FpTy) (s : State) : Host.Outcome State Fault Refusal :=
  fcmp s t d a b fun f x y => (f.eq x y, 0)

/-- FCMP_LT (R91). -/
def execFcmpLt (d a b : Opd) (t : FpTy) (s : State) : Host.Outcome State Fault Refusal :=
  fcmp s t d a b fun f x y => f.less false x y

/-- FCMP_LE (R91). -/
def execFcmpLe (d a b : Opd) (t : FpTy) (s : State) : Host.Outcome State Fault Refusal :=
  fcmp s t d a b fun f x y => f.less true x y

/-- FCMP_UNORD (R91). -/
def execFcmpUnord (d a b : Opd) (t : FpTy) (s : State) : Host.Outcome State Fault Refusal :=
  fcmp s t d a b fun f x y => ((f.decode x).isNan || (f.decode y).isNan, 0)

/-- R92: a conversion of a whole register under the rounding mode. -/
def fcvt (s : State) (d a : Opd) (f : Rm → Word → FRes) : Host.Outcome State Fault Refusal :=
  finish s do
    let x ← s.rd a
    let r := f (rmOf s.thr.csr.frm) x
    s.wrF d (BitVec.ofNat 64 r.bits) r.fl

/-- The value of an f64 register. -/
def val64 (x : Word) : FVal := fmt64.decode x.toNat
/-- The value of an f32 register. -/
def val32 (x : Word) : FVal := fmt32.decode (x.toNat % 2 ^ 32)

/-- FCVT_F64_F32 (R92). -/
def execFcvtF64F32 (d a : Opd) (s : State) : Host.Outcome State Fault Refusal :=
  fcvt s d a fun rm x => fmt64.convert rm false (val32 x)

/-- FCVT_F32_F64 (R92). -/
def execFcvtF32F64 (d a : Opd) (s : State) : Host.Outcome State Fault Refusal :=
  fcvt s d a fun rm x => fmt32.convert rm false (val64 x)

/-- FCVT_F64_I64 (R92). -/
def execFcvtF64I64 (d a : Opd) (s : State) : Host.Outcome State Fault Refusal :=
  fcvt s d a fun rm x => fmt64.convert rm false (.ofInt x.toInt)

/-- FCVT_F64_B64 (R92). -/
def execFcvtF64B64 (d a : Opd) (s : State) : Host.Outcome State Fault Refusal :=
  fcvt s d a fun rm x => fmt64.convert rm false (.ofInt x.toNat)

/-- FCVT_F32_I64 (R92). -/
def execFcvtF32I64 (d a : Opd) (s : State) : Host.Outcome State Fault Refusal :=
  fcvt s d a fun rm x => fmt32.convert rm false (.ofInt x.toInt)

/-- FCVT_F32_B64 (R92). -/
def execFcvtF32B64 (d a : Opd) (s : State) : Host.Outcome State Fault Refusal :=
  fcvt s d a fun rm x => fmt32.convert rm false (.ofInt x.toNat)

/-- FCVT_I64_F64 (R92). -/
def execFcvtI64F64 (d a : Opd) (s : State) : Host.Outcome State Fault Refusal :=
  fcvt s d a fun rm x => toInteger rm 64 true (val64 x)

/-- FCVT_B64_F64 (R92). -/
def execFcvtB64F64 (d a : Opd) (s : State) : Host.Outcome State Fault Refusal :=
  fcvt s d a fun rm x => toInteger rm 64 false (val64 x)

/-- FCVT_I64_F32 (R92). -/
def execFcvtI64F32 (d a : Opd) (s : State) : Host.Outcome State Fault Refusal :=
  fcvt s d a fun rm x => toInteger rm 64 true (val32 x)

/-- FCVT_B64_F32 (R92). -/
def execFcvtB64F32 (d a : Opd) (s : State) : Host.Outcome State Fault Refusal :=
  fcvt s d a fun rm x => toInteger rm 64 false (val32 x)

end Sys2Proof.Machine
end

