-- ==== Sys2Proof/Machine/Dispatch.lean ====
section
/-! DEFINITION. The dispatch: one arm per constructor of Instr, each a call of its meaning. -/

namespace Sys2Proof.Machine

/-- The meaning of every instruction and step of the opcode table. -/
def exec (i : Instr) (s : State) : Host.Outcome State Fault Refusal :=
  match i with
  | .add d a b => Sys2Proof.Machine.execAdd d a b s
  | .sub d a b => Sys2Proof.Machine.execSub d a b s
  | .and d a b => Sys2Proof.Machine.execAnd d a b s
  | .or d a b => Sys2Proof.Machine.execOr d a b s
  | .xor d a b => Sys2Proof.Machine.execXor d a b s
  | .andn d a b => Sys2Proof.Machine.execAndn d a b s
  | .sll d a b => Sys2Proof.Machine.execSll d a b s
  | .srl d a b => Sys2Proof.Machine.execSrl d a b s
  | .sra d a b => Sys2Proof.Machine.execSra d a b s
  | .rol d a b => Sys2Proof.Machine.execRol d a b s
  | .ror d a b => Sys2Proof.Machine.execRor d a b s
  | .min d a b => Sys2Proof.Machine.execMin d a b s
  | .max d a b => Sys2Proof.Machine.execMax d a b s
  | .minu d a b => Sys2Proof.Machine.execMinu d a b s
  | .maxu d a b => Sys2Proof.Machine.execMaxu d a b s
  | .sel d a b => Sys2Proof.Machine.execSel d a b s
  | .mul d a b => Sys2Proof.Machine.execMul d a b s
  | .mulh d a b => Sys2Proof.Machine.execMulh d a b s
  | .mulhu d a b => Sys2Proof.Machine.execMulhu d a b s
  | .div d a b => Sys2Proof.Machine.execDiv d a b s
  | .divu d a b => Sys2Proof.Machine.execDivu d a b s
  | .rem d a b => Sys2Proof.Machine.execRem d a b s
  | .remu d a b => Sys2Proof.Machine.execRemu d a b s
  | .clz d a => Sys2Proof.Machine.execClz d a s
  | .ctz d a => Sys2Proof.Machine.execCtz d a s
  | .popc d a => Sys2Proof.Machine.execPopc d a s
  | .seq d a b => Sys2Proof.Machine.execSeq d a b s
  | .slt d a b => Sys2Proof.Machine.execSlt d a b s
  | .sltu d a b => Sys2Proof.Machine.execSltu d a b s
  | .sle d a b => Sys2Proof.Machine.execSle d a b s
  | .sleu d a b => Sys2Proof.Machine.execSleu d a b s
  | .addImm d a imm => Sys2Proof.Machine.execAddImm d a imm s
  | .andImm d a imm => Sys2Proof.Machine.execAndImm d a imm s
  | .orImm d a imm => Sys2Proof.Machine.execOrImm d a imm s
  | .xorImm d a imm => Sys2Proof.Machine.execXorImm d a imm s
  | .sllImm d a z => Sys2Proof.Machine.execSllImm d a z s
  | .srlImm d a z => Sys2Proof.Machine.execSrlImm d a z s
  | .sraImm d a z => Sys2Proof.Machine.execSraImm d a z s
  | .rolImm d a z => Sys2Proof.Machine.execRolImm d a z s
  | .sltImm d a imm => Sys2Proof.Machine.execSltImm d a imm s
  | .sltuImm d a imm => Sys2Proof.Machine.execSltuImm d a imm s
  | .limm d imm => Sys2Proof.Machine.execLimm d imm s
  | .lhi d imm => Sys2Proof.Machine.execLhi d imm s
  | .faddF64 d a b => Sys2Proof.Machine.execFaddF64 d a b s
  | .fsubF64 d a b => Sys2Proof.Machine.execFsubF64 d a b s
  | .fmulF64 d a b => Sys2Proof.Machine.execFmulF64 d a b s
  | .fdivF64 d a b => Sys2Proof.Machine.execFdivF64 d a b s
  | .fminF64 d a b => Sys2Proof.Machine.execFminF64 d a b s
  | .fmaxF64 d a b => Sys2Proof.Machine.execFmaxF64 d a b s
  | .fsqrtF64 d a => Sys2Proof.Machine.execFsqrtF64 d a s
  | .fclassF64 d a => Sys2Proof.Machine.execFclassF64 d a s
  | .ffmaF64 d a b => Sys2Proof.Machine.execFfmaF64 d a b s
  | .faddF32 d a b => Sys2Proof.Machine.execFaddF32 d a b s
  | .fsubF32 d a b => Sys2Proof.Machine.execFsubF32 d a b s
  | .fmulF32 d a b => Sys2Proof.Machine.execFmulF32 d a b s
  | .fdivF32 d a b => Sys2Proof.Machine.execFdivF32 d a b s
  | .fminF32 d a b => Sys2Proof.Machine.execFminF32 d a b s
  | .fmaxF32 d a b => Sys2Proof.Machine.execFmaxF32 d a b s
  | .fsqrtF32 d a => Sys2Proof.Machine.execFsqrtF32 d a s
  | .fclassF32 d a => Sys2Proof.Machine.execFclassF32 d a s
  | .ffmaF32 d a b => Sys2Proof.Machine.execFfmaF32 d a b s
  | .fcmpEq d a b t => Sys2Proof.Machine.execFcmpEq d a b t s
  | .fcmpLt d a b t => Sys2Proof.Machine.execFcmpLt d a b t s
  | .fcmpLe d a b t => Sys2Proof.Machine.execFcmpLe d a b t s
  | .fcmpUnord d a b t => Sys2Proof.Machine.execFcmpUnord d a b t s
  | .fcvtF64F32 d a => Sys2Proof.Machine.execFcvtF64F32 d a s
  | .fcvtF32F64 d a => Sys2Proof.Machine.execFcvtF32F64 d a s
  | .fcvtF64I64 d a => Sys2Proof.Machine.execFcvtF64I64 d a s
  | .fcvtF64B64 d a => Sys2Proof.Machine.execFcvtF64B64 d a s
  | .fcvtF32I64 d a => Sys2Proof.Machine.execFcvtF32I64 d a s
  | .fcvtF32B64 d a => Sys2Proof.Machine.execFcvtF32B64 d a s
  | .fcvtI64F64 d a => Sys2Proof.Machine.execFcvtI64F64 d a s
  | .fcvtB64F64 d a => Sys2Proof.Machine.execFcvtB64F64 d a s
  | .fcvtI64F32 d a => Sys2Proof.Machine.execFcvtI64F32 d a s
  | .fcvtB64F32 d a => Sys2Proof.Machine.execFcvtB64F32 d a s
  | .beq r a imm => Sys2Proof.Machine.execBeq r a imm s
  | .bne r a imm => Sys2Proof.Machine.execBne r a imm s
  | .blt r a imm => Sys2Proof.Machine.execBlt r a imm s
  | .bge r a imm => Sys2Proof.Machine.execBge r a imm s
  | .bltu r a imm => Sys2Proof.Machine.execBltu r a imm s
  | .bgeu r a imm => Sys2Proof.Machine.execBgeu r a imm s
  | .strip c p n x => Sys2Proof.Machine.execStrip c p n x s
  | .bpT p imm => Sys2Proof.Machine.execBpT p imm s
  | .bpF p imm => Sys2Proof.Machine.execBpF p imm s
  | .bpU p imm => Sys2Proof.Machine.execBpU p imm s
  | .call d imm => Sys2Proof.Machine.execCall d imm s
  | .jr d a => Sys2Proof.Machine.execJr d a s
  | .crd d b => Sys2Proof.Machine.execCrd d b s
  | .cwr a b => Sys2Proof.Machine.execCwr a b s
  | .wbase d a => Sys2Proof.Machine.execWbase d a s
  | .trap a b => Sys2Proof.Machine.execTrap a b s
  | .eret => Sys2Proof.Machine.execEret s
  | .yield => Sys2Proof.Machine.execYield s
  | .halt => Sys2Proof.Machine.execHalt s
  | .setvl d a => Sys2Proof.Machine.execSetvl d a s
  | .ld d a x z => Sys2Proof.Machine.execLd d a x z s
  | .st d a x z => Sys2Proof.Machine.execSt d a x z s
  | .amoAdd d a b z => Sys2Proof.Machine.execAmoAdd d a b z s
  | .amoAnd d a b z => Sys2Proof.Machine.execAmoAnd d a b z s
  | .amoOr d a b z => Sys2Proof.Machine.execAmoOr d a b z s
  | .amoXor d a b z => Sys2Proof.Machine.execAmoXor d a b z s
  | .amoMin d a b z => Sys2Proof.Machine.execAmoMin d a b z s
  | .amoMax d a b z => Sys2Proof.Machine.execAmoMax d a b z s
  | .amoSwap d a b z => Sys2Proof.Machine.execAmoSwap d a b z s
  | .cas d a b z => Sys2Proof.Machine.execCas d a b z s
  | .binc d a b => Sys2Proof.Machine.execBinc d a b s
  | .fenceSv z => Sys2Proof.Machine.execFenceSv z s
  | .fenceVs z => Sys2Proof.Machine.execFenceVs z s
  | .fenceEe z => Sys2Proof.Machine.execFenceEe z s
  | .vdrain => Sys2Proof.Machine.execVdrain s
  | .tfence z => Sys2Proof.Machine.execTfence z s
  | .waitc d a b => Sys2Proof.Machine.execWaitc d a b s
  | .gcsleepAny d a b => Sys2Proof.Machine.execGcsleepAny d a b s
  | .gcsleepAll d a b => Sys2Proof.Machine.execGcsleepAll d a b s
  | .bqpush a => Sys2Proof.Machine.execBqpush a s
  | .bqpop d => Sys2Proof.Machine.execBqpop d s
  | .vadd d a b m t => Sys2Proof.Machine.execVadd d a b m t s
  | .vsub d a b m t => Sys2Proof.Machine.execVsub d a b m t s
  | .vmul d a b m t => Sys2Proof.Machine.execVmul d a b m t s
  | .vfma d a b m t => Sys2Proof.Machine.execVfma d a b m t s
  | .vmin d a b m t => Sys2Proof.Machine.execVmin d a b m t s
  | .vmax d a b m t => Sys2Proof.Machine.execVmax d a b m t s
  | .vdiv d a b m t => Sys2Proof.Machine.execVdiv d a b m t s
  | .vabs d a m t => Sys2Proof.Machine.execVabs d a m t s
  | .vneg d a m t => Sys2Proof.Machine.execVneg d a m t s
  | .vsqrt d a m t => Sys2Proof.Machine.execVsqrt d a m t s
  | .vcmpeq d a b m t => Sys2Proof.Machine.execVcmpeq d a b m t s
  | .vcmplt d a b m t => Sys2Proof.Machine.execVcmplt d a b m t s
  | .vcmple d a b m t => Sys2Proof.Machine.execVcmple d a b m t s
  | .vand d a b w => Sys2Proof.Machine.execVand d a b w s
  | .vor d a b w => Sys2Proof.Machine.execVor d a b w s
  | .vxor d a b w => Sys2Proof.Machine.execVxor d a b w s
  | .vandn d a b w => Sys2Proof.Machine.execVandn d a b w s
  | .vsll d a b w => Sys2Proof.Machine.execVsll d a b w s
  | .vsrl d a b w => Sys2Proof.Machine.execVsrl d a b w s
  | .vsra d a b w => Sys2Proof.Machine.execVsra d a b w s
  | .vsel d a b w => Sys2Proof.Machine.execVsel d a b w s
  | .vminUnsigned d a b w => Sys2Proof.Machine.execVminUnsigned d a b w s
  | .vmaxUnsigned d a b w => Sys2Proof.Machine.execVmaxUnsigned d a b w s
  | .vcmpltUnsigned d a b w => Sys2Proof.Machine.execVcmpltUnsigned d a b w s
  | .vcmpleUnsigned d a b w => Sys2Proof.Machine.execVcmpleUnsigned d a b w s
  | .vdivUnsigned d a b m w => Sys2Proof.Machine.execVdivUnsigned d a b m w s
  | .vcvt d a u z m t => Sys2Proof.Machine.execVcvt d a u z m t s
  | .vunpix d a m p => Sys2Proof.Machine.execVunpix d a m p s
  | .vpkpix d a m p => Sys2Proof.Machine.execVpkpix d a m p s
  | .vsatn d a b m g w => Sys2Proof.Machine.execVsatn d a b m g w s
  | .vmadd16 d a b m g => Sys2Proof.Machine.execVmadd16 d a b m g s
  | .vavg d a b m g w => Sys2Proof.Machine.execVavg d a b m g w s
  | .vredAdd d a m t => Sys2Proof.Machine.execVredAdd d a m t s
  | .vredMax d a m t => Sys2Proof.Machine.execVredMax d a m t s
  | .vredMin d a m t => Sys2Proof.Machine.execVredMin d a m t s
  | .vredAnd d a m t => Sys2Proof.Machine.execVredAnd d a m t s
  | .vredOr d a m t => Sys2Proof.Machine.execVredOr d a m t s
  | .vredMaxu d a m t => Sys2Proof.Machine.execVredMaxu d a m t s
  | .vredMinu d a m t => Sys2Proof.Machine.execVredMinu d a m t s
  | .vscanAdd d a m t => Sys2Proof.Machine.execVscanAdd d a m t s
  | .vscanMax d a m t => Sys2Proof.Machine.execVscanMax d a m t s
  | .vscanMin d a m t => Sys2Proof.Machine.execVscanMin d a m t s
  | .vscanAnd d a m t => Sys2Proof.Machine.execVscanAnd d a m t s
  | .vscanOr d a m t => Sys2Proof.Machine.execVscanOr d a m t s
  | .vscanMaxu d a m t => Sys2Proof.Machine.execVscanMaxu d a m t s
  | .vscanMinu d a m t => Sys2Proof.Machine.execVscanMinu d a m t s
  | .vcompress d a t => Sys2Proof.Machine.execVcompress d a t s
  | .vexpand d a t => Sys2Proof.Machine.execVexpand d a t s
  | .vslide d a b m t => Sys2Proof.Machine.execVslide d a b m t s
  | .vbcast d a m t => Sys2Proof.Machine.execVbcast d a m t s
  | .vidx d m t => Sys2Proof.Machine.execVidx d m t s
  | .vextr d a b t => Sys2Proof.Machine.execVextr d a b t s
  | .vmpop d a => Sys2Proof.Machine.execVmpop d a s
  | .vmfirst d a => Sys2Proof.Machine.execVmfirst d a s
  | .vtopk d a b m t => Sys2Proof.Machine.execVtopk d a b m t s
  | .vld d a b m t => Sys2Proof.Machine.execVld d a b m t s
  | .vst d a b m t => Sys2Proof.Machine.execVst d a b m t s
  | .vldff d a b m t => Sys2Proof.Machine.execVldff d a b m t s
  | .vlds d a b m t => Sys2Proof.Machine.execVlds d a b m t s
  | .vsts d a b m t => Sys2Proof.Machine.execVsts d a b m t s
  | .vgaths d a b m t => Sys2Proof.Machine.execVgaths d a b m t s
  | .vscats d a b m t => Sys2Proof.Machine.execVscats d a b m t s
  | .wbind d a b => Sys2Proof.Machine.execWbind d a b s
  | .vdecb d a m t => Sys2Proof.Machine.execVdecb d a m t s
  | .cbload a => Sys2Proof.Machine.execCbload a s
  | .vsplit6 d a b f => Sys2Proof.Machine.execVsplit6 d a b f s
  | .vjoin6 d a b f => Sys2Proof.Machine.execVjoin6 d a b f s
  | .vprune d a t p => Sys2Proof.Machine.execVprune d a t p s
  | .vcvtsToNarrow d a n m t => Sys2Proof.Machine.execVcvtsToNarrow d a n m t s
  | .vcvtsFromNarrow d a n m t => Sys2Proof.Machine.execVcvtsFromNarrow d a n m t s
  | .mma c g a b f => Sys2Proof.Machine.execMma c g a b f s
  | .mmas c g a b f => Sys2Proof.Machine.execMmas c g a b f s
  | .mzero c => Sys2Proof.Machine.execMzero c s
  | .mswap c => Sys2Proof.Machine.execMswap c s
  | .mrd c r a => Sys2Proof.Machine.execMrd c r a s
  | .mwr c r a => Sys2Proof.Machine.execMwr c r a s
  | .mcfg c t => Sys2Proof.Machine.execMcfg c t s
  | .iadd d a b => Sys2Proof.Machine.execIadd d a b s
  | .isub d a b => Sys2Proof.Machine.execIsub d a b s
  | .imul d a b => Sys2Proof.Machine.execImul d a b s
  | .idiv d a b => Sys2Proof.Machine.execIdiv d a b s
  | .isqr d a => Sys2Proof.Machine.execIsqr d a s
  | .isqrt d a => Sys2Proof.Machine.execIsqrt d a s
  | .ineg d a => Sys2Proof.Machine.execIneg d a s
  | .cadd d a b => Sys2Proof.Machine.execCadd d a b s
  | .csub d a b => Sys2Proof.Machine.execCsub d a b s
  | .cmul d a b => Sys2Proof.Machine.execCmul d a b s
  | .cdiv d a b => Sys2Proof.Machine.execCdiv d a b s
  | .csqr d a => Sys2Proof.Machine.execCsqr d a s
  | .csqrt d a => Sys2Proof.Machine.execCsqrt d a s
  | .iinter d a b => Sys2Proof.Machine.execIinter d a b s
  | .ihull d a b => Sys2Proof.Machine.execIhull d a b s
  | .isplit d a => Sys2Proof.Machine.execIsplit d a s
  | .iwid d a => Sys2Proof.Machine.execIwid d a s
  | .iclrp d => Sys2Proof.Machine.execIclrp d s
  | .icmpLt d a b => Sys2Proof.Machine.execIcmpLt d a b s
  | .icmpLe d a b => Sys2Proof.Machine.execIcmpLe d a b s
  | .icmpSub d a b => Sys2Proof.Machine.execIcmpSub d a b s
  | .icmpCz d a => Sys2Proof.Machine.execIcmpCz d a s
  | .iset d a b => Sys2Proof.Machine.execIset d a b s
  | .igetLo d a => Sys2Proof.Machine.execIgetLo d a s
  | .igetHi d a => Sys2Proof.Machine.execIgetHi d a s
  | .viadd d a b m => Sys2Proof.Machine.execViadd d a b m s
  | .visub d a b m => Sys2Proof.Machine.execVisub d a b m s
  | .vimul d a b m => Sys2Proof.Machine.execVimul d a b m s
  | .vcadd d a b m => Sys2Proof.Machine.execVcadd d a b m s
  | .vcsub d a b m => Sys2Proof.Machine.execVcsub d a b m s
  | .vcmul d a b m => Sys2Proof.Machine.execVcmul d a b m s
  | .ropen d a b => Sys2Proof.Machine.execRopen d a b s
  | .ropenAcq d b => Sys2Proof.Machine.execRopenAcq d b s
  | .rpub a => Sys2Proof.Machine.execRpub a s
  | .rclose a => Sys2Proof.Machine.execRclose a s
  | .rinfo d a => Sys2Proof.Machine.execRinfo d a s
  | .rsplice d a b => Sys2Proof.Machine.execRsplice d a b s
  | .rtag d a b => Sys2Proof.Machine.execRtag d a b s
  | .rsortK d a b => Sys2Proof.Machine.execRsortK d a b s
  | .rsortKt d a b => Sys2Proof.Machine.execRsortKt d a b s
  | .rmergeNone d a b => Sys2Proof.Machine.execRmergeNone d a b s
  | .rmergeAdd d a b => Sys2Proof.Machine.execRmergeAdd d a b s
  | .rmergeWadd d a b => Sys2Proof.Machine.execRmergeWadd d a b s
  | .rmergeMin d a b => Sys2Proof.Machine.execRmergeMin d a b s
  | .rmergeMax d a b => Sys2Proof.Machine.execRmergeMax d a b s
  | .rmergeFirst d a b => Sys2Proof.Machine.execRmergeFirst d a b s
  | .rmergeLast d a b => Sys2Proof.Machine.execRmergeLast d a b s
  | .rmergeUser d a b => Sys2Proof.Machine.execRmergeUser d a b s
  | .rjoin d a b => Sys2Proof.Machine.execRjoin d a b s
  | .rjoinDrop d a b => Sys2Proof.Machine.execRjoinDrop d a b s
  | .rsetIsect d a b => Sys2Proof.Machine.execRsetIsect d a b s
  | .rsetUnion d a b => Sys2Proof.Machine.execRsetUnion d a b s
  | .rsetDiff d a b => Sys2Proof.Machine.execRsetDiff d a b s
  | .rpart d a b => Sys2Proof.Machine.execRpart d a b s
  | .rdedup d a b => Sys2Proof.Machine.execRdedup d a b s
  | .rcount d a b => Sys2Proof.Machine.execRcount d a b s
  | .qopen d a b => Sys2Proof.Machine.execQopen d a b s
  | .qpush d a => Sys2Proof.Machine.execQpush d a s
  | .qtake d a => Sys2Proof.Machine.execQtake d a s
  | .qarm a b => Sys2Proof.Machine.execQarm a b s
  | .qdone a => Sys2Proof.Machine.execQdone a s
  | .qstat d a => Sys2Proof.Machine.execQstat d a s
  | .tspawn d a b => Sys2Proof.Machine.execTspawn d a b s
  | .tend a => Sys2Proof.Machine.execTend a s
  | .fork d a b => Sys2Proof.Machine.execFork d a b s
  | .join => Sys2Proof.Machine.execJoin s
  | .xsend r t => Sys2Proof.Machine.execXsend r t s
  | .xput r t => Sys2Proof.Machine.execXput r t s
  | .cpy d a b => Sys2Proof.Machine.execCpy d a b s
  | .cpyd d a b => Sys2Proof.Machine.execCpyd d a b s
  | .sread d a b => Sys2Proof.Machine.execSread d a b s
  | .swrite d a b => Sys2Proof.Machine.execSwrite d a b s
  | .bdecl d a b => Sys2Proof.Machine.execBdecl d a b s
  | .bxform d a b => Sys2Proof.Machine.execBxform d a b s
  | .brelRel a => Sys2Proof.Machine.execBrelRel a s
  | .brelFree a => Sys2Proof.Machine.execBrelFree a s
  | .brelSeal a => Sys2Proof.Machine.execBrelSeal a s
  | .rmark a b => Sys2Proof.Machine.execRmark a b s
  | .illegalInstruction w => Sys2Proof.Machine.execIllegalInstruction w s
  | .vectorCommit t => Sys2Proof.Machine.execVectorCommit t s
  | .runEnginePublish op => Sys2Proof.Machine.execRunEnginePublish op s
  | .cpyComplete op => Sys2Proof.Machine.execCpyComplete op s
  | .cpydComplete op => Sys2Proof.Machine.execCpydComplete op s
  | .bxformComplete op => Sys2Proof.Machine.execBxformComplete op s
  | .storageComplete op status data => Sys2Proof.Machine.execStorageComplete op status data s
  | .xputDeliver msg => Sys2Proof.Machine.execXputDeliver msg s
  | .xsendDeliver msg => Sys2Proof.Machine.execXsendDeliver msg s
  | .relayForward msg => Sys2Proof.Machine.execRelayForward msg s
  | .fabricTokenReturn msg value => Sys2Proof.Machine.execFabricTokenReturn msg value s
  | .qpushArrival push => Sys2Proof.Machine.execQpushArrival push s
  | .queueMissServiced q => Sys2Proof.Machine.execQueueMissServiced q s
  | .spillRefill q => Sys2Proof.Machine.execSpillRefill q s
  | .settleAgeEligible q => Sys2Proof.Machine.execSettleAgeEligible q s
  | .settleClassPromotion q => Sys2Proof.Machine.execSettleClassPromotion q s
  | .settleFire q => Sys2Proof.Machine.execSettleFire q s
  | .taskDispatch task place => Sys2Proof.Machine.execTaskDispatch task place s
  | .taskBecomesOldest die => Sys2Proof.Machine.execTaskBecomesOldest die s
  | .taskCommit die => Sys2Proof.Machine.execTaskCommit die s
  | .waitcWake t => Sys2Proof.Machine.execWaitcWake t s
  | .gcsleepWake t => Sys2Proof.Machine.execGcsleepWake t s
  | .hostWordPoll t => Sys2Proof.Machine.execHostWordPoll t s
  | .tailWrite q v => Sys2Proof.Machine.execTailWrite q v s
  | .qcfgWrite q v => Sys2Proof.Machine.execQcfgWrite q v s
  | .registerWrite off v => Sys2Proof.Machine.execRegisterWrite off v s
  | .launchPacketRead q => Sys2Proof.Machine.execLaunchPacketRead q s
  | .launchStart q => Sys2Proof.Machine.execLaunchStart q s
  | .preemptDeadlineExpiry crew => Sys2Proof.Machine.execPreemptDeadlineExpiry crew s
  | .crewSave crew => Sys2Proof.Machine.execCrewSave crew s
  | .saveTimeout crew => Sys2Proof.Machine.execSaveTimeout crew s
  | .hangWatchdogExpiry crew => Sys2Proof.Machine.execHangWatchdogExpiry crew s
  | .breakpointStop t => Sys2Proof.Machine.execBreakpointStop t s
  | .stepComplete crew => Sys2Proof.Machine.execStepComplete crew s
  | .counterWrap unit ev inc => Sys2Proof.Machine.execCounterWrap unit ev inc s
  | .counterSweep => Sys2Proof.Machine.execCounterSweep s
  | .sramScrub bad => Sys2Proof.Machine.execSramScrub bad s
  | .dramPatrolScrub bad => Sys2Proof.Machine.execDramPatrolScrub bad s
  | .powerGood => Sys2Proof.Machine.execPowerGood s
  | .stage1Ready die => Sys2Proof.Machine.execStage1Ready die s
  | .stage2Ready => Sys2Proof.Machine.execStage2Ready s
  | .stage3Ready => Sys2Proof.Machine.execStage3Ready s
  | .portTrained port => Sys2Proof.Machine.execPortTrained port s
  | .portTrainingTimeout port => Sys2Proof.Machine.execPortTrainingTimeout port s
  | .flitReceive port seq good => Sys2Proof.Machine.execFlitReceive port seq good s
  | .flitNak port seq => Sys2Proof.Machine.execFlitNak port seq s
  | .linkDown port => Sys2Proof.Machine.execLinkDown port s
  | .uncorrectedCodewordLimit port => Sys2Proof.Machine.execUncorrectedCodewordLimit port s
  | .powerThrottle watts temps => Sys2Proof.Machine.execPowerThrottle watts temps s
  | .thermalTrip temps => Sys2Proof.Machine.execThermalTrip temps s
  | .thermalRecovery temps => Sys2Proof.Machine.execThermalRecovery temps s
  | .firmwareFault => Sys2Proof.Machine.execFirmwareFault s
  | .peerWindowAccess off len data => Sys2Proof.Machine.execPeerWindowAccess off len data s
  | .spdmRequest req => Sys2Proof.Machine.execSpdmRequest req s
  | .unknownOp op tag => Sys2Proof.Machine.execUnknownOp op tag s
  | .resync a => Sys2Proof.Machine.execResync a s
  | .fwload a => Sys2Proof.Machine.execFwload a s
  | .ctxnew a => Sys2Proof.Machine.execCtxnew a s
  | .ctxkill a => Sys2Proof.Machine.execCtxkill a s
  | .xlate a => Sys2Proof.Machine.execXlate a s
  | .keyload a => Sys2Proof.Machine.execKeyload a s
  | .purge a => Sys2Proof.Machine.execPurge a s
  | .trapset a => Sys2Proof.Machine.execTrapset a s
  | .save a => Sys2Proof.Machine.execSave a s
  | .restore a => Sys2Proof.Machine.execRestore a s
  | .bpool a => Sys2Proof.Machine.execBpool a s
  | .evict a => Sys2Proof.Machine.execEvict a s
  | .share a => Sys2Proof.Machine.execShare a s
  | .qbind a => Sys2Proof.Machine.execQbind a s
  | .qunbind a => Sys2Proof.Machine.execQunbind a s
  | .nvmeqp a => Sys2Proof.Machine.execNvmeqp a s
  | .nvmeunqp a => Sys2Proof.Machine.execNvmeunqp a s
  | .nvmeerr a => Sys2Proof.Machine.execNvmeerr a s
  | .cntcfg a => Sys2Proof.Machine.execCntcfg a s
  | .cntread a => Sys2Proof.Machine.execCntread a s
  | .cntclr a => Sys2Proof.Machine.execCntclr a s
  | .cntprog a => Sys2Proof.Machine.execCntprog a s
  | .cntdump a => Sys2Proof.Machine.execCntdump a s
  | .trccfg a => Sys2Proof.Machine.execTrccfg a s
  | .dbgattach a => Sys2Proof.Machine.execDbgattach a s
  | .brkset a => Sys2Proof.Machine.execBrkset a s
  | .step a => Sys2Proof.Machine.execStep a s
  | .dbgstop a => Sys2Proof.Machine.execDbgstop a s
  | .rplcfg a => Sys2Proof.Machine.execRplcfg a s
  | .pwrread a => Sys2Proof.Machine.execPwrread a s
  | .pwrcap a => Sys2Proof.Machine.execPwrcap a s
  | .retire a => Sys2Proof.Machine.execRetire a s
  | .accessPerformed t => Sys2Proof.Machine.execAccessPerformed t s
  | .savedTaskResume ctx area place => Sys2Proof.Machine.execSavedTaskResume ctx area place s
  | .throttleEnd watts temps => Sys2Proof.Machine.execThrottleEnd watts temps s

end Sys2Proof.Machine
end

