-- ==== Sys2Proof/Machine/Agents.lean ====
section
/-! DEFINITION. What can move in a step: the passing of time, the threads that may issue and the fetch of
their instruction, and every unit of the package that acts by itself (log 2, log 8). -/

namespace Sys2Proof.Machine

/-! ## Time (R41, R173, R321, R328) -/

/-- R328: whether a thread is stalled other than in waitc, gcsleep or yield-ready. -/
def Thread.hangs (t : Thread) : Bool :=
  match t.life with
  | .stalled _ => true
  | _ => false

/-- R41, R321, R328: the counts of a crew after `d` cycles. -/
def Crew.tick (d : Nat) (ts : List Thread) (c : Crew) : Crew :=
  { c with
    ddl := if c.prq then BitVec.ofNat 32 (c.ddl.toNat - d) else c.ddl
    stallCycles := if c.stop.isSome || ts.any Thread.hangs then c.stallCycles + d else c.stallCycles }

/-- The cycles of a step: one, and a free number of further ones but in the first (log 2). -/
def State.cycles (s : State) : Nat := if s.stepNo = 0 then 1 else 1 + Config.extraCycles s.stepNo

/-- Time passes; whether a vector instruction that issues now commits at once, and a store performs as it commits, is
free (log 6). Every thread's cycles are counted (R345) and every Settle is judged (R173). -/
def State.tick (s : State) : State :=
  let s1 := { s with
    clk := s.clk + s.cycles, stepNo := s.stepNo + 1, draw := s.draw + 1
    lag := if s.stepNo = 0 then s.lag else Config.lagAt s.stepNo
    slack := if s.stepNo = 0 then s.slack else Config.slackAt s.stepNo
    crew := if s.live then s.crew.tick s.cycles (s.thr :: s.mates) else s.crew
    others := s.others.map fun (p : Crew × List Thread) => (p.1.tick s.cycles p.2, p.2) }
  (s1.slip s.cycles).judgeAll

/-! ## Issue (R57, R63, R328, R349, R350, R374) -/

/-- R63: the instruction that a fetched word is: one that no check of the word itself refuses, or an illegal
word. -/
noncomputable def instrOf (w : BitVec 32) : Instr :=
  match decodeWord w with
  | .ok i => if i.wf then i else .illegalInstruction w
  | .error _ => .illegalInstruction w

/-- R350: an instruction that fixes vl. -/
def setsVl : Instr → Bool
  | .strip _ _ _ _ | .setvl _ _ => true
  | _ => false

/-- R350: a crew's step once its thread has issued. -/
def Crew.stepped (c : Crew) (i : Instr) : Crew :=
  { c with
    stallCycles := 0
    stepping := c.stepping.map fun k => if k < 4 then k + 4 + (if setsVl i then 8 else 0) else k }

/-- Change a crew by its number, and one of its threads. -/
def State.modCrewThread (s : State) (crew idx : Nat) (f : Crew → Crew) (g : Thread → Thread) : State :=
  let th (t : Thread) : Thread := if t.idx = idx then g t else t
  { s with
    crew := if s.live && s.crew.id == crew then f s.crew else s.crew
    thr := if s.live && s.crew.id == crew then th s.thr else s.thr
    mates := if s.live && s.crew.id == crew then s.mates.map th else s.mates
    others := s.others.map fun p => if p.1.id = crew then (f p.1, p.2.map th) else p }

/-- The number of the youngest vector instruction that a thread has queued. -/
def State.vseqOf (s : State) (r : TRef) : Nat := (s.threadOf? r.crew r.idx).elim 0 fun p => p.2.vseq

/-- R328, R339, R349, R350: what follows an instruction that has issued: it is counted, its crew's watchdog
starts again, the thread's next issue meets breakpoints, and a step has issued. -/
def State.noteIssue (s : State) (c : Crew) (t : Thread) (i : Instr) : State :=
  if s.hasIssued c.id t.idx i then
    (s.countIssue c t i (decide (t.vseq < s.vseqOf { crew := c.id, idx := t.idx }))).modCrewThread c.id t.idx (fun d => d.stepped i) fun u => { u with skipBrk := false }
  else s.countStall c t

/-- What follows an outcome that is a next state. -/
def mapNext (o : Host.Outcome State Fault Refusal) (f : State → State) : Host.Outcome State Fault Refusal :=
  match o with
  | .next s => .next (f s)
  | .fault r => .fault r
  | .refused r => .refused r

/-- The flags of a thread: those of fflags, then those of iflags (R79, R206). -/
def State.flagsOf (s : State) (r : TRef) : BitVec 10 :=
  match s.threadOf? r.crew r.idx with
  | some (_, t) => t.iflags ++ t.fflags
  | none => 0

/-- R339: the flags that vector instructions commit as an event happens: those that it leaves where there were none. -/
noncomputable def State.committedBy (s : State) (r : TRef) (i : Instr) : BitVec 10 :=
  match exec i (s.modCrewThread r.crew r.idx id fun t => { t with fflags := 0, iflags := 0 }) with
  | .next s' => s'.flagsOf r
  | _ => 0

/-- R339, R347: events 248-257 count the flags that the vector instruction at a pc has committed, in one of its
chunks. -/
def State.countFlags (s : State) (c : Crew) (t : Thread) (pc : Addr) (vl : Nat) (f : BitVec 10) : State :=
  let w : Who := { whoOf c t with pc := zext64 pc, elem := some (s.chunkElem vl) }
  (List.range 10).foldl (fun s' k => if f.getLsbD k then s'.countCore c.coreIx (248 + k) 1 (some w) else s') s

/-- R170: the instruction that may wait for records. -/
def isQtake : Instr → Bool
  | .qtake _ _ => true
  | _ => false

/-- R170: a thread that tries to issue runs; one that waits in a qtake stays marked so (R171). -/
def Thread.trying (t : Thread) (i : Instr) : Thread :=
  if isQtake i && (match t.life with | .stalled (.queue _) => true | _ => false) then t else { t with life := .run }

/-- R63, R374: the thread in front runs an instruction. -/
noncomputable def State.runInstr (s : State) (i : Instr) : Host.Outcome State Fault Refusal :=
  let s0 := s.modThr fun t => t.trying i
  let r : TRef := { crew := s.crew.id, idx := s.thr.idx }
  mapNext (exec i s0) fun s' =>
    let s1 := s'.noteIssue s.crew s.thr i
    if s'.vseqOf r ≤ s.thr.vseq then s1 else s1.countFlags s.crew s.thr s.thr.pc s.thr.csr.vl.toNat (s0.committedBy r i)

/-- R290, R339: the head of a vector queue commits, and its flags are counted. -/
noncomputable def State.runCommit (s : State) (r : TRef) : Host.Outcome State Fault Refusal :=
  mapNext (exec (.vectorCommit r) s) fun s' =>
    match s.threadOf? r.crew r.idx with
    | some (c, t) =>
      (match t.vq with
       | e :: _ => s'.countFlags c t e.pc e.vl (s.committedBy r (.vectorCommit r))
       | [] => s')
    | none => s'

/-- R312, R358, R374: the word at a thread's pc as its context's key decrypts it, or how its fetch fails. -/
def State.fetch (s : State) : Except Trap (BitVec 32) × State :=
  match s.translate s.crew.ctx s.crew.coreIx s.thr.pc.toNat false with
  | (.error r, s1) => (.error (pageFault r { code := fltPage, addr := zext64 s.thr.pc }), s1)
  | (.ok pa, s1) =>
    match s1.badAt pa 4 with
    | some d => (.error { code := fltUncorr, addr := zext64 s.thr.pc, frame := some (d / 1024) }, s1)
    | none => (.ok (BitVec.ofNat 32 (leNat (s1.physSeen s1.owner pa 4))), s1)

/-- R57, R290, R374: the thread in front fetches and runs the instruction at its pc; while its vector queue is
full it stalls. -/
noncomputable def State.fetchRun (s : State) : Host.Outcome State Fault Refusal :=
  if Config.vqEntries ≤ s.thr.vq.length then .next (s.mark .vectorQueue)
  else
    match s.fetch with
    | (.error t, s1) => .next (s1.raise t)
    | (.ok w, s1) => s1.runInstr (instrOf w)

/-! ## The agents -/

/-- What may move: a thread that issues, an event of a unit, the trace writer, the command that executes, or an
uncorrectable error that an access meets. -/
inductive Agent where
  | issue (t : TRef)
  | event (i : Instr)
  | traceWriter
  | command
  | sramError (word : Nat)
  | dramError (beat : Nat)
  | swapError (q : QRef)

/-- R350: whether a crew's step keeps a thread from issuing. -/
def Crew.stepHolds (c : Crew) (t : Thread) : Bool :=
  match c.stepping with
  | some k => k != t.idx
  | none => false

/-- What a thread's wait makes of it: its words are read again once that would change something. -/
noncomputable def State.sleepAgents (s : State) (r : TRef) : List Agent :=
  match s.focus r with
  | none => []
  | some s1 =>
    if !s1.sleepDue then []
    else
      match s1.thr.sleep with
      | some (.waitc a _ _ _) => if isHostWord a then [.event (.hostWordPoll r)] else [.event (.waitcWake r)]
      | some (.gc _ _ _ _) => [.event (.gcsleepWake r)]
      | none => []

/-- What a thread's queue and its stores can do: commit, perform. -/
noncomputable def State.drainAgents (c : Crew) (t : Thread) : List Agent :=
  let r : TRef := { crew := c.id, idx := t.idx }
  (if t.vq.isEmpty then [] else [.event (.vectorCommit r)]) ++
  (if t.unperf.isEmpty && !t.heldDue then [] else [.event (.accessPerformed r)])

/-- What a thread can do: issue or stop at a breakpoint, wake, commit, perform. -/
noncomputable def State.threadAgents (s : State) (c : Crew) (t : Thread) : List Agent :=
  let r : TRef := { crew := c.id, idx := t.idx }
  (if t.canTry && !c.stepHolds t then
    (if s.breaks c.ctx t then [.event (.breakpointStop r)] else [.issue r]) else []) ++
  (if t.sleep.isSome then s.sleepAgents r else []) ++ State.drainAgents c t

/-- What a crew can do: be saved, forced or stopped by its watchdog, end its step, or what its threads can. -/
noncomputable def State.crewAgents (s : State) (p : Crew × List Thread) : List Agent :=
  let c := p.1
  if c.stop.isSome then
    [.event (.crewSave c.id)] ++ (if saveDeadline ≤ c.stallCycles then [.event (.saveTimeout c.id)] else []) ++
    (if c.prq && c.ddl == 0 && drains c p.2 then [.event (.preemptDeadlineExpiry c.id)] else []) ++
    (p.2.map fun t => State.drainAgents c t).flatten
  else
    (if saveDue c p.2 then [.event (.crewSave c.id)] else []) ++
    (if c.prq && c.ddl == 0 then [.event (.preemptDeadlineExpiry c.id)] else []) ++
    (if s.wdogOf c.ctx ≠ 0 ∧ s.wdogOf c.ctx ≤ c.stallCycles then [.event (.hangWatchdogExpiry c.id)] else []) ++
    (if s.stepDone c p.2 then [.event (.stepComplete c.id)] else []) ++
    (p.2.map fun t => s.threadAgents c t).flatten

/-- The engine operations that can act (R128, R218, R220, R221). -/
noncomputable def State.opAgent (s : State) (o : Op) : List Agent :=
  match o.kind with
  | .run _ _ _ _ _ _ => if (s.runEngineStep o).isSome then [.event (.runEnginePublish o.id)] else []
  | .cpy _ _ _ _ => if (s.cpyStep o).isSome then [.event (.cpyComplete o.id)] else []
  | .cpyd _ _ _ _ => if (s.cpydStep o).isSome then [.event (.cpydComplete o.id)] else []
  | .bxform _ _ _ _ _ => if (s.bxformStep o).isSome then [.event (.bxformComplete o.id)] else []
  | _ => []

/-- What a message can do here: be relayed, be delivered, or return its token (R233-R236); what becomes of one that
has left is the outside's. -/
noncomputable def State.msgAgent (s : State) (m : Msg) : List Agent :=
  match s.op? m.op with
  | none => [.event (.fabricTokenReturn m.id 0)]
  | some o =>
    match m.delivered with
    | some v => if s.pushes.any fun p => p.id == m.id then [] else [.event (.fabricTokenReturn m.id v)]
    | none =>
      if m.link.isSome then []
      else if m.route.leg0 == .relay then [.event (.relayForward m.id)]
      else if s.msgBehind m o then []
      else
        match o.kind with
        | .xput _ _ _ _ _ _ => [.event (.xputDeliver (.own m.id))]
        | _ => [.event (.xsendDeliver (.own m.id))]

/-- What a push on its way can do: enter its queue (R165). -/
noncomputable def State.pushAgent (s : State) (p : Push) : List Agent :=
  match s.queueAt p.q with
  | some b => if !b.live || s.pushReady p b then [.event (.qpushArrival p.id)] else []
  | none => [.event (.qpushArrival p.id)]

/-- What a queue can do: a miss is served, spilled records move back (R163, R166). -/
noncomputable def State.queueAgent (s : State) (q : QRef × BEntry) : List Agent :=
  (if !q.2.inSram && s.missNext q.1 q.2 then [.event (.queueMissServiced q.1)] else []) ++
  (if q.2.recs.any QRec.spilled && decide (q.2.inSeg < q.2.segCap) then [.event (.spillRefill q.1)] else [])

/-- What a die's dispatcher can do (R34, R35, R173, R178). -/
noncomputable def State.dieAgents (s : State) (d : BitVec 2) : List Agent :=
  (match s.settleNext d with | some q => [.event (.settleFire q)] | none => []) ++
  (match s.nextOldest d with
    | some t => if s.taskSaved t.id then [] else [.event (.taskBecomesOldest d)]
    | none => []) ++
  (match s.frontTask d with
    | some t => if t.oldest && (t.st == .retired || t.st == .cancelled) then [.event (.taskCommit d)] else []
    | none => []) ++
  (match s.taskNext d with
    | some t =>
      (match s.taskCfg t with
        | some c => (slotsOf.filter fun p => s.slotTakes d p.1 p.2 c).map fun p =>
            .event (.taskDispatch t.id { die := d, core := p.1, slot := p.2 })
        | none => [])
    | none => [])

/-- What the front end can do with a queue: read its next packet, choose or start its head (R306, R307). -/
noncomputable def State.launchAgents (s : State) (l : LQueue) : List Agent :=
  if s.stage = 0 then []
  else
    (if l.en && l.head != l.tail && l.pending.isNone then [.event (.launchPacketRead l.q)] else []) ++
    (match l.pending with
      | some p =>
        if l.chosen then (if s.canStart p || s.toPreempt p then [.event (.launchStart l.q)] else [])
        else if s.isFirstHead l.q then [.event (.launchStart l.q)] else []
      | none => [])

/-- The places where a saved task can resume (R307). -/
noncomputable def State.resumeAgents (s : State) (c : Ctx) : List Agent :=
  (c.saved.map fun a => ((List.range 32).filterMap fun k =>
    let p : Place := { die := a.die, core := BitVec.ofNat 5 k, slot := a.slot }
    if s.canResume a p then some (Agent.event (.savedTaskResume c.ctx a.area p)) else none)).flatten

/-- R163, R358: the queues whose segments are read back from DRAM next. -/
def State.swapping (s : State) : List QRef :=
  (s.segments.filter fun q => !q.2.inSram && s.missNext q.1 q.2).map Prod.fst

/-- R356, R358: the uncorrectable errors that this step's accesses meet, in a segment read back from DRAM too (log 48). -/
noncomputable def State.errorAgents (s : State) : List Agent :=
  if s.stepNo ≤ 1 then []
  else (Config.sramFault s.stepNo).toList.map Agent.sramError ++ (Config.dramFault s.stepNo).toList.map Agent.dramError ++
    (if (Config.dramFault s.stepNo).isSome then s.swapping.map Agent.swapError else [])

/-- Everything that can move. -/
noncomputable def State.agents (s : State) : List Agent :=
  (s.crews.map s.crewAgents).flatten ++ (s.ops.map s.opAgent).flatten ++ (s.msgs.map s.msgAgent).flatten ++
  (s.pushes.map s.pushAgent).flatten ++ (s.segments.map s.queueAgent).flatten ++
  ([0, 1, 2, 3].map s.dieAgents).flatten ++ (s.queues.map s.launchAgents).flatten ++
  (s.ctxs.map s.resumeAgents).flatten ++
  (if s.trace.isEmpty then [] else [.traceWriter]) ++ (if s.sweepDue then [.event .counterSweep] else []) ++
  (if s.mbox.run then [.command] else []) ++ s.errorAgents

/-- An agent moves. -/
noncomputable def State.runAgent (s : State) (a : Agent) : Host.Outcome State Fault Refusal :=
  match a with
  | .issue t => (match s.focus t with | some s1 => s1.fetchRun | none => .next s)
  | .event (.vectorCommit r) => s.runCommit r
  | .event i => exec i s
  | .traceWriter => .next s.traceDrain
  | .command => .next s.goOnCommand
  | .sramError n => .next (s.badSram n)
  | .dramError d => .next { s with dramBad := d :: s.dramBad }
  | .swapError q => .next (s.kill q.ctx (bareFault fltUncorr))

/-- One of the agents that can move does, which one being free (log 8); with none, time only passes. -/
noncomputable def State.move (s : State) : Host.Outcome State Fault Refusal :=
  match s.agents with
  | [] => .next s
  | [a] => s.runAgent a
  | a :: l => s.runAgent ((a :: l).getD (Config.pick s.stepNo % (l.length + 1)) a)

/-- R332: the events that are commands of the mailbox, which wait while another command executes. -/
def isCommand : Instr → Bool
  | .unknownOp _ _ | .resync _ | .fwload _ | .ctxnew _ | .ctxkill _ | .xlate _ | .keyload _ | .purge _ | .trapset _
  | .save _ | .restore _ | .bpool _ | .evict _ | .share _ | .qbind _ | .qunbind _ | .nvmeqp _ | .nvmeunqp _ | .nvmeerr _
  | .cntcfg _ | .cntread _ | .cntclr _ | .cntprog _ | .cntdump _ | .trccfg _ | .dbgattach _ | .brkset _ | .step _
  | .dbgstop _ | .rplcfg _ | .pwrread _ | .pwrcap _ | .retire _ => true
  | _ => false

/-- R216, R332: whether an input must wait: a command while another executes, and the completion of a storage read
while its buffer's earlier bytes are still held. -/
def State.inputWaits (s : State) (i : Instr) : Bool :=
  match i with
  | .storageComplete op _ _ => s.storageWaits op
  | _ => isCommand i && s.mbox.run

/-- The next input of the outside, unless it must wait (log 5). -/
def State.nextInput (s : State) : Option (Instr × List Instr) :=
  match s.inputs with
  | [] => none
  | i :: r => if s.inputWaits i then none else some (i, r)

/-- R243, R307: what a step has written is seen by every thread that sleeps and every head that waits. -/
def State.settled (s : State) : State := s.recheck.recheckHeads

end Sys2Proof.Machine
end

