-- ==== Sys2Proof/Machine/Step.lean ====
section
/-! DEFINITION. One step of the package, and where a word is placed so that the next step runs it. -/

namespace Sys2Proof.Machine

/-- One step: time passes; then the next input of the outside happens, or something inside moves; what that has written
is seen by those that wait for it. -/
noncomputable def step (s : State) : Host.Outcome State Fault Refusal :=
  mapNext
    (match s.tick.nextInput with
     | some (i, r) => exec i { s.tick with inputs := r }
     | none => s.tick.move)
    State.settled

/-- The context that `withFetchWord` runs in. -/
def probeCtx : Ctx :=
  { ctx := 1, owner := 1, translate := false, root := some 0x10000, cab := [], bureau := [], pools := [(0x40000000, 0x10000000)]
    trap := none, st := .running, faults := [], dbg := none, brks := [], trc := none, rpl := none, tlb := [], saved := []
    images := [] }

/-- The page tables that map the code page (R310): level 0 at 0x10000, one table of each level after it, and a
leaf for the 64 KiB page at 0. -/
def probeTables : Mem :=
  ((((Mem.put [] 0x10000 (leBytes 8 0x11001)).put 0x11000 (leBytes 8 0x12001)).put 0x12000 (leBytes 8 0x13001)).put
    0x13000 (leBytes 8 0x14001)).put 0x14000 (leBytes 8 0x20003)

/-- The crew that `withFetchWord` puts in front: a solo crew of a class 0 core. -/
def probeCrew : Crew :=
  { Crew.init with ctx := 1, maxclass := 3, mvl := BitVec.ofNat 16 (mvlOf 0 0 0) }

/-- A state in which the very next step fetches and runs the given word: in stage 3, a context whose page
tables map the code page, and one solo crew with a number of its own at its start (log 4). -/
def State.withFetchWord (s : State) (nbits w : Nat) : State :=
  { s with
    stage := 3, dieRdy := 15, live := true, inputs := [], fw := none
    crew := { probeCrew with id := s.fresh }, fresh := s.fresh + 1
    thr := { Thread.init with pc := 0x40, life := .run, csr := { Thread.init.csr with vl := 4, grant := 4 } }
    mates := [], others := [], ctxs := [probeCtx], exts := [], ops := [], msgs := [], pushes := [], tasks := [], misses := []
    launches := [], queues := [], trace := [], dramBad := [], hold := false, mbox := { s.mbox with run := false }
    dram := probeTables.put 0x20040 (leBytes 4 (w % 2 ^ nbits)) }

end Sys2Proof.Machine
end

