-- ==== Sys2Proof/Safety.lean ====
section
/-! DEFINITION. What counts as a safe run, the canonical form of every memory, and the words about states that
statements share. -/

namespace Sys2Proof.Machine

/-- A step is safe when it answers a next state: it neither stops nor meets an instruction without a
meaning. -/
def SafeStep (s : State) : Prop := ∃ t, step s = .next t

/-- The held-back changes of a task keep the canonical form of the roots of the entries they hold. -/
def WOp.memWf : WOp → Bool
  | .newRun _ e => e.roots.wf
  | _ => true

/-- The memories of a crew keep their canonical form. -/
def Crew.memWf (c : Crew) : Bool :=
  c.vregs.wf && c.cb0.wf && c.cb1.wf &&
    (match c.spec with | some sp => sp.journal.all WOp.memWf | none => true)

/-- The memories of a context keep their canonical form. -/
def Ctx.memWf (c : Ctx) : Bool :=
  (c.cab.all fun p => p.2.roots.wf) && c.saved.all fun a => a.kept.memWf

/-- The memories of the crew that a retired task keeps have their canonical form. -/
def TTask.memWf (t : TTask) : Bool := t.kept.all Crew.memWf

/-- Every memory of a state keeps its canonical form. -/
def State.memWf (s : State) : Bool :=
  s.spad.wf && s.spadTag.wf && s.acc.wf && s.accInt.wf && s.sig.wf && s.host.wf && s.dram.wf && s.capclass.wf &&
    s.dramKey.wf && s.regErrs.wf && s.slipClk.wf && s.cntRun.wf && s.crew.memWf && (s.others.all fun p => p.1.memWf) &&
    (s.exts.all fun x => x.data.wf && x.beats.wf) && s.ctxs.all Ctx.memWf && s.tasks.all TTask.memWf

end Sys2Proof.Machine

namespace Sys2Proof.Spec

open Sys2Proof.Machine

/-- R58, R210: a scalar register whose value can be read now. -/
def Readable (s : State) (o : Opd) : Prop :=
  ∃ n : Fin 56, o = .s n ∧ (n.val = 0 ∨ s.pending (s.thr.phys n.val) = false)

/-- R210, R291: a scalar register that can be written now. -/
def Writable (s : State) (o : Opd) : Prop := Readable s o ∧ s.thr.histRoom = true

/-- R45: the value of a scalar register. -/
def val (s : State) (o : Opd) : Word := s.thr.get (opdNum o)

/-- R57: the state after a jump of the thread in front to an address. -/
def jump (s : State) (a : Addr) : State := { s with thr := { s.thr with pc := a } }

end Sys2Proof.Spec
end

