-- ==== Sys2Proof/Certificates/Slice0/Obligations.lean ====
section
/-! DEFINITION. The obligations of the model: what the rules of the specification say the machine does, stated of
`exec` and `step`. The tables under `Spec` give, for a shape of instructions, operands and results as the rules
list them. -/

namespace Sys2Proof.Spec

open Sys2Proof.Machine

/-! ## Scalar integer instructions (R86, R88, R89) -/

/-- R86, R88, R89: destination, sources and result of the integer instructions of at most two sources; s0 stands
for a source that an instruction does not have. -/
def intForm : Instr → Option (Opd × Opd × Opd × (Word → Word → Word))
  | .add d a b => some (d, a, b, fun x y => x + y)
  | .sub d a b => some (d, a, b, fun x y => x - y)
  | .and d a b => some (d, a, b, fun x y => x &&& y)
  | .or d a b => some (d, a, b, fun x y => x ||| y)
  | .xor d a b => some (d, a, b, fun x y => x ^^^ y)
  | .andn d a b => some (d, a, b, fun x y => x &&& ~~~y)
  | .sll d a b => some (d, a, b, fun x y => x <<< (y.toNat % 64))
  | .srl d a b => some (d, a, b, fun x y => x >>> (y.toNat % 64))
  | .sra d a b => some (d, a, b, fun x y => x.sshiftRight (y.toNat % 64))
  | .rol d a b => some (d, a, b, fun x y => x.rotateLeft (y.toNat % 64))
  | .ror d a b => some (d, a, b, fun x y => x.rotateRight (y.toNat % 64))
  | .min d a b => some (d, a, b, fun x y => if x.toInt ≤ y.toInt then x else y)
  | .max d a b => some (d, a, b, fun x y => if x.toInt ≤ y.toInt then y else x)
  | .minu d a b => some (d, a, b, fun x y => if x.toNat ≤ y.toNat then x else y)
  | .maxu d a b => some (d, a, b, fun x y => if x.toNat ≤ y.toNat then y else x)
  | .mul d a b => some (d, a, b, fun x y => BitVec.ofNat 64 (x.toNat * y.toNat))
  | .mulh d a b => some (d, a, b, fun x y => BitVec.ofInt 64 (x.toInt * y.toInt / 2 ^ 64))
  | .mulhu d a b => some (d, a, b, fun x y => BitVec.ofNat 64 (x.toNat * y.toNat / 2 ^ 64))
  | .seq d a b => some (d, a, b, fun x y => if x = y then 1 else 0)
  | .slt d a b => some (d, a, b, fun x y => if x.toInt < y.toInt then 1 else 0)
  | .sltu d a b => some (d, a, b, fun x y => if x.toNat < y.toNat then 1 else 0)
  | .sle d a b => some (d, a, b, fun x y => if x.toInt ≤ y.toInt then 1 else 0)
  | .sleu d a b => some (d, a, b, fun x y => if x.toNat ≤ y.toNat then 1 else 0)
  | .clz d a => some (d, a, .s 0, fun x _ => clz64 x)
  | .ctz d a => some (d, a, .s 0, fun x _ => ctz64 x)
  | .popc d a => some (d, a, .s 0, fun x _ => popc64 x)
  | .addImm d a i => some (d, a, .s 0, fun x _ => x + i.signExtend 64)
  | .andImm d a i => some (d, a, .s 0, fun x _ => x &&& i.signExtend 64)
  | .orImm d a i => some (d, a, .s 0, fun x _ => x ||| i.signExtend 64)
  | .xorImm d a i => some (d, a, .s 0, fun x _ => x ^^^ i.signExtend 64)
  | .sllImm d a k => some (d, a, .s 0, fun x _ => x <<< k.toNat)
  | .srlImm d a k => some (d, a, .s 0, fun x _ => x >>> k.toNat)
  | .sraImm d a k => some (d, a, .s 0, fun x _ => x.sshiftRight k.toNat)
  | .rolImm d a k => some (d, a, .s 0, fun x _ => x.rotateLeft k.toNat)
  | .sltImm d a i => some (d, a, .s 0, fun x _ => if x.toInt < (i.signExtend 64).toInt then 1 else 0)
  | .sltuImm d a i => some (d, a, .s 0, fun x _ => if x.toNat < (i.signExtend 64).toNat then 1 else 0)
  | .limm d i => some (d, .s 0, .s 0, fun _ _ => i.signExtend 64)
  | .lhi d i => some (d, d, .s 0, fun x _ => (x <<< 18) ||| i.setWidth 64)
  | _ => none

/-! ## Scalar instructions that raise flags (R87, R90-R92) -/

/-- R87, R90-R92: destination, sources, and the result and flags under the rounding mode, of the division,
floating-point, compare and conversion instructions of at most two sources. -/
def flagForm : Instr → Option (Opd × Opd × Opd × (Rm → Word → Word → Word × FF))
  | .div d a b => some (d, a, b, fun _ x y => if y = 0 then (-1, fDZ) else (BitVec.ofInt 64 (x.toInt.tdiv y.toInt), 0))
  | .divu d a b => some (d, a, b, fun _ x y => if y = 0 then (-1, fDZ) else (BitVec.ofNat 64 (x.toNat / y.toNat), 0))
  | .rem d a b => some (d, a, b, fun _ x y => if y = 0 then (x, fDZ) else (BitVec.ofInt 64 (x.toInt.tmod y.toInt), 0))
  | .remu d a b => some (d, a, b, fun _ x y => if y = 0 then (x, fDZ) else (BitVec.ofNat 64 (x.toNat % y.toNat), 0))
  | .faddF64 d a b => some (d, a, b, fun rm x y => out (fmt64.add rm x.toNat y.toNat))
  | .fsubF64 d a b => some (d, a, b, fun rm x y => out (fmt64.sub rm x.toNat y.toNat))
  | .fmulF64 d a b => some (d, a, b, fun rm x y => out (fmt64.mul rm x.toNat y.toNat))
  | .fdivF64 d a b => some (d, a, b, fun rm x y => out (fmt64.div rm x.toNat y.toNat))
  | .fminF64 d a b => some (d, a, b, fun _ x y => out (fmt64.minmax false x.toNat y.toNat))
  | .fmaxF64 d a b => some (d, a, b, fun _ x y => out (fmt64.minmax true x.toNat y.toNat))
  | .fsqrtF64 d a => some (d, a, .s 0, fun rm x _ => out (fmt64.sqrt rm x.toNat))
  | .fclassF64 d a => some (d, a, .s 0, fun _ x _ => (BitVec.ofNat 64 (fmt64.fclass x.toNat), 0))
  | .faddF32 d a b => some (d, a, b, fun rm x y => out (fmt32.add rm (low x) (low y)))
  | .fsubF32 d a b => some (d, a, b, fun rm x y => out (fmt32.sub rm (low x) (low y)))
  | .fmulF32 d a b => some (d, a, b, fun rm x y => out (fmt32.mul rm (low x) (low y)))
  | .fdivF32 d a b => some (d, a, b, fun rm x y => out (fmt32.div rm (low x) (low y)))
  | .fminF32 d a b => some (d, a, b, fun _ x y => out (fmt32.minmax false (low x) (low y)))
  | .fmaxF32 d a b => some (d, a, b, fun _ x y => out (fmt32.minmax true (low x) (low y)))
  | .fsqrtF32 d a => some (d, a, .s 0, fun rm x _ => out (fmt32.sqrt rm (low x)))
  | .fclassF32 d a => some (d, a, .s 0, fun _ x _ => (BitVec.ofNat 64 (fmt32.fclass (low x)), 0))
  | .fcmpEq d a b .f64 => some (d, a, b, fun _ x y => (truth (fmt64.eq x.toNat y.toNat), 0))
  | .fcmpEq d a b .f32 => some (d, a, b, fun _ x y => (truth (fmt32.eq (low x) (low y)), 0))
  | .fcmpLt d a b .f64 => some (d, a, b, fun _ x y => ordered (fmt64.less false x.toNat y.toNat))
  | .fcmpLt d a b .f32 => some (d, a, b, fun _ x y => ordered (fmt32.less false (low x) (low y)))
  | .fcmpLe d a b .f64 => some (d, a, b, fun _ x y => ordered (fmt64.less true x.toNat y.toNat))
  | .fcmpLe d a b .f32 => some (d, a, b, fun _ x y => ordered (fmt32.less true (low x) (low y)))
  | .fcmpUnord d a b .f64 => some (d, a, b, fun _ x y =>
      (truth ((fmt64.decode x.toNat).isNan || (fmt64.decode y.toNat).isNan), 0))
  | .fcmpUnord d a b .f32 => some (d, a, b, fun _ x y =>
      (truth ((fmt32.decode (low x)).isNan || (fmt32.decode (low y)).isNan), 0))
  | .fcvtF64F32 d a => some (d, a, .s 0, fun rm x _ => out (fmt64.convert rm false (fmt32.decode (low x))))
  | .fcvtF32F64 d a => some (d, a, .s 0, fun rm x _ => out (fmt32.convert rm false (fmt64.decode x.toNat)))
  | .fcvtF64I64 d a => some (d, a, .s 0, fun rm x _ => out (fmt64.convert rm false (FVal.ofInt x.toInt)))
  | .fcvtF64B64 d a => some (d, a, .s 0, fun rm x _ => out (fmt64.convert rm false (FVal.ofInt x.toNat)))
  | .fcvtF32I64 d a => some (d, a, .s 0, fun rm x _ => out (fmt32.convert rm false (FVal.ofInt x.toInt)))
  | .fcvtF32B64 d a => some (d, a, .s 0, fun rm x _ => out (fmt32.convert rm false (FVal.ofInt x.toNat)))
  | .fcvtI64F64 d a => some (d, a, .s 0, fun rm x _ => out (toInteger rm 64 true (fmt64.decode x.toNat)))
  | .fcvtB64F64 d a => some (d, a, .s 0, fun rm x _ => out (toInteger rm 64 false (fmt64.decode x.toNat)))
  | .fcvtI64F32 d a => some (d, a, .s 0, fun rm x _ => out (toInteger rm 64 true (fmt32.decode (low x))))
  | .fcvtB64F32 d a => some (d, a, .s 0, fun rm x _ => out (toInteger rm 64 false (fmt32.decode (low x))))
  | _ => none
where
  /-- A result and its flags, zero-extended (R90). -/
  out (r : FRes) : Word × FF := (BitVec.ofNat 64 r.bits, r.fl)
  /-- Bits 31:0 (R90). -/
  low (x : Word) : Nat := x.toNat % 2 ^ 32
  /-- A truth value. -/
  truth (b : Bool) : Word := if b then 1 else 0
  /-- A comparison that raises NV (R91). -/
  ordered (r : Bool × FF) : Word × FF := (truth r.1, r.2)

/-! ## Branches (R93) -/

/-- R93: registers, offset and condition of the compare branches. -/
def branchForm : Instr → Option (BitVec 6 × Opd × BitVec 11 × (Word → Word → Bool))
  | .beq r a i => some (r, a, i, fun x y => decide (x = y))
  | .bne r a i => some (r, a, i, fun x y => decide (x ≠ y))
  | .blt r a i => some (r, a, i, fun x y => decide (x.toInt < y.toInt))
  | .bge r a i => some (r, a, i, fun x y => decide (y.toInt ≤ x.toInt))
  | .bltu r a i => some (r, a, i, fun x y => decide (x.toNat < y.toNat))
  | .bgeu r a i => some (r, a, i, fun x y => decide (y.toNat ≤ x.toNat))
  | _ => none

/-- R94: predicate, offset and tested value of the predicate branches. -/
def predForm : Instr → Option (BitVec 3 × BitVec 18 × BitVec 2)
  | .bpT p i => some (p, i, 1)
  | .bpF p i => some (p, i, 0)
  | .bpU p i => some (p, i, 2)
  | _ => none

/-! ## Control registers and strips (R53-R55, R96-R100) -/

/-- R55, R75: S as the thread in front reads it: the crew's, which in a trio the computer holds. -/
def seedS (s : State) : BitVec 32 :=
  if s.crew.trio then
    match (s.thr :: s.mates).find? fun u => u.role == .computer with
    | some u => u.seed
    | none => s.thr.seed
  else s.thr.seed

/-- R55: the word that each control register reads as, its fields at their places. -/
def creg (s : State) (n : Nat) : Word :=
  let t := s.thr
  let c := s.crew
  BitVec.ofNat 64 (match n with
    | 0 => t.csr.vl.toNat
    | 1 => c.mvl.toNat * t.lgCnt.toNat / 16 * 2 ^ 32 + c.crews.toNat * 2 ^ 25 + (if c.trio then 2 ^ 24 else 0) +
        c.stn.toNat * 2 ^ 16 + c.ldn.toNat * 2 ^ 8 + c.count.toNat
    | 2 => t.scaleSz.toNat * 2 ^ 20 + t.scaleLen.toNat
    | 3 => t.csr.sdesc.toNat
    | 4 => t.csr.wb.toNat
    | 5 => t.fflags.toNat
    | 6 => t.csr.frm.toNat
    | 7 => t.iflags.toNat
    | 8 => t.csr.icfg.toNat
    | 9 => (seedS s).toNat * 2 ^ 32 + (if c.la then 1 else 0)
    | 10 => (match t.vq with
        | [] => t.pc.toNat
        | e :: _ => t.vq.length % 128 * 2 ^ 56 + e.pc.toNat)
    | 11 => if c.prq then 1 else 0
    | 12 => c.ddl.toNat
    | 13 => s.owner.toNat * 2 ^ 16 + c.ctx.toNat
    | 14 => (s.capOf c.coreIx).toNat * 2 ^ 16 + s.pkg.toNat * 2 ^ 7 + c.coreIx / 32 * 2 ^ 5 + c.coreIx % 32
    | 15 => t.lgCnt.toNat * 2 ^ 9 + t.lgBase.toNat * 2 ^ 5 + t.depth.toNat * 2 ^ 3 + c.slot.toNat
    | 16 => (match t.role with | .solo => 0 | .loader => 1 | .computer => 2 | .storer => 3)
    | 17 => c.prM.toNat * 2 ^ 8 + c.prN.toNat
    | 18 => (if c.pend then 2 else 0) + (if c.act then 1 else 0)
    | 19 => if s.translating then 1 else 0
    | _ => s.clk)

/-- R50, R53, R54, R55: the fault of a cwr that its register number alone decides. -/
def cwrFault (s : State) (n : Nat) : Option Code :=
  if 20 < n then some fltIllegal
  else if n = 1 ∧ (s.crew.trio = true ∨ s.unforked = false) then some fltCrewMode
  else if (n = 9 ∨ n = 17 ∨ n = 18) ∧ s.crew.trio = true ∧ s.thr.role ≠ .computer then some fltCrewMode
  else if n = 19 ∧ s.crew.priv = false then some fltPriv
  else none

/-- R50, R55: whether a value is in range for a control register. -/
def cregFits (s : State) (n : Nat) (x : Word) : Prop :=
  match n with
  | 0 => x.toNat % 2 ^ 18 ≤ s.thr.csr.grant.toNat
  | 1 => x.toNat / 2 ^ 8 % 2 ^ 7 = 0 ∧ x.toNat / 2 ^ 16 % 2 ^ 7 = 0
  | 4 => x.toNat % 2 ^ 5 ≤ 27
  | 6 => x.toNat % 2 ^ 3 ≤ 4
  | 9 => x.toNat / 2 ^ 32 ≠ 0
  | _ => True

/-- R85: the state once the control registers of the thread in front are replaced, the old ones recorded. -/
def putCsr (s : State) (c : Csrs) : State :=
  { s with thr := { s.thr.record (.csr s.thr.csr) with csr := c } }

/-- R50, R55, R315: the state once a value in range is written to a control register, field by field; what a late
fault must take back is recorded. -/
def cregWrite (s : State) (n : Nat) (x : Word) : State :=
  let c := s.thr.csr
  match n with
  | 0 => { s with thr := { s.thr.record (.vlw c) with csr := { c with vl := x.setWidth 18 } } }
  | 1 =>
    let mvl := mvlOf (s.capOf s.crew.coreIx) s.crew.crews (x.extractLsb' 0 2)
    { s with
      crew := { s.crew with count := x.extractLsb' 0 2, mvl := BitVec.ofNat 16 mvl, vregs := [], poison := [] }
      thr := { s.thr with
        scaleLen := 0, need := 0
        csr := { c with vl := BitVec.ofNat 18 (Nat.min c.vl.toNat (mvl * 4 / c.gsz)) } } }
  | 3 => putCsr s { c with sdesc := x.setWidth 10 }
  | 4 => putCsr s { c with wb := x.setWidth 5 }
  | 5 => { s with thr := { s.thr with fflags := s.thr.fflags &&& ~~~x.setWidth 7 } }
  | 6 => putCsr s { c with frm := x.setWidth 5 &&& 0b10111 }
  | 7 => { s with thr := { s.thr with iflags := s.thr.iflags &&& ~~~x.setWidth 3 } }
  | 8 => putCsr s { c with icfg := x.setWidth 8 }
  | 9 => { s with
      thr := { s.thr.record (.la s.crew.la) with seed := x.extractLsb' 32 32 }
      crew := { s.crew with la := x.getLsbD 0 } }
  | 17 => { s with
      thr := s.thr.record (.prcfg s.crew.prM s.crew.prN)
      crew := { s.crew with prM := x.extractLsb' 8 5, prN := x.extractLsb' 0 5 } }
  | 18 => { s with thr := s.thr.record (.act s.crew.act), crew := { s.crew with act := x.getLsbD 0 } }
  | 19 => s.modCtx s.crew.ctx fun d => { d with translate := x.getLsbD 0 }
  | _ => s

/-- R85, R291: an instruction completes with t where the writes recorded in it find room in the history buffer, and
waits where they do not. -/
def Kept (i : Instr) (s t : State) : Prop :=
  (t.thr.histSpace 0 = true → exec i s = .next t) ∧ (t.thr.histSpace 0 = false → exec i s = .next (s.mark .history))

/-- A scalar register by its number. -/
def reg (n : Nat) : Opd := .s (Fin.ofNat 56 n)

/-- R99: the strip pointers p to p + n moved on by vl elements of their sizes, lowest first. -/
def bumped (s : State) (p n vl : Nat) : State :=
  if p = 0 then s
  else (List.range (n + 1)).foldl (fun (s' : State) k =>
    s'.put (reg (p + k)) (val s' (reg (p + k)) + BitVec.ofNat 64 (vl * s.thr.csr.esz k))) s

/-- R29, R99: the state once the strip of the thread in front is consumed. -/
def consumed (s : State) : State :=
  { s with
    crew := { s.crew with consumed := if s.thr.role = .loader then s.crew.consumed ++ [s.thr.csr.vl] else s.crew.consumed }
    thr := { s.thr.record (.strip s.thr.needVl) with strips := s.thr.strips + 1, interval := s.thr.interval + 1 } }

/-- R99: the vl and current grant that a strip with elements left takes: the next grant, or in a computer or
storer the length that its loader will have consumed. -/
def granted (s : State) (left : Nat) : State :=
  if s.thr.role = .computer ∨ s.thr.role = .storer then { s with thr := { s.thr with needVl := true } }
  else
    let g := BitVec.ofNat 18 (grantOf s.throt s.mvl left s.thr.csr.gsz)
    putCsr s { s.thr.csr with vl := g, grant := g }

/-- R99: vl is settled: no queued instruction may lower it, and none is awaited from the loader. -/
def VlSettled (s : State) : Prop := s.thr.needVl = false ∧ s.thr.vq.all fun e => !e.ins.truncates

/-- R37, R63: nothing stands before a fault found at issue. -/
def Due (s : State) : Prop := s.thr.vq = [] ∧ s.thr.held = none ∧ s.crew.speculating = false

/-! ## Scalar memory (R237-R241) -/

/-- R240, R247, R254: nothing keeps a scalar access of the thread in front waiting: no store is held back, and every
vector memory instruction before its last fence.vs has committed and performed. -/
def ScalarFree (s : State) : Prop :=
  s.thr.held = none ∧ (∀ e ∈ s.thr.vq, s.thr.vsFence < e.seq ∨ e.ins.isMem = false) ∧
  ∀ u ∈ s.thr.unperf, s.thr.vsFence < u.seq

/-- No debugger watches the context in front (R348). -/
def Unwatched (s : State) : Prop := ∀ c, s.ctxOf s.crew.ctx = some c → c.dbg = none

/-- R114, R215, R237-R239, R241: n bytes at a scalar address of this package that an access of the kind may use
now: an aligned scratchpad range in no buffer that forbids it, a signal word (of the context's own lines for all
but loads), or host memory where neither the IOMMU refuses it nor PCIe has an error. -/
def Reachable (s : State) (k : AccKind) (a : Word) (n : Nat) : Prop :=
  a.toNat % n = 0 ∧
  ((a.toNat < 2 ^ 22 ∧ a.toNat + n ≤ 0x300000 ∧
      s.bufBad s.crew.coreIx s.crew.ctx a.toNat n (k == .store) = none) ∨
   (a.toNat / 2 ^ 32 = 2 ^ 30 ∧ a.extractLsb' 23 9 = s.pkg ∧ (k = .load ∨ s.sigMine s.owner a = true)) ∨
   (a.toNat / 2 ^ 56 = 2 ^ 7 ∧ s.hostBad a n = false ∧ s.thr.vq = [] ∧ s.crew.speculating = false))

/-- R237, R331: where a host address lies: each context has an address space of its own (log 71). -/
def hostPlace (s : State) (a : Word) : Nat := (s.crew.ctx.toNat + 1) * 2 ^ 56 + a.toNat % 2 ^ 56

/-- R115, R237, R238: the value of n bytes at a scalar address of this package: a scratchpad line of another tag
and a signal line of another owner read as zero. -/
def seen (s : State) (a : Word) (n : Nat) : Nat :=
  if a.toNat / 2 ^ 62 = 0 then leNat (s.spadBytes s.crew.coreIx s.owner a.toNat n)
  else if a.toNat / 2 ^ 62 = 1 then (if s.sigMine s.owner a then leNat (s.sig.bytes (a.toNat % 2 ^ 23) n) else 0)
  else leNat (s.host.bytes (hostPlace s a) n)

/-- R237, R238, R313: the state once bytes are stored at a scalar address of this package. -/
def stored (s : State) (a : Word) (bs : List Byte) : State :=
  if a.toNat / 2 ^ 62 = 0 then s.spadPut s.crew.coreIx s.owner a.toNat bs
  else if a.toNat / 2 ^ 62 = 1 then { s with sig := s.sig.put (a.toNat % 2 ^ 23) bs }
  else { s with host := s.host.put (hostPlace s a) bs }

/-- R238, R339: an access to a signal word counts at its octet's slice: 0 a read, 1 a write, 2 an atomic. -/
def sigUse (s : State) (a : Word) (k : Nat) : State :=
  if a.toNat / 2 ^ 62 = 1 then s.countDie (a.extractLsb' 21 2) (16 * (a.extractLsb' 19 2).toNat + k) else s

/-- R239: the bytes of a load and what it makes of them. -/
def loadForm : LdSize → Nat × (Nat → Word)
  | .b => (1, fun v => (BitVec.ofNat 8 v).signExtend 64)
  | .h => (2, fun v => (BitVec.ofNat 16 v).signExtend 64)
  | .w => (4, fun v => (BitVec.ofNat 32 v).signExtend 64)
  | .d => (8, fun v => BitVec.ofNat 64 v)
  | .bu => (1, fun v => BitVec.ofNat 64 v)
  | .hu => (2, fun v => BitVec.ofNat 64 v)
  | .wu => (4, fun v => BitVec.ofNat 64 v)

/-- R239: the bytes of a store. -/
def storeLen : StSize → Nat
  | .b => 1 | .h => 2 | .w => 4 | .d => 8

/-- R241: operands, size and update of an atomic at the width of its word: what the old word, s(b) and s(d) make
of it; none where it stays. -/
def atomicForm {w : Nat} : Instr → Option (Opd × Opd × Opd × WordSize × (BitVec w → BitVec w → BitVec w → Option (BitVec w)))
  | .amoAdd d a b z => some (d, a, b, z, fun o y _ => some (o + y))
  | .amoAnd d a b z => some (d, a, b, z, fun o y _ => some (o &&& y))
  | .amoOr d a b z => some (d, a, b, z, fun o y _ => some (o ||| y))
  | .amoXor d a b z => some (d, a, b, z, fun o y _ => some (o ^^^ y))
  | .amoMin d a b z => some (d, a, b, z, fun o y _ => some (if y.toInt < o.toInt then y else o))
  | .amoMax d a b z => some (d, a, b, z, fun o y _ => some (if o.toInt < y.toInt then y else o))
  | .amoSwap d a b z => some (d, a, b, z, fun _ y _ => some y)
  | .cas d a b z => some (d, a, b, z, fun o y e => if o = e then some y else none)
  | .binc d a b => some (d, a, b, .d, fun o y _ => if o.toNat < y.toNat then some (o + 1) else none)
  | _ => none

/-- R241: the atomics that host memory has. -/
def hostAtomic : Instr → Bool
  | .amoAdd _ _ _ _ | .amoSwap _ _ _ _ | .cas _ _ _ _ => true
  | _ => false

/-- R239, R241, R243: the address, size and kind of a scalar access. -/
def accessOf (s : State) : Instr → Option (Opd × Word × Nat × AccKind)
  | .ld _ a x z => some (a, val s a + x.signExtend 64 * BitVec.ofNat 64 (loadForm z).1, (loadForm z).1, .load)
  | .st _ a x z => some (a, val s a + x.signExtend 64 * BitVec.ofNat 64 (storeLen z), storeLen z, .store)
  | .amoAdd _ a _ z => some (a, val s a, if z = .w then 4 else 8, .atomic)
  | .amoAnd _ a _ z => some (a, val s a, if z = .w then 4 else 8, .atomic)
  | .amoOr _ a _ z => some (a, val s a, if z = .w then 4 else 8, .atomic)
  | .amoXor _ a _ z => some (a, val s a, if z = .w then 4 else 8, .atomic)
  | .amoMin _ a _ z => some (a, val s a, if z = .w then 4 else 8, .atomic)
  | .amoMax _ a _ z => some (a, val s a, if z = .w then 4 else 8, .atomic)
  | .amoSwap _ a _ z => some (a, val s a, if z = .w then 4 else 8, .atomic)
  | .cas _ a _ z => some (a, val s a, if z = .w then 4 else 8, .atomic)
  | .binc _ a _ => some (a, val s a, 8, .atomic)
  | .waitc _ a _ => some (a, val s a, 8, .atomic)
  | _ => none

/-- The registers that a scalar access reads besides its address. -/
def accessReads : Instr → List Opd
  | .ld _ _ _ _ => []
  | .st d _ _ _ => [d]
  | .amoAdd _ _ b _ | .amoAnd _ _ b _ | .amoOr _ _ b _ | .amoXor _ _ b _ | .amoMin _ _ b _ | .amoMax _ _ b _
  | .amoSwap _ _ b _ | .binc _ _ b | .waitc _ _ b => [b]
  | .cas d _ b _ => [d, b]
  | _ => []

/-- R244: the word whose bit i is set where entry i holds. -/
def maskWord (l : List Bool) : Word := BitVec.ofNat 64 ((l.zipIdx.map fun p => if p.1 then 2 ^ p.2 else 0).sum)

/-! ## Vector instructions (R54, R58, R98, R103-R120, R189-R196, R208)

A vector instruction is described by its operands and limits (`vShape`), by what it requires besides
(`VGood`) and by what it makes of the state in which it commits, with the values it captured at entry
(`vOut`). -/

/-- One register written: vl or packed elements of a size, none where the old value stays; the count of the ring
entry it makes instead, `unit` bytes for `per` elements; and the length that SCALE_LEN takes when the register is v1
(R49). -/
structure VWrite where
  dst : Opd
  size : Nat
  vals : List (Option Nat)
  count : Nat
  len : Nat
  unit : Nat := size
  per : Nat := 1

/-- What a vector instruction changes: registers or rings written, a scalar result, flags, and what it does to
memory or to an accumulator. -/
structure VOut where
  writes : List VWrite := []
  val : Option Word := none
  fl : FF := 0
  fi : BitVec 3 := 0
  fin : State → State := id

/-- R103: whole elements written to a destination. -/
def whole (d : Opd) (size : Nat) (vals : List (Option Nat)) : VWrite :=
  { dst := d, size := size, vals := vals, count := vals.length, len := vals.length }

/-- R48: v0's bits for a masked instruction, all true for another. -/
def active (e : VEntry) (s : State) (m : Bool) : List Bool :=
  if m then Machine.bitsOf e.vl (s.vBytes 0 ((e.vl + 31) / 32 * 4)) else List.replicate e.vl true

/-- R58, R59, R103, R104: n elements of a source: the broadcast scalar captured from b, a vector register, or the
oldest entry of a ring. -/
def elems (e : VEntry) (s : State) (o : Opd) (size n : Nat) : List Nat :=
  match o with
  | .s _ => List.replicate n (e.sB.toNat % 2 ^ (8 * size))
  | .v r => elemsOf size n (s.vBytes r.val (n * size))
  | .ring k =>
    if e.vl = 0 then []
    else
      match s.crew.rings[k] with
      | r :: _ => elemsOf size n (s.entryBytes r (n * size))
      | [] => []

/-- R74, R75: the rounding of element i. -/
def rmOfElem (e : VEntry) (s : State) (step : Bool) (i : Nat) : Rm :=
  if step ∧ e.frm.toNat % 8 = 4 ∧ (s.thr.role = .solo ∨ s.thr.role = .computer) then .sr (srDraw e.seed i) else rmOf e.frm

/-- R82, R103: an element-wise instruction: in each active element, f of the sources' elements. -/
def lift (e : VEntry) (s : State) (m : Bool) (d : Opd) (ds : Nat) (srcs : List (Opd × Nat)) (step : Bool)
    (f : Nat → Rm → List Nat → Nat × FF) : VOut :=
  let res := (List.range e.vl).map fun i =>
    if (active e s m).getD i false then
      some (f i (rmOfElem e s step i) (srcs.map fun p => (elems e s p.1 p.2 e.vl).getD i 0))
    else none
  { writes := [whole d ds (res.map fun r => r.map Prod.fst)]
    fl := orFlags (res.map fun r => match r with | some p => p.2 | none => 0) }

/-- R106: an operation of float or integer elements. -/
def num (t : ElemTy) (ff : Fmt → Rm → Nat → Nat → FRes) (fi : Nat → Nat → Nat → Nat × FF) (rm : Rm) (c : List Nat) :
    Nat × FF :=
  match elFmt t with
  | some f => ((ff f rm (c.getD 0 0) (c.getD 1 0)).bits, (ff f rm (c.getD 0 0) (c.getD 1 0)).fl)
  | none => fi (elSize t) (c.getD 0 0) (c.getD 1 0)

/-- R107: an operation of the bits of two elements. -/
def bits2 (f : Nat → Nat → Nat) (c : List Nat) : Nat × FF := (f (c.getD 0 0) (c.getD 1 0), 0)

/-- R108: a compare: bit i of d's first vl bits says whether active element i holds, the rest of their last word
being 0. -/
def compare (e : VEntry) (s : State) (m : Bool) (d a b : Opd) (size : Nat) (f : Nat → Nat → Bool × FF) : VOut :=
  let res := (List.range e.vl).map fun i =>
    if (active e s m).getD i false then f ((elems e s a size e.vl).getD i 0) ((elems e s b size e.vl).getD i 0)
    else (false, 0)
  let word (k : Nat) : Nat := (List.range 32).foldl (fun v i => if (res.getD (32 * k + i) (false, 0)).1 then v + 2 ^ i else v) 0
  { writes := [whole d 4 ((List.range ((e.vl + 31) / 32)).map fun k => some (word k))]
    fl := orFlags (res.map Prod.snd) }

/-- R111: the elements of a, none where masked off. -/
def picked (e : VEntry) (s : State) (m : Bool) (a : Opd) (size : Nat) : List (Option Nat) :=
  (List.range e.vl).map fun i =>
    if (active e s m).getD i false then some ((elems e s a size e.vl).getD i 0) else none

/-- R111: a reduction to a scalar. -/
def reduce (e : VEntry) (s : State) (o : RedOp) (m : Bool) (a : Opd) (t : ElemTy) : VOut :=
  if isFl t then
    let r := redFloatResult o t (redBlock s e t) (if o = .add ∧ e.la then some e.sD else none) (picked e s m a (elSize t))
    { val := some r.1, fl := r.2 }
  else { val := some (redIntResult o (elSize t) (picked e s m a (elSize t))) }

/-- R111: a scan. -/
def scan (e : VEntry) (s : State) (o : RedOp) (m : Bool) (d a : Opd) (t : ElemTy) : VOut :=
  let l := picked e s m a (elSize t)
  let res : List (Option (Nat × FF)) :=
    if isFl t then scanFloat o t (redBlock s e t) (rmOf e.frm) l
    else (List.range e.vl).map fun i => match l.getD i none with
      | none => none
      | some _ => (foldActive (redInt o (elSize t)) (l.take (i + 1))).map fun v => (v, 0)
  { writes := [whole d (elSize t) (res.map fun r => r.map Prod.fst)]
    fl := orFlags (res.map fun r => match r with | some p => p.2 | none => 0) }

/-- R112: elements placed by position, none where d keeps its own. -/
def placed (d : Opd) (size : Nat) (vals : List (Option Nat)) : VOut := { writes := [whole d size vals] }

/-- The active positions of values. -/
def masked (e : VEntry) (s : State) (m : Bool) (f : Nat → Nat) : List (Option Nat) :=
  (List.range e.vl).map fun i => if (active e s m).getD i false then some (f i) else none

/-- R112: the bits of a mask operand. -/
def maskIn (e : VEntry) (s : State) (a : Opd) : List Bool :=
  Machine.bitsOf e.vl (bytesOfElems 4 (elems e s a 4 ((e.vl + 31) / 32)))

/-- R110, R196: a destination of packed bytes, `unit` for `per` elements. -/
def packed (e : VEntry) (d : Opd) (bs : List Nat) (unit : Nat := 1) (per : Nat := 2) : VWrite :=
  { dst := d, size := 1, vals := bs.map some, count := e.vl, len := bs.length, unit := unit, per := per }

/-- R196: scale code of the block of element i. -/
def scaleOf (s : State) (e : VEntry) (i : Nat) : Nat := (elemsOf 1 (scaleCount e.vl) (s.vBytes 1 (scaleCount e.vl))).getD (i / 32) 0

/-- R196: the results of a scaled conversion. -/
def scaled (e : VEntry) (s : State) (m : Bool) (f : Nat → Nat × FF) : List (Option (Nat × FF)) :=
  (List.range e.vl).map fun i => if (active e s m).getD i false then some (f i) else none

/-- R59: a scalar interval broadcast to f32 elements: the lower bound rounded down, the upper bound up; an empty one
stays empty. -/
def ivDown (v : Ival) : Bool × IvV :=
  match ivRead fmt64 v.lo.toNat v.hi.toNat with
  | (false, none) => (false, none)
  | _ => ivRead fmt32 (fmt32.convert .rdn false (fmt64.decode v.lo.toNat)).bits
      (fmt32.convert .rup false (fmt64.decode v.hi.toNat)).bits

/-- R197, R208: the intervals of a pair, or the broadcast one. -/
def pairs (e : VEntry) (s : State) (o : Opd) : List (Bool × IvV) :=
  match o with
  | .s _ => List.replicate e.vl (ivDown e.ivB)
  | _ => (List.zip (elems e s o 4 e.vl) (elems e s (nextReg o) 4 e.vl)).map fun p => ivRead fmt32 p.1 p.2

/-- R208: intervals written to a pair. -/
def pairOut (o : Opd) (vals : List (Option IvV)) : List VWrite :=
  let codes := vals.map fun v => v.map (ivCodes fmt32)
  [whole o 4 (codes.map fun c => c.map Prod.fst), whole (nextReg o) 4 (codes.map fun c => c.map Prod.snd)]

/-- R201, R208: a forward operation on pairs. -/
def forwardV (e : VEntry) (s : State) (op : IvV → IvV → IvV) (m : Bool) (d a b : Opd) : VOut :=
  let res : List (Option (IvV × BitVec 3)) := (List.range e.vl).map fun i =>
    if (active e s m).getD i false then
      let x := (pairs e s a).getD i (false, none)
      let y := (pairs e s b).getD i (false, none)
      let bad := x.1 || y.1
      let r := if bad then none else op x.2 y.2
      some (r, ivFlags bad (x.2.isNone || y.2.isNone) r)
    else none
  { writes := pairOut d (res.map fun r => r.map Prod.fst)
    fi := orI (res.map fun r => match r with | some p => p.2 | none => 0) }

/-- R203-R205, R208: a contractor on pairs: every pair it names is written, a broadcast interval is not. -/
def contractV (e : VEntry) (s : State) (x : Contract) (m : Bool) (d a b : Opd) : VOut :=
  let wr := ([opdNum d, opdNum a] ++ (if isScalar b then [] else [opdNum b])).eraseDups
  let res : List (Option (IvEnv × BitVec 3)) := (List.range e.vl).map fun i =>
    if (active e s m).getD i false then
      let c := (pairs e s d).getD i (false, none)
      let p := (pairs e s a).getD i (false, none)
      let q := (pairs e s b).getD i (false, none)
      let env : IvEnv := kvSet (kvSet [(opdNum d, c.2)] (opdNum a) p.2) (opdNum b) q.2
      some (contractOut fmt32 x e.icfg.toNat (opdNum d) (opdNum a) (opdNum b) wr (c.1 || p.1 || q.1) env)
    else none
  let out (o : Opd) : List VWrite := pairOut o (res.map fun r => r.map fun p => IvEnv.at_ p.1 (opdNum o))
  { writes := out d ++ out a ++ (if isScalar b then [] else out b)
    fi := orI (res.map fun r => match r with | some p => p.2 | none => 0) }

/-- R115, R116, R119: the bytes of the active elements of a scratchpad store, each at its address. -/
def storeCells (e : VEntry) (s : State) (m : Bool) (d : Opd) (size : Nat) (addr : Nat → Nat) : List (Nat × List Byte) :=
  (List.range e.vl).filterMap fun i =>
    if (active e s m).getD i false then some (addr i, leBytes size ((elems e s d size e.vl).getD i 0)) else none

/-- R114, R116, R119: the address of element i of a scratchpad access. -/
def elemAddr (e : VEntry) (s : State) (i : Nat) : Nat :=
  match e.ins with
  | .ins (.vlds _ _ _ _ _) | .ins (.vsts _ _ _ _ _) => (e.sA + BitVec.ofInt 64 (i * e.sB.toInt)).toNat
  | .ins (.vgaths _ _ b _ _) | .ins (.vscats _ _ b _ _) => (e.sA + BitVec.ofNat 64 ((elems e s b 4 e.vl).getD i 0)).toNat
  | .ins (.vld _ _ _ _ t) | .ins (.vldff _ _ _ _ t) | .ins (.vst _ _ _ _ t) => e.sA.toNat + i * elSize t
  | _ => 0

/-- R115: a scratchpad load. -/
def loadOut (e : VEntry) (s : State) (m : Bool) (d : Opd) (size : Nat) : VOut :=
  placed d size (masked e s m fun i => leNat (s.spadBytes s.crew.coreIx s.owner (elemAddr e s i) size))

/-- R115: a scratchpad store. -/
def storeOut (e : VEntry) (s : State) (m : Bool) (d : Opd) (size : Nat) : VOut :=
  { fin := fun s' => s'.storeSpad e (storeCells e s m d size (elemAddr e s)) }

/-- Operands, limits and stepping of the vector instructions (R58, R75, R103-R120, R184-R196, R208). -/
def vShape : Instr → Option VShape
  | .vadd d a b _ t | .vsub d a b _ t | .vmul d a b _ t | .vdiv d a b _ t =>
    some (VShape.withB { srcs := [a], dst := some d, size := elSize t, step := isFl t } b)
  | .vmin d a b _ t | .vmax d a b _ t => some (VShape.withB { srcs := [a], dst := some d, size := elSize t } b)
  | .vfma d a b _ t => some (VShape.withB { srcs := [a], vdst := [d], size := elSize t, step := isFl t } b)
  | .vabs d a _ t | .vneg d a _ t => some { srcs := [a], dst := some d, size := elSize t }
  | .vsqrt d a _ t => some { srcs := [a], dst := some d, size := elSize t, step := true }
  | .vcmpeq d a b _ t | .vcmplt d a b _ t | .vcmple d a b _ t =>
    some (VShape.withB { srcs := [a], vdst := [d], size := elSize t } b)
  | .vcmpltUnsigned d a b w | .vcmpleUnsigned d a b w =>
    some (VShape.withB { srcs := [a], vdst := [d], size := wSize w } b)
  | .vand d a b w | .vor d a b w | .vxor d a b w | .vandn d a b w | .vsll d a b w | .vsrl d a b w | .vsra d a b w
  | .vsel d a b w | .vminUnsigned d a b w | .vmaxUnsigned d a b w | .vdivUnsigned d a b _ w =>
    some (VShape.withB { srcs := [a], dst := some d, size := wSize w } b)
  | .vcvt d a u c _ t =>
    some { srcs := [a], dst := some d, size := Nat.max (elSize t) (cvtSize c), step := cvtSteps u c t }
  | .vunpix d a _ _ | .vpkpix d a _ _ => some { srcs := [a], dst := some d, size := 2 }
  | .vsatn d a b _ _ w => some (VShape.withB { srcs := [a], dst := some d, size := 2 * wSize w } b)
  | .vmadd16 d a b _ _ => some (VShape.withB { srcs := [a], vdst := [d], size := 4 } b)
  | .vavg d a b _ _ w => some (VShape.withB { srcs := [a], dst := some d, size := avgSize w } b)
  | .vredAdd d a _ t | .vredMax d a _ t | .vredMin d a _ t | .vredAnd d a _ t | .vredOr d a _ t | .vredMaxu d a _ t
  | .vredMinu d a _ t => some { srcs := [a], sdst := some d, size := elSize t }
  | .vscanAdd d a _ t | .vscanMax d a _ t | .vscanMin d a _ t | .vscanAnd d a _ t | .vscanOr d a _ t | .vscanMaxu d a _ t
  | .vscanMinu d a _ t => some { srcs := [a], dst := some d, size := elSize t }
  | .vcompress d a t | .vexpand d a t => some { srcs := [a], vdst := [d], size := elSize t }
  | .vslide d a b _ t => some { srcs := [a], dst := some d, sB := some b, size := elSize t }
  | .vbcast d a _ t => some { dst := some d, sA := some a, size := elSize t }
  | .vidx d _ t => some { dst := some d, size := elSize t }
  | .vextr d a b t => some { srcs := [a], sdst := some d, sB := some b, size := elSize t }
  | .vmpop d a | .vmfirst d a => some { srcs := [a], sdst := some d, size := 1 }
  | .vtopk d a b _ t => some { srcs := [a], vdst := [d, nextReg d], sB := some b, size := elSize t }
  | .vdecb d a _ t => some { dst := some d, vdst := [a], size := wideSize t }
  | .vsplit6 d a b _ => some { srcs := [a], vdst := [d, b], size := 1 }
  | .vjoin6 d a b _ => some { dst := some d, vdst := [a, b], size := 1 }
  | .vprune d a t _ => some { srcs := [a], vdst := [d, nextReg d], size := elSize t }
  | .vcvtsToNarrow d a _ _ t | .vcvtsFromNarrow d a _ _ t => some { srcs := [a], dst := some d, size := wideSize t, step := true }
  | .viadd d a b _ | .visub d a b _ | .vimul d a b _ | .vcadd d a b _ | .vcsub d a b _ | .vcmul d a b _ =>
    some { vdst := pairOf d ++ pairOf a ++ ivB b, size := 4 }
  | .vld d a b _ t | .vldff d a b _ t | .vlds d a b _ t => some { dst := some d, sA := some a, sB := some b, size := elSize t }
  | .vst d a b _ t | .vsts d a b _ t => some { srcs := [d], sA := some a, sB := some b, size := elSize t }
  | .vgaths d a b _ t => some { dst := some d, vdst := [b], sA := some a, size := elSize t }
  | .vscats d a b _ t => some { srcs := [d], vdst := [b], sA := some a, size := elSize t }
  | .mma _ _ a b f | .mmas _ _ a b f => some { vdst := a :: (List.range (mmaGroup f + 1)).map (regPlus b), size := 0 }
  | .mzero _ | .mswap _ | .mcfg _ _ => some { size := 0 }
  | .mrd _ _ a | .mwr _ _ a => some { vdst := [a], size := 0 }
  | _ => none

/-- R51, R184: the accumulator is one that the crew's slot names, and the thread one that may use the engine. -/
def EngineOk (s : State) (c : BitVec 2) : Prop :=
  c.toNat % 2 ^ s.crew.crews.toNat = s.crew.slot.toNat ∧
    (if s.crew.trio then s.thr.role = .computer else s.thr.parent = none)

/-- R256: the range that a scratchpad access enters: all vl elements of a unit-stride load, else from the lowest to the
highest active element. -/
def spadHull (e : VEntry) (s : State) (m : Bool) (size : Nat) : Nat × Nat :=
  match e.ins with
  | .ins (.vld _ _ _ _ _) | .ins (.vldff _ _ _ _ _) => (e.sA.toNat, e.sA.toNat + e.vl * size)
  | _ => hull size ((List.range e.vl).filterMap fun i => if (active e s m).getD i false then some (elemAddr e s i) else none)

/-- R114-R119, R215, R216, R255, R256: every active element of a scratchpad access may be accessed now, and its range
finds room in the interlock table. -/
def SpadGood (e : VEntry) (s : State) (m : Bool) (size : Nat) (write : Bool) : Prop :=
  s.crew.spec = none ∧
  (∀ i, (active e s m).getD i false = true → elemAddr e s i < 2 ^ 22 ∧ elemAddr e s i % size = 0 ∧
    s.spadStop e.bufs (elemAddr e s i) size write = none) ∧
  ((active e s m).any id = true →
    s.vecRoom e [(.spad s.crew.coreIx, (spadHull e s m size).1, (spadHull e s m size).2, write)] = .ok ())

/-- What an instruction requires of its type, of captured values and of the state, beyond its operands. -/
def VGood (e : VEntry) (s : State) : Instr → Prop
  | .vsqrt _ _ _ t => isFl t = true
  | .vcvt _ _ u _ _ t => u = false ∨ isFl t = false
  | .vunpix _ _ _ p | .vpkpix _ _ _ p => pixLen p e.vl ≤ s.mvl * 4
  | .vsatn _ _ _ _ _ w => w ≠ .w64
  | .vredAnd _ _ _ t | .vredOr _ _ _ t | .vredMaxu _ _ _ t | .vredMinu _ _ _ t | .vscanAnd _ _ _ t | .vscanOr _ _ _ t
  | .vscanMaxu _ _ _ t | .vscanMinu _ _ _ t | .vidx _ _ t => isFl t = false
  | .vtopk d _ _ _ t => evenReg d = true ∧ 1 ≤ e.sB.toNat % 2 ^ 16 ∧ e.sB.toNat % 2 ^ 16 ≤ 256 ∧
      1 ≤ e.sB.toNat / 2 ^ 16 ∧ e.sB.toNat / 2 ^ 32 = 0 ∧ e.vl % (e.sB.toNat / 2 ^ 16) = 0 ∧
      e.vl / (e.sB.toNat / 2 ^ 16) * (e.sB.toNat % 2 ^ 16) * Nat.max (elSize t) 2 ≤ s.mvl * 4
  | .vdecb _ _ _ _ => e.vl % 8 = 0 ∧ ∀ t ∈ s.mates, ∀ x ∈ t.vq, x.ins.isCbload = true → e.gen ≤ x.gen
  | .vsplit6 d _ b _ => d ≠ b ∧ e.vl ≤ 1024 ∧ (vNum d % 2 * 1024 + e.vl + 3) / 4 ≤ s.mvl * 4
  | .vjoin6 _ a _ _ => e.vl ≤ 1024 ∧ (vNum a % 2 * 1024 + e.vl + 3) / 4 ≤ s.mvl * 4
  | .vprune d _ _ p => evenReg d = true ∧ 1 ≤ (pruneNM p e).1 ∧ (pruneNM p e).1 ≤ (pruneNM p e).2 ∧
      (pruneNM p e).2 ∈ [2, 4, 8, 16] ∧ e.vl % (pruneNM p e).2 = 0
  | .vcvtsToNarrow _ _ _ _ _ | .vcvtsFromNarrow _ _ _ _ _ => (e.vl + 31) / 32 ≤ s.thr.scaleLen.toNat * 2 ^ s.thr.scaleSz.toNat
  | .viadd d a b _ | .visub d a b _ | .vimul d a b _ | .vcadd d a b _ | .vcsub d a b _ | .vcmul d a b _ =>
      evenReg d = true ∧ evenReg a = true ∧ (evenReg b = true ∨ ∃ n : Fin 56, b = .s n ∧ n.val < 32)
  | .vld _ _ b m t => b = .s 0 ∧ SpadGood e s m (elSize t) false ∧ e.sA.toNat < 2 ^ 22 ∧ e.sA.toNat % elSize t = 0
  | .vldff _ _ b m t => b = .s 0 ∧ SpadGood e s m (elSize t) false ∧ e.sA.toNat < 2 ^ 22 ∧ e.sA.toNat % elSize t = 0 ∧
      s.rplOf s.crew.ctx = none
  | .vlds _ _ _ m t => SpadGood e s m (elSize t) false ∧ e.sA.toNat < 2 ^ 22 ∧ e.sA.toNat % elSize t = 0 ∧
      e.sB.toInt % elSize t = 0
  | .vgaths _ _ _ m t => SpadGood e s m (elSize t) false ∧ e.vl ≤ s.mvl ∧ s.thr.cmask = 0
  | .vst _ _ b m t => b = .s 0 ∧ SpadGood e s m (elSize t) true ∧ e.sA.toNat < 2 ^ 22 ∧ e.sA.toNat % elSize t = 0
  | .vsts _ _ _ m t => SpadGood e s m (elSize t) true ∧ e.sA.toNat < 2 ^ 22 ∧ e.sA.toNat % elSize t = 0 ∧
      e.sB.toInt % elSize t = 0
  | .vscats _ _ _ m t => SpadGood e s m (elSize t) true ∧ e.vl ≤ s.mvl ∧ s.thr.cmask = 0
  | .mma c _ _ b f => EngineOk s c ∧ (f = .cb2 ∨ vNum b % 8 = 0) ∧ e.vl ≤ 1024 ∧ mmaBBytes f e.vl ≤ s.mvl * 4 ∧
      (s.accIsInt c = true ↔ f = .i8)
  | .mmas c g _ b f => EngineOk s c ∧ (f = .cb2 ∨ vNum b % 8 = 0) ∧ f ≠ .i8 ∧ e.vl ≤ 1024 ∧ mmaBBytes f e.vl ≤ s.mvl * 4 ∧
      s.accIsInt c = false ∧ e.vl + g.toNat + 1 ≤ s.thr.scaleLen.toNat * 2 ^ s.thr.scaleSz.toNat
  | .mzero c | .mswap c | .mcfg c _ => EngineOk s c
  | .mwr c _ _ => EngineOk s c ∧ e.vl ≤ 1024 ∧ e.vl ≤ s.mvl
  | .mrd c _ _ => c.toNat % 2 ^ s.crew.crews.toNat = s.crew.slot.toNat ∧
      (if s.crew.trio then s.thr.role ≠ .loader else s.thr.parent = none) ∧ e.vl ≤ 1024 ∧ e.vl ≤ s.mvl
  | _ => True

/-- What a vector instruction makes of the state in which it commits. -/
def vOut (e : VEntry) (s : State) : Instr → VOut
  | .vadd d a b m t => lift e s m d (elSize t) [(a, elSize t), (b, elSize t)] true fun _ rm c =>
      num t Fmt.add (fun n x y => ((x + y) % 2 ^ (8 * n), 0)) rm c
  | .vsub d a b m t => lift e s m d (elSize t) [(a, elSize t), (b, elSize t)] true fun _ rm c =>
      num t Fmt.sub (fun n x y => ((((x : Int) - y) % (2 ^ (8 * n) : Int)).toNat, 0)) rm c
  | .vmul d a b m t => lift e s m d (elSize t) [(a, elSize t), (b, elSize t)] true fun _ rm c =>
      num t Fmt.mul (fun n x y => (x * y % 2 ^ (8 * n), 0)) rm c
  | .vdiv d a b m t => lift e s m d (elSize t) [(a, elSize t), (b, elSize t)] true fun _ rm c =>
      num t Fmt.div (fun n x y => if y = 0 then (2 ^ (8 * n) - 1, fDZ) else (wrapI n ((sInt n x).tdiv (sInt n y)), 0)) rm c
  | .vmin d a b m t => lift e s m d (elSize t) [(a, elSize t), (b, elSize t)] false fun _ rm c =>
      num t (fun f _ x y => f.minmax false x y) (fun n x y => (if sInt n x ≤ sInt n y then x else y, 0)) rm c
  | .vmax d a b m t => lift e s m d (elSize t) [(a, elSize t), (b, elSize t)] false fun _ rm c =>
      num t (fun f _ x y => f.minmax true x y) (fun n x y => (if sInt n x < sInt n y then y else x, 0)) rm c
  | .vfma d a b m t => lift e s m d (elSize t) [(a, elSize t), (b, elSize t), (d, elSize t)] true fun _ rm c =>
      match elFmt t with
      | some f => ((f.fma rm (c.getD 0 0) (c.getD 1 0) (c.getD 2 0)).bits, (f.fma rm (c.getD 0 0) (c.getD 1 0) (c.getD 2 0)).fl)
      | none => ((c.getD 0 0 * c.getD 1 0 + c.getD 2 0) % 2 ^ (8 * elSize t), 0)
  | .vabs d a m t => lift e s m d (elSize t) [(a, elSize t)] false fun _ _ c =>
      if isFl t then (c.getD 0 0 % 2 ^ (8 * elSize t - 1), 0) else (wrapI (elSize t) (sInt (elSize t) (c.getD 0 0)).natAbs, 0)
  | .vneg d a m t => lift e s m d (elSize t) [(a, elSize t)] false fun _ _ c =>
      if isFl t then (c.getD 0 0 ^^^ 2 ^ (8 * elSize t - 1), 0) else (wrapI (elSize t) (-(sInt (elSize t) (c.getD 0 0))), 0)
  | .vsqrt d a m t => lift e s m d (elSize t) [(a, elSize t)] true fun _ rm c =>
      match elFmt t with
      | some f => ((f.sqrt rm (c.getD 0 0)).bits, (f.sqrt rm (c.getD 0 0)).fl)
      | none => (c.getD 0 0, 0)
  | .vcmpeq d a b m t => compare e s m d a b (elSize t) fun x y =>
      match elFmt t with | some f => (f.eq x y, 0) | none => (decide (x = y), 0)
  | .vcmplt d a b m t => compare e s m d a b (elSize t) fun x y =>
      match elFmt t with | some f => f.less false x y | none => (decide (sInt (elSize t) x < sInt (elSize t) y), 0)
  | .vcmple d a b m t => compare e s m d a b (elSize t) fun x y =>
      match elFmt t with
      | some f => f.less true x y
      | none => (decide (sInt (elSize t) x < sInt (elSize t) y) || decide (x = y), 0)
  | .vcmpltUnsigned d a b w => compare e s false d a b (wSize w) fun x y => (decide (x < y), 0)
  | .vcmpleUnsigned d a b w => compare e s false d a b (wSize w) fun x y => (decide (x ≤ y), 0)
  | .vand d a b w => lift e s false d (wSize w) [(a, wSize w), (b, wSize w)] false fun _ _ c => bits2 (fun x y => x &&& y) c
  | .vor d a b w => lift e s false d (wSize w) [(a, wSize w), (b, wSize w)] false fun _ _ c => bits2 (fun x y => x ||| y) c
  | .vxor d a b w => lift e s false d (wSize w) [(a, wSize w), (b, wSize w)] false fun _ _ c => bits2 (fun x y => x ^^^ y) c
  | .vandn d a b w => lift e s false d (wSize w) [(a, wSize w), (b, wSize w)] false fun _ _ c =>
      bits2 (fun x y => x ^^^ (x &&& y)) c
  | .vsll d a b w => lift e s false d (wSize w) [(a, wSize w), (b, wSize w)] false fun _ _ c =>
      bits2 (fun x y => x * 2 ^ (y % (8 * wSize w)) % 2 ^ (8 * wSize w)) c
  | .vsrl d a b w => lift e s false d (wSize w) [(a, wSize w), (b, wSize w)] false fun _ _ c =>
      bits2 (fun x y => x / 2 ^ (y % (8 * wSize w))) c
  | .vsra d a b w => lift e s false d (wSize w) [(a, wSize w), (b, wSize w)] false fun _ _ c =>
      bits2 (fun x y => wrapI (wSize w) (sInt (wSize w) x / 2 ^ (y % (8 * wSize w)))) c
  | .vsel d a b w => lift e s false d (wSize w) [(a, wSize w), (b, wSize w)] false fun i _ c =>
      (if (active e s true).getD i false then c.getD 0 0 else c.getD 1 0, 0)
  | .vminUnsigned d a b w => lift e s false d (wSize w) [(a, wSize w), (b, wSize w)] false fun _ _ c => bits2 Nat.min c
  | .vmaxUnsigned d a b w => lift e s false d (wSize w) [(a, wSize w), (b, wSize w)] false fun _ _ c => bits2 Nat.max c
  | .vdivUnsigned d a b m w => lift e s m d (wSize w) [(a, wSize w), (b, wSize w)] false fun _ _ c =>
      if c.getD 1 0 = 0 then (2 ^ (8 * wSize w) - 1, fDZ) else (c.getD 0 0 / c.getD 1 0, 0)
  | .vcvt d a u c m t => lift e s m d (elSize t) [(a, cvtSize c)] (cvtSteps u c t) fun _ rm x =>
      elCvt u c t rm (e.frm.getLsbD 4) (x.getD 0 0)
  | .vunpix d a m p => placed d 2 (masked e s m (pixGet p (elems e s a 1 (pixLen p e.vl))))
  | .vpkpix d a m p =>
    let top := 2 ^ pixBits p - 1
    let xs := elems e s a 2 e.vl
    let old := match d with | .v r => elemsOf 1 (pixLen p e.vl) (s.vBytes r.val (pixLen p e.vl)) | _ => List.replicate (pixLen p e.vl) 0
    let new := (List.range e.vl).map fun i => if (active e s m).getD i false then Nat.min (xs.getD i 0) top else pixGet p old i
    { writes := [packed e d ((List.range (pixLen p e.vl)).map (pixByte p new)) (pixBytes p) (pixSamples p)]
      fl := if (List.range e.vl).any fun i => (active e s m).getD i false && decide (top < xs.getD i 0) then fSAT else 0 }
  | .vsatn d a b m g w => lift e s m d (wSize w) [(a, 2 * wSize w), (b, wSize w)] false fun _ _ c =>
      elSatn (wSize w) g (c.getD 0 0) (c.getD 1 0 % (16 * wSize w))
  | .vmadd16 d a b m g => lift e s m d 4 [(a, 4), (b, 4), (d, 4)] false fun _ _ c =>
      (elMadd16 g (c.getD 0 0) (c.getD 1 0) (c.getD 2 0), 0)
  | .vavg d a b m g w => lift e s m d (avgSize w) [(a, avgSize w), (b, avgSize w)] false fun _ _ c =>
      bits2 (fun x y => if g then (x + y + 1) / 2 else wrapI (avgSize w) ((sInt (avgSize w) x + sInt (avgSize w) y + 1) / 2)) c
  | .vredAdd _ a m t => reduce e s .add m a t
  | .vredMax _ a m t => reduce e s .max m a t
  | .vredMin _ a m t => reduce e s .min m a t
  | .vredAnd _ a m t => reduce e s .and m a t
  | .vredOr _ a m t => reduce e s .or m a t
  | .vredMaxu _ a m t => reduce e s .maxu m a t
  | .vredMinu _ a m t => reduce e s .minu m a t
  | .vscanAdd d a m t => scan e s .add m d a t
  | .vscanMax d a m t => scan e s .max m d a t
  | .vscanMin d a m t => scan e s .min m d a t
  | .vscanAnd d a m t => scan e s .and m d a t
  | .vscanOr d a m t => scan e s .or m d a t
  | .vscanMaxu d a m t => scan e s .maxu m d a t
  | .vscanMinu d a m t => scan e s .minu m d a t
  | .vcompress d a t =>
    let ys := compressed (elems e s a (elSize t) e.vl) (active e s true)
    placed d (elSize t) (ys.map some ++ List.replicate (e.vl - ys.length) none)
  | .vexpand d a t => placed d (elSize t) (expanded (elems e s a (elSize t) e.vl) (active e s true))
  | .vslide d a _ m t => placed d (elSize t) (masked e s m fun i =>
      let j := (i : Int) + e.sB.toInt
      if 0 ≤ j ∧ j < e.vl then (elems e s a (elSize t) e.vl).getD j.toNat 0 else 0)
  | .vbcast d _ m t => placed d (elSize t) (masked e s m fun _ => e.sA.toNat % 2 ^ (8 * elSize t))
  | .vidx d m t => placed d (elSize t) (masked e s m fun i => i % 2 ^ (8 * elSize t))
  | .vextr _ a _ t =>
    let x := (elems e s a (elSize t) e.vl).getD e.sB.toNat 0
    { val := some (if e.vl ≤ e.sB.toNat then 0 else if isFl t then BitVec.ofNat 64 x else BitVec.ofInt 64 (sInt (elSize t) x)) }
  | .vmpop _ a => { val := some (BitVec.ofNat 64 ((maskIn e s a).count true)) }
  | .vmfirst _ a => { val := some (match (maskIn e s a).findIdx? id with | some i => BitVec.ofNat 64 i | none => -1) }
  | .vtopk d a _ m t =>
    let k := e.sB.toNat % 2 ^ 16
    let l := e.sB.toNat / 2 ^ 16
    let outs := ((chunksOf l (e.vl / l) (picked e s m a (elSize t))).map (topRow t k)).flatten
    { writes := [whole d (elSize t) (outs.map fun p => some p.1), whole (nextReg d) 2 (outs.map fun p => some p.2)] }
  | .vdecb d a m t => placed d (wideSize t) (masked e s m fun i =>
      ((wideFmt t).convert .rne false (cbWeight s.crew e.bank ((elems e s a 2 (e.vl / 8)).getD (i / 8) 0) (i % 8))).bits)
  | .vsplit6 d a b _ =>
    let xs := elems e s a 1 e.vl
    let h := vNum d % 2 * 1024
    let lo := setNibbles (elems e s d 1 ((e.vl + 1) / 2)) fun i => if i < e.vl then some (xs.getD i 0 % 16) else none
    let hi := setCrumbs (elems e s b 1 ((h + e.vl + 3) / 4)) fun i =>
      if h ≤ i ∧ i < h + e.vl then some (xs.getD (i - h) 0 / 16 % 4) else none
    { writes := [packed e d lo, { dst := b, size := 1, vals := (if e.vl = 0 then [] else hi).map some, count := e.vl, len := (h + e.vl + 3) / 4 }] }
  | .vjoin6 d a b _ =>
    let h := vNum a % 2 * 1024
    placed d 1 ((List.range e.vl).map fun i =>
      some (nibble (elems e s a 1 ((e.vl + 1) / 2)) i + 16 * crumb (elems e s b 1 ((h + e.vl + 3) / 4)) (h + i)))
  | .vprune d a t p =>
    let nm := pruneNM p e
    let outs := ((chunksOf nm.2 (e.vl / nm.2) (elems e s a (elSize t) e.vl)).map fun g =>
      (kept t nm.1 g).map fun i => (g.getD i 0, i)).flatten
    { writes := [whole d (elSize t) (outs.map fun o => some o.1),
        packed e (nextReg d) (setNibbles (elems e s (nextReg d) 1 ((outs.length + 1) / 2)) fun i =>
          if i < outs.length then some (outs.getD i (0, 0)).2 else none)] }
  | .vcvtsToNarrow d a n m t =>
    let res := scaled e s m fun i => scaledConvert (wideFmt t) (narrowFmt n) (rmOfElem e s true i) (e.frm.getLsbD 4) false
      (scaleOf s e i) ((elems e s a (wideSize t) e.vl).getD i 0)
    let vals := res.map fun r => r.map Prod.fst
    let old := match d with | .v r => elemsOf 1 ((e.vl + 1) / 2) (s.vBytes r.val ((e.vl + 1) / 2)) | _ => List.replicate ((e.vl + 1) / 2) 0
    { writes := [if n = .e2m1 then packed e d (setNibbles old fun i => vals.getD i none) else whole d 1 vals]
      fl := orFlags (res.map fun r => match r with | some p => p.2 | none => 0) }
  | .vcvtsFromNarrow d a n m t =>
    let xs := if n = .e2m1 then (List.range e.vl).map fun i => nibble (elems e s a 1 ((e.vl + 1) / 2)) i else elems e s a 1 e.vl
    let res := scaled e s m fun i => scaledConvert (narrowFmt n) (wideFmt t) (rmOfElem e s true i) (e.frm.getLsbD 4) true
      (scaleOf s e i) (xs.getD i 0 % 2 ^ (narrowFmt n).bits)
    { writes := [whole d (wideSize t) (res.map fun r => r.map Prod.fst)]
      fl := orFlags (res.map fun r => match r with | some p => p.2 | none => 0) }
  | .viadd d a b m => forwardV e s (ivAdd fmt32) m d a b
  | .visub d a b m => forwardV e s (ivSub fmt32) m d a b
  | .vimul d a b m => forwardV e s (ivMul fmt32) m d a b
  | .vcadd d a b m => contractV e s .add m d a b
  | .vcsub d a b m => contractV e s .sub m d a b
  | .vcmul d a b m => contractV e s .mul m d a b
  | .vld d _ _ m t | .vldff d _ _ m t | .vlds d _ _ m t => loadOut e s m d (elSize t)
  | .vgaths d _ _ m t => { loadOut e s m d (elSize t) with
      fin := fun s' => { s' with thr := { s'.thr with cmask := 0, cover := false } } }
  | .vst d _ _ m t | .vsts d _ _ m t => storeOut e s m d (elSize t)
  | .vscats d _ _ m t =>
    { fin := fun s' =>
        let s1 := s'.storeSpad e (storeCells e s m d (elSize t) (elemAddr e s))
        { s1 with thr := { s1.thr with cmask := 0, cover := false } } }
  | .mma c g a b f => { fin := fun s' => if e.vl = 0 then s' else s'.mmaRun e c (g.toNat + 1) a b f fun _ _ => some 0 }
  | .mmas c g a b f =>
    let sc := elemsOf 1 (e.vl + g.toNat + 1) (s.vBytes 1 (e.vl + g.toNat + 1))
    { fin := fun s' => if e.vl = 0 then s' else s'.mmaRun e c (g.toNat + 1) a b f fun r j =>
        if sc.getD (e.vl + r) 0 = 255 ∨ sc.getD j 0 = 255 then none
        else some ((sc.getD (e.vl + r) 0 : Int) + sc.getD j 0 - 254) }
  | .mzero c => { fin := fun s' => s'.accClear c 0 1 }
  | .mswap c => { fin := fun s' =>
      let k := accKey s'.crew.coreIx c.toNat 0 0 0
      let hi : Mem := SMap.slice (n := 8) s'.acc (k + 65536) (k + 131072)
      let lo : Mem := SMap.slice (n := 8) s'.acc k (k + 65536)
      { s' with acc := (s'.acc.paste k 65536 hi).paste (k + 65536) 65536 lo } }
  | .mcfg c t => { fin := fun s' => { s'.accClear c 0 2 with
      accInt := s'.accInt.write (s'.crew.coreIx * 4 + c.toNat) [if t = .i32 then 1 else 0] } }
  | .mwr c r a => { fin := fun s' => s'.accPut c r.toNat (elems e s a 4 e.vl) }
  | .mrd c r a => placed a 4 ((s.accRow c 1 r.toNat e.vl).map some)
  | _ => {}

/-- R30, R54, R59, R75, R98, R105, R114, R126, R193, R216, R255: what an instruction captures when it enters the vector
queue; of a run stream also whether its handle names a run and that run's state allows the access (R290). -/
def captured (s : State) (i : Instr) (v : VShape) : VEntry :=
  let t := s.thr
  let c (o : Option Opd) : Word := match o with | some x => val s x | none => 0
  { ins := .ins i, pc := t.pc, seq := t.vseq + 1, vl := t.csr.vl.toNat, frm := t.csr.frm
    la := s.crew.la, prM := s.crew.prM, prN := s.crew.prN, icfg := t.csr.icfg, bank := s.crew.act
    seed0 := t.seed
    seed := if v.step ∧ t.csr.frm.toNat % 8 = 4 ∧ (t.role = .solo ∨ t.role = .computer) then lfsrStep t.seed else t.seed
    sD := (match i with
      | .vredAdd d _ _ ty => if s.crew.la ∧ isFl ty then val s d else 0
      | _ => c v.sD)
    sA := c v.sA, sB := c v.sB
    ivB := (match i with
      | .viadd _ _ b _ | .visub _ _ b _ | .vimul _ _ b _ | .vcadd _ _ b _ | .vcsub _ _ b _ | .vcmul _ _ b _ => s.broadcastIv b
      | _ => { lo := 0, hi := 0 })
    dst := (match v.sdst with
      | some (.s n) => if n = 0 then none else some (t.phys n.val)
      | _ => none)
    rin := if t.csr.vl = 0 then [] else ringsOf v.srcs
    rout := if t.csr.vl = 0 then none else match v.dst with | some (.ring k) => some k | _ => none
    named := ringsOf (v.srcs ++ v.dst.toList), xmode := s.translating, interval := t.interval, strip := t.strips
    gen := s.crew.cbGen, bufs := s.bufs.filter fun b => b.core == s.crew.coreIx && b.ctx == s.crew.ctx
    runBad := s.streamBad (.ins i) (c v.sB) }

/-- R25, R43, R55, R58, R102, R151, R210, R291: the operands can be used now. -/
def VReady (s : State) (v : VShape) : Prop :=
  v.legal s = true ∧ VlSettled s ∧ s.mvl ≤ 32768 ∧ s.crew.poison = [] ∧
  (∀ o, v.sD = some o ∨ v.sA = some o ∨ v.sB = some o → Readable s o) ∧ (∀ o, v.sdst = some o → Writable s o) ∧
  s.thr.csr.vl.toNat * v.size ≤ s.mvl * 4 ∧
  (∀ k, .ring k ∈ v.srcs ∨ v.dst = some (.ring k) →
    (s.thr.role = .storer ∧ k = 7) ∨ (s.thr.role = .loader ∧ k = 3) → s.crew.lend = none) ∧
  (s.thr.csr.vl ≠ 0 →
    (∀ k, .ring k ∈ v.srcs → (∀ e ∈ s.thr.vq, k ∉ e.rin) ∧
      ∃ r l, s.crew.rings[k] = r :: l ∧ r.count = s.thr.csr.vl.toNat) ∧
    (∀ k, v.dst = some (.ring k) → (∀ e ∈ s.thr.vq, e.rout ≠ some k) ∧ s.crew.rings[k].length < 4))

/-- R30, R49, R103, R104, R260: one register or ring written; a ring write performs the thread's stores before it, and
the scalar store that a fence.sv put before it. -/
def writeTo (s : State) (w : VWrite) : State :=
  match w.dst with
  | .v r => (s.putVec r.val w.size w.vals).setScale r.val w.len w.size
  | .ring k =>
    if w.count = 0 then s
    else
      let r : RingEntry := {
        count := w.count, esz := w.size, unit := w.unit, per := w.per
        strip := (match s.thr.vq with | [] => s.thr.strips | x :: _ => x.strip)
        bytes := bytesOfElems w.size (w.vals.map fun v => v.getD 0) }
      s.released.modCrew fun c => { c with rings := c.rings.set k (c.rings[k] ++ [r]) }
  | .s _ => s

/-- R26, R82, R111: the state once an instruction has committed: its registers written, its scalar result in d,
the ring entries it read gone, its flags merged. -/
def committed (e : VEntry) (s : State) (o : VOut) : State :=
  let s1 := o.writes.foldl writeTo s
  let s2 : State := match o.val, e.dst with
    | some v, some p => { s1 with thr := { s1.thr with regs := s1.thr.regs.set p v } }
    | _, _ => s1
  let s3 := o.fin s2
  let s4 : State := if e.rin = [] then s3
    else { s3 with
      draw := s3.draw + 1
      crew := { s3.crew with rings := e.rin.foldl (fun (v : Vector (List RingEntry) 8) (k : Fin 8) => v.set k (v[k].drop 1)) s3.crew.rings } }
  { s4 with thr := s4.thr.commitFlags o.fl o.fi }

/-- R30, R117, R118, R170: what an instruction that truncates at f leaves besides its elements: the entries that its
loader has written in that strip keep f elements, FF is set, and vl is f, but for a later write of vl that stands
recorded (log 57). -/
def cutTo (s : State) (e : VEntry) (f : Nat) : State :=
  let short (r : RingEntry) : RingEntry :=
    if r.strip = e.strip ∧ f < r.count then { r with count := f, bytes := r.bytes.take (r.unit * ((f + r.per - 1) / r.per)) } else r
  let rings := if s.thr.role = .loader then
      Vector.ofFn fun (k : Fin 8) => if k.val < 4 then s.crew.rings[k].map short else s.crew.rings[k]
    else s.crew.rings
  { s with crew := { s.crew with rings := rings }, thr := s.thr.shortened (BitVec.ofNat 18 f) }

/-- R117, R339: a load that truncates at f; event 232 counts it. -/
def truncated (s : State) (e : VEntry) (f : Nat) : State := (cutTo s e f).countAs e 232 f

/-- R75, R290: the state once an instruction has entered the queue, before it is put there. -/
def entered (s : State) (e : VEntry) : State := { s with thr := { s.thr with seed := e.seed, vseq := e.seq } }

/-! ## Runs seen by vector instructions (R114-R120, R126-R130) -/

/-- R123, R126, R311: in HANDLES mode and outside speculation, a handle of the context in front names a run of its
Cabinet. -/
def RunNamed (s : State) (h : Word) (idx : Nat) (c : CabEntry) : Prop :=
  s.translating = false ∧ s.crew.spec = none ∧ s.rplOf s.crew.ctx = none ∧
  h.toNat = c.gen.toNat * 2 ^ 16 + idx ∧ 0 < idx ∧ idx < 2 ^ 16 ∧ c.live = true ∧
  ∃ x, s.ctxOf s.crew.ctx = some x ∧ kvGet x.cab idx = some c

/-- R126: the state of a run and its owner let the context in front read it, or write it. -/
def MayRead (s : State) (c : CabEntry) : Prop :=
  c.st = .published ∨ (c.st = .opened ∧ c.owner = s.owner ∧ c.shared = none)
def MayWrite (s : State) (c : CabEntry) : Prop :=
  c.st = .opened ∧ c.owner = s.owner ∧ c.shared = none ∧ c.spillOf = none

/-- R128, R312: n bytes of a run from an offset, as the context in front reads them. -/
def runSeen (s : State) (c : CabEntry) (off n : Nat) : List Byte := s.extBytes s.owner c.ext off n

/-! ## Interval registers (R197-R207) -/

/-- A 7-bit code that names an interval register (R44). -/
def iv (k : Fin 32) : Opd := .s (Fin.ofNat 56 k.val)
/-- A 7-bit code that names a predicate register (R44). -/
def pr (k : Fin 8) : Opd := .s (Fin.ofNat 56 k.val)

/-- R198: the iflags of a result: EMP where an operand or the result is empty or an operand invalid, NAI where an
operand is invalid. -/
def emp (bad none_ : Bool) : BitVec 3 := (if bad || none_ then 0b010 else 0) ||| (if bad then 0b001 else 0)

/-- R201, R206: the forward operations of two intervals, and whether one sets PROG as a narrowing of a (R205). -/
def forwardForm : Instr → Option (Opd × Opd × Opd × (IvV → IvV → IvV) × Bool)
  | .iadd d a b => some (d, a, b, ivAdd fmt64, false)
  | .isub d a b => some (d, a, b, ivSub fmt64, false)
  | .imul d a b => some (d, a, b, ivMul fmt64, false)
  | .idiv d a b => some (d, a, b, ivDiv fmt64, false)
  | .iinter d a b => some (d, a, b, ivMeet, true)
  | .ihull d a b => some (d, a, b, ivHull, false)
  | .isqr d a => some (d, a, a, fun x _ => ivSqr fmt64 x, false)
  | .isqrt d a => some (d, a, a, fun x _ => ivSqrt fmt64 x, false)
  | .ineg d a => some (d, a, a, fun x _ => ivNeg x, false)
  | _ => none

/-- R203: the contractors. -/
def contractForm : Instr → Option (Opd × Opd × Opd × Contract)
  | .cadd d a b => some (d, a, b, .add)
  | .csub d a b => some (d, a, b, .sub)
  | .cmul d a b => some (d, a, b, .mul)
  | .cdiv d a b => some (d, a, b, .div)
  | .csqr d a => some (d, a, a, .sqr)
  | .csqrt d a => some (d, a, a, .sqrt)
  | _ => none

/-- R207: the three-valued compares of non-empty intervals: 1 true, 0 false, 2 unknown. -/
def compareForm : Instr → Option (Opd × Opd × Opd × (FVal → FVal → FVal → FVal → BitVec 2))
  | .icmpLt d a b => some (d, a, b, fun a1 a2 b1 b2 => if fvLt a2 b1 then 1 else if fvLe b2 a1 then 0 else 2)
  | .icmpLe d a b => some (d, a, b, fun a1 a2 b1 b2 => if fvLe a2 b1 then 1 else if fvLt b2 a1 then 0 else 2)
  | .icmpSub d a b => some (d, a, b, fun a1 a2 b1 b2 => if fvLe b1 a1 ∧ fvLe a2 b2 then 1 else 0)
  | .icmpCz d a => some (d, a, a, fun a1 a2 _ _ => if fvLe a1 fvZero ∧ fvLe fvZero a2 then 1 else 0)
  | _ => none

/-- Whether a finite real lies in an interval. -/
def mem (x : FVal) : IvV → Bool
  | some (l, h) => fvLe l x && fvLe x h
  | none => false

/-! ## Engine operations (R132-R158, R210-R256) -/

/-- R210, R247, R256: nothing keeps the thread in front from starting an operation whose token goes to d: d is
free, fewer than 32 of its tokens are pending, its vector instructions have committed, a scalar store before a fence.sv
has performed (R257), no fence.ee holds transfers back, and the ranges of the operation find room in the interlock table and meet none of its own. -/
def TokenReady (s : State) (d : Opd) (rs : Ranges) : Prop :=
  Writable s d ∧ opdNum d ≠ 0 ∧ s.thr.vq = [] ∧
  (s.ops.countP fun o => o.crew == s.crew.id && o.thread == s.thr.idx) < 32 ∧
  (∀ h, s.thr.held = some h → h.fenced = false) ∧ (∀ o ∈ s.ops, o.id ∉ s.thr.eeWait) ∧ s.ilockRoom rs = .ok ()

/-- R210, R256: the state once an operation is accepted: it is pending, its ranges stand in the interlock table of
the crew, and the thread goes on. -/
def accepted (s : State) (d : Opd) (k : OpKind) (rs : Ranges) : State :=
  { s with
    fresh := s.fresh + 1
    ops := s.ops ++ [{
      id := s.fresh, kind := k, tok := .live s.crew.id s.thr.idx (s.thr.phys (opdNum d)), crew := s.crew.id
      thread := s.thr.idx, ctx := s.crew.ctx, owner := s.owner, core := s.crew.coreIx, translate := s.translating, pages := []
      ts := s.crew.ts, slot := s.crew.slot.toNat * 4 + s.thr.idx, pc := s.thr.pc }]
    crew := { s.crew with ilock := s.crew.ilock ++ rs.map fun r =>
      { target := r.1, lo := r.2.1, hi := r.2.2.1, write := r.2.2.2, owner := s.thr.idx, op := some s.fresh } }
    thr := { s.thr with pc := s.thr.pc + 4 } }

/-- R133: the run engine of the core has room for one more operation. -/
def RunEngineFree (s : State) : Prop :=
  (s.ops.countP fun o => o.core == s.crew.coreIx && (match o.kind with | .run .. => true | _ => false)) < 16

/-- R256: the ranges of a run engine operation: its sources as they stand, every byte of its destinations. -/
def runRs (s : State) (dsts srcs : List (Nat × CabEntry)) : Ranges :=
  (srcs.map fun x => (.run s.crew.ctx x.1, 0, x.2.len * x.2.recSize, false)) ++
  dsts.map fun x => (.run s.crew.ctx x.1, 0, 2 ^ 63, true)

/-- R129: a source is bound as it stands. -/
def boundOf (x : Nat × CabEntry) : Bound := { idx := x.1, ver := x.2.ver, ext := x.2.ext, len := x.2.len }

/-- R133, R146: the formats agree in record size, key size and key mode. -/
def SameFmt (a b : CabEntry) : Prop := a.rsz = b.rsz ∧ a.ksz = b.ksz ∧ a.kmode = b.kmode

/-- R127, R145: a run is in key order, or in key and tag order. -/
def InOrder (kt : Bool) (e : CabEntry) : Prop :=
  e.len = 0 ∨ e.sort = .keyTag ∨ (kt = false ∧ e.sort = .key)

/-- R147: the limits of a merge control word for a destination of K key bytes and RSZ record bytes. -/
def MergeOk (f : Fin 8) (w : Word) (k rsz : Nat) : Prop :=
  let woff := (w.extractLsb' 24 6).toNat
  let nv := (w.extractLsb' 16 5).toNat
  let voff := (w.extractLsb' 10 6).toNat
  let vtype := (w.extractLsb' 8 2).toNat
  let lane := if vtype < 2 then 4 else 2
  let lanes := (1 ≤ f.val ∧ f.val ≤ 4) ∨ f = 7
  w.extractLsb' 30 34 = 0 ∧ w.extractLsb' 21 3 = 0 ∧ w.extractLsb' 5 3 = 0 ∧
  (lanes → 1 ≤ nv ∧ voff % lane = 0 ∧ k ≤ voff ∧ voff + nv * lane ≤ rsz) ∧
  (¬lanes → nv = 0 ∧ voff = 0 ∧ vtype = 0) ∧
  (f = 2 → vtype ≠ 1 ∧ woff % 4 = 0 ∧ (woff + 4 ≤ voff ∨ voff + nv * lane ≤ woff) ∧ k ≤ woff ∧ woff + 4 ≤ rsz) ∧
  (f ≠ 2 → woff = 0) ∧ (f = 7 → vtype ≤ 1) ∧
  (w.getLsbD 4 = true → k + 4 ≤ rsz ∧ (lanes → k + 4 ≤ voff) ∧ (f = 2 → k + 4 ≤ woff))

/-- R149: a lane of a type widened to f32, a folded one rounded to its type, and one step of a fold: the accumulator, the
lane and the weight of the record that is folded in. -/
def wideLane (vt x : Nat) : Nat :=
  match vt with
  | 2 => (fmt32.convert .rne false (fmtBf.decode x)).bits
  | 3 => (fmt32.convert .rne false (fmt16.decode x)).bits
  | _ => x
def narrowLane (vt x : Nat) : Nat :=
  match vt with
  | 2 => (fmtBf.convert .rne false (fmt32.decode x)).bits
  | 3 => (fmt16.convert .rne false (fmt32.decode x)).bits
  | _ => x
def foldLane (f : Fin 8) (vt a w x : Nat) : Nat :=
  let i32 (v : Nat) : Int := (BitVec.ofNat 32 v).toInt
  match f.val with
  | 1 => if vt = 1 then (a + x) % 2 ^ 32 else (fmt32.add .rne a x).bits
  | 2 => (fmt32.fma .rne w x a).bits
  | 3 => if vt = 1 then (if i32 x < i32 a then x else a) else (fmt32.minmax false a x).bits
  | _ => if vt = 1 then (if i32 a < i32 x then x else a) else (fmt32.minmax true a x).bits

/-- R148, R149: the record that a group of a combining merge becomes: first and last keep one whole; the others fold the
value lanes, and wadd the weight, from left to right in the first record. -/
def FoldedTo (f : Fin 8) (w : Word) (g : List (List Byte)) (y : List Byte) : Prop :=
  let woff := (w.extractLsb' 24 6).toNat
  let nv := (w.extractLsb' 16 5).toNat
  let voff := (w.extractLsb' 10 6).toNat
  let vt := (w.extractLsb' 8 2).toNat
  let sz := if vt < 2 then 4 else 2
  let lane (x : List Byte) (l : Nat) : Nat := leNat ((x.drop (voff + l * sz)).take sz)
  let weight (x : List Byte) : Nat := leNat ((x.drop woff).take 4)
  let first := g.headD []
  if f = 5 then y = first
  else if f = 6 then y = g.getLastD []
  else if g.length = 1 ∧ f ≠ 2 then y = first
  else
    y.length = first.length ∧
    (∀ l, l < nv → lane y l = narrowLane vt ((g.drop 1).foldl (fun a x => foldLane f vt a (weight x) (wideLane vt (lane x l)))
      (if f = 2 then (fmt32.mul .rne (weight first) (wideLane vt (lane first l))).bits else wideLane vt (lane first l))) % 2 ^ (8 * sz)) ∧
    (f = 2 → weight y = (g.drop 1).foldl (fun a x => (fmt32.add .rne a (weight x)).bits) (weight first) % 2 ^ 32) ∧
    ∀ i, ¬(voff ≤ i ∧ i < voff + nv * sz) → ¬(f = 2 ∧ woff ≤ i ∧ i < woff + 4) → y[i]? = first[i]?

/-- R154: the records that a left record of rjoin becomes: its matches in right order, each with its tag, or a miss
record of its key, its tag and the fill word, or none. -/
def JoinedTo (l r : CabEntry) (rsz : Nat) (drop : Bool) (fill : Word) (rs : List (List Byte)) (q : List Byte) (p : List (List Byte)) : Prop :=
  let k := l.keySize
  let hits := rs.filter fun h => recOrd r h == recOrd l q
  (hits ≠ [] → List.Forall₂ (fun h y => y = h.take k ++ (q.drop k).take 4 ++ h.drop (k + 4)) hits p) ∧
  (hits = [] → if drop then p = [] else ∃ m, p = [m] ∧ m.length = rsz ∧ m.take (k + 4) = q.take (k + 4) ∧
    ∀ i, k + 4 ≤ i → i < rsz → m[i]? = some (fill.extractLsb' (8 * ((i - (k + 4)) % 8)) 8))

/-- What a run engine operation reads and demands: its token, destination and block registers, the places in the
block of its sources and its control word (none for an operation without one), what it does, and its limits. -/
structure RunShape where
  tok : Opd
  dst : Opd
  blk : Opd
  srcs : Word → List Nat
  word : Option Nat
  last : Word → Nat
  fn : RunFn
  ok : Word → CabEntry → List CabEntry → Prop

/-- R144-R148: rmerge: the control word first, then MCNT + 1 sources. -/
def mergeShape (f : Fin 8) (d a b : Opd) : RunShape :=
  { tok := d, dst := a, blk := b, srcs := fun w => (List.range ((w.extractLsb' 0 4).toNat + 1)).map fun k => k + 1
    word := some 0, last := fun w => (w.extractLsb' 0 4).toNat + 1, fn := .merge f
    ok := fun w n xs => MergeOk f w n.keySize n.recSize ∧ (∀ x ∈ xs, InOrder (w.getLsbD 4) x ∧ SameFmt x n) }

/-- R154: rjoin: left, right and the fill word. -/
def joinShape (drop : Bool) (d a b : Opd) : RunShape :=
  { tok := d, dst := a, blk := b, srcs := fun _ => [0, 1], word := some 2, last := fun _ => 2, fn := .join drop
    ok := fun _ n xs => ∀ l r, xs = [l, r] → InOrder false l ∧ InOrder false r ∧ l.ksz = n.ksz ∧ l.kmode = n.kmode ∧
      l.keySize + 4 ≤ l.recSize ∧ SameFmt r n ∧ r.keySize + 4 ≤ r.recSize }

/-- R155: rset: left and right, both in key order and of the destination's format. -/
def setShape (which : Fin 3) (d a b : Opd) : RunShape :=
  { tok := d, dst := a, blk := b, srcs := fun _ => [0, 1], word := none, last := fun _ => 1, fn := .set which
    ok := fun _ n xs => ∀ x ∈ xs, InOrder false x ∧ SameFmt x n }

/-- R139: rsort; a key-and-tag sort needs a record that has a tag. -/
def sortShape (kt : Bool) (d a b : Opd) : RunShape :=
  { tok := d, dst := a, blk := b, srcs := fun _ => [0], word := none, last := fun _ => 0, fn := .sort kt
    ok := fun _ n xs => ∀ x ∈ xs, SameFmt x n ∧ ¬(kt = true ∧ x.ksz = true ∧ x.rsz = 0) }

/-- R138, R139, R141, R144-R158: the run engine operations of one destination, but rmerge.user. -/
def runShape : Instr → Option RunShape
  | .rsplice d a b => some {
      tok := d, dst := a, blk := b, srcs := fun _ => [0, 1], word := none, last := fun _ => 1, fn := .splice
      ok := fun _ n xs => ∀ x ∈ xs, SameFmt x n }
  | .rtag d a b => some {
      tok := d, dst := a, blk := b, srcs := fun _ => [0], word := some 1, last := fun _ => 1, fn := .tag
      ok := fun w n xs => w.extractLsb' 33 31 = 0 ∧ (w.getLsbD 32 = true → w.extractLsb' 0 32 = 0) ∧
        ∀ x ∈ xs, SameFmt x n ∧ ¬(w.getLsbD 32 = true ∧ x.ksz = true) ∧ ¬(x.ksz = true ∧ x.rsz = 0) }
  | .rsortK d a b => some (sortShape false d a b)
  | .rsortKt d a b => some (sortShape true d a b)
  | .rmergeNone d a b => some (mergeShape 0 d a b)
  | .rmergeAdd d a b => some (mergeShape 1 d a b)
  | .rmergeWadd d a b => some (mergeShape 2 d a b)
  | .rmergeMin d a b => some (mergeShape 3 d a b)
  | .rmergeMax d a b => some (mergeShape 4 d a b)
  | .rmergeFirst d a b => some (mergeShape 5 d a b)
  | .rmergeLast d a b => some (mergeShape 6 d a b)
  | .rjoin d a b => some (joinShape false d a b)
  | .rjoinDrop d a b => some (joinShape true d a b)
  | .rsetIsect d a b => some (setShape 0 d a b)
  | .rsetUnion d a b => some (setShape 1 d a b)
  | .rsetDiff d a b => some (setShape 2 d a b)
  | .rdedup d a b => some {
      tok := d, dst := a, blk := b, srcs := fun _ => [0], word := some 1, last := fun _ => 1, fn := .dedup
      ok := fun w n xs => w.toNat < 2 ∧ ∀ x ∈ xs, InOrder (w.getLsbD 0) x ∧ SameFmt x n ∧
        ¬(w.getLsbD 0 = true ∧ x.ksz = true ∧ x.rsz = 0) }
  | .rcount d a b => some {
      tok := d, dst := a, blk := b, srcs := fun _ => [0], word := none, last := fun _ => 0, fn := .count
      ok := fun _ n xs => ∀ x ∈ xs, InOrder false x ∧ x.ksz = n.ksz ∧ x.kmode = n.kmode ∧ x.keySize + 4 ≤ n.recSize }
  | _ => none

/-- The control word of an operation. -/
def RunShape.ctl (v : RunShape) (s : State) : Word :=
  match v.word with
  | some k => val s (reg (opdNum v.blk + k))
  | none => 0

/-- R123, R126, R132: the registers of an operation are readable and name a run that may be written, and sources
that may be read. -/
def RunNames (v : RunShape) (s : State) (n : Nat × CabEntry) (xs : List (Nat × CabEntry)) : Prop :=
  opdNum v.blk + v.last (v.ctl s) ≤ 55 ∧ Readable s v.dst ∧ Readable s v.blk ∧
  (∀ k, k ≤ v.last (v.ctl s) → Readable s (reg (opdNum v.blk + k))) ∧
  RunNamed s (val s v.dst) n.1 n.2 ∧ MayWrite s n.2 ∧
  List.Forall₂ (fun (k : Nat) (x : Nat × CabEntry) =>
    RunNamed s (val s (reg (opdNum v.blk + k))) x.1 x.2 ∧ MayRead s x.2) (v.srcs (v.ctl s)) xs

/-- R139: whether a sort in place finds its run in order already, so that it moves no data. -/
def inPlace (f : RunFn) (n : Nat) (xs : List (Nat × CabEntry)) : Bool :=
  match f, xs with
  | .sort kt, [x] => n == x.1 && (x.2.sort == .keyTag || (!kt && x.2.sort == .key))
  | _, _ => false

/-- R124: the descriptor word of an entry, its fields at their places. -/
def descWord (c : CabEntry) : Word :=
  let bit (x : Bool) (k : Nat) : Nat := if x then 2 ^ k else 0
  BitVec.ofNat 64 (c.owner.toNat * 2 ^ 48 + c.pgsz.toNat * 2 ^ 41 + c.die.toNat * 2 ^ 39 + c.home.toNat * 2 ^ 34 +
    bit c.place 33 + bit c.tol 32 + bit c.comp 31 + (match c.sort with | .unsorted => 0 | .key => 1 | .keyTag => 2) * 2 ^ 26 +
    (match c.st with | .opened => 0 | .published => 1 | .closed => 2) * 2 ^ 24 + c.kmode.toNat * 2 ^ 4 +
    bit c.ksz 2 + c.rsz.toNat)
/-! ## Queues (R161-R177) -/

/-- R161, R164: a handle of the context in front names a queue of its Bureau that is reached from its die. -/
def QueueNamed (s : State) (h : Word) (idx : Nat) (b : BEntry) : Prop :=
  h.toNat = b.gen.toNat * 2 ^ 16 + idx ∧ 0 < idx ∧ idx < 2 ^ 16 ∧ b.live = true ∧
  (b.launchQ ≠ none ∨ b.die = s.crew.die) ∧ ∃ x, s.ctxOf s.crew.ctx = some x ∧ kvGet x.bureau idx = some b

/-- R161: a queue of the context in front. -/
def qref (s : State) (idx : Nat) : QRef := { ctx := s.crew.ctx, idx := idx }

/-- R163: the segment of a queue is in its home core's SRAM. -/
def Resident (b : BEntry) : Prop := b.inSram = true ∨ b.launchQ ≠ none

/-- R177: the status word of queue i: CLOSED, ARMED, SPILL, the claims outstanding and the records held outside
claims, or the tasks that wait in a TASK queue. -/
def statusWord (s : State) (i : Nat) (b : BEntry) : Word :=
  BitVec.ofNat 64 ((if b.closed then 2 ^ 55 else 0) + (if b.arm.isSome then 2 ^ 54 else 0) +
    (if (∃ r ∈ b.recs, r.spilled = true) ∨ (∃ c ∈ b.claims, ∃ r ∈ c.recs, r.spilled = true) then 2 ^ 53 else 0) +
    Nat.min b.claims.length 8191 * 2 ^ 40 + (if b.kind = .task then
      s.tasks.countP (fun t => t.ctx == s.crew.ctx && t.qno == i && t.st == .waiting) else b.recs.length) % 2 ^ 40)

/-- R162, R177: the descriptor word of a queue, bit 21 saying whether its segment is in SRAM now. -/
def queueDesc (b : BEntry) : Word :=
  BitVec.ofNat 64 (b.quota.toNat * 2 ^ 32 + b.die.toNat * 2 ^ 27 + b.home.toNat * 2 ^ 22 + (if b.inSram then 2 ^ 21 else 0) +
    b.rsz.toNat * 2 ^ 2 + (match b.kind with | .launch => 0 | .task => 1 | .expert => 2 | .stream => 3))

/-- R162, R169: a descriptor that qopen accepts for a queue of a kind with a spill run or without one. -/
def DescOk (s : State) (w : Word) : Prop :=
  w.extractLsb' 40 24 = 0 ∧ w.extractLsb' 29 3 = 0 ∧ w.extractLsb' 4 17 = 0 ∧ w.extractLsb' 32 8 ≠ 0 ∧
  (w.extractLsb' 0 2 = 0 → s.crew.priv = true) ∧ (w.extractLsb' 0 2 = 1 → w.extractLsb' 2 2 = 3) ∧
  (w.extractLsb' 0 2 = 2 → w.extractLsb' 2 2 = 1) ∧ w.extractLsb' 27 2 = s.crew.die

/-- R169: the queue that a descriptor creates: empty, unarmed, its push side open. -/
def newQueue (s : State) (w : Word) (idx : Nat) (spill : Option Nat) : BEntry :=
  { live := true, gen := (let g := s.queueGen s.crew.ctx idx; if g = 0xFFFF then 1 else g + 1)
    kind := (match (w.extractLsb' 0 2).toNat with | 0 => .launch | 1 => .task | 2 => .expert | _ => .stream)
    rsz := w.extractLsb' 2 2, res := w.getLsbD 21, home := w.extractLsb' 22 5, die := w.extractLsb' 27 2
    quota := w.extractLsb' 32 8, inSram := false, spill := spill, closed := false, recs := [], arm := none
    eligible := false, promoted := false, claims := [], fired := 0, seq := 0, touched := 0, launchQ := none }

/-- R170: the shape of a qpush and of a qtake, and what they capture at issue. -/
def pushShape (d a : Opd) : VShape := { srcs := [d], sA := some a }
def takeShape (d a : Opd) : VShape := { dst := some d, sA := some a }
def pushEntry (s : State) (d a : Opd) : VEntry := { captured s .yield (pushShape d a) with ins := .qpush d a }
def takeEntry (s : State) (d a : Opd) : VEntry := { captured s .yield (takeShape d a) with ins := .qtake d a }

/-- A thread that is trying its instruction waits no longer. -/
def trying (s : State) : State := { s with thr := { s.thr with life := .run } }

/-- R173: a Settle is eligible: threshold, age or flush, in this order. -/
def causeOf (b : BEntry) : Option Nat :=
  match b.arm, b.recs with
  | some a, _ :: _ =>
    if a.thr.toNat * 64 ≤ b.recs.length then some 0 else if b.eligible then some 1 else if b.closed then some 2 else none
  | _, _ => none

/-- R173: the effective class and the deadline of an armed Settle. -/
def rank (b : BEntry) : Nat × Nat :=
  match b.arm, b.recs with
  | some a, r :: _ => ((if b.promoted then 0 else a.cls.toNat), r.arrival + a.age.toNat)
  | _, _ => (0, 0)

/-! ## Engines (R210-R236) -/

/-- R212: the registers of an operation with a block of three. -/
def TripleRead (s : State) (a b : Opd) : Prop :=
  opdNum b + 2 ≤ 55 ∧ Readable s a ∧ Readable s b ∧ ∀ k, k ≤ 2 → Readable s (reg (opdNum b + k))

/-- R212, R214: a buffer-id word names a declared buffer of the context in front on its core. -/
def BufferNamed (s : State) (w : Word) (x : Buf) : Prop :=
  w.toNat < 256 ∧ s.buf? s.crew.coreIx s.crew.ctx w.toNat = some x

/-- R226: the bytes of the slot images of n logical bytes. -/
def images (n : Nat) : Nat := (n + 4095) / 4096 * 4352

/-- R215: a fill issues; a copy-out issues; a fill ends; a copy-out ends. -/
def filling (s : State) (x : Buf) : State := s.setBuf { x with st := .filling }
def drainingTo (s : State) (x : Buf) : State :=
  s.setBuf (if x.st = .draining then { x with outs := x.outs + 1 } else { x with st := .draining, outs := 1, keep := true })
def filled (s : State) (x : Buf) (ok : Bool) : State := s.setBuf { x with st := if ok then .full else .empty }
def drained1 (s : State) (x : Buf) (keep : Bool) : State :=
  s.setBuf (if x.outs ≤ 1 then { x with st := if x.keep && keep then .full else .empty, outs := 0, keep := true }
    else { x with outs := x.outs - 1, keep := x.keep && keep })

/-- R225, R226: the logical bytes of a buffer, the blocks of a C buffer expanded; none where one cannot be. -/
def logical (s : State) (core : Nat) (owner : BitVec 10) (x : Buf) (n : Nat) : Option (List Byte) :=
  if x.comp then (expandAll (images n / 4352) (s.spadBytes core owner x.base (images n))).map fun l => l.take n
  else some (s.spadBytes core owner x.base n)

/-- R220, R226: bytes of the buffer and of the run that a cpy moves: n logical bytes, out of a buffer or into it. -/
def cpyBytes (out comp raw : Bool) (n : Nat) : Nat × Nat :=
  if comp then (images n, if out && raw then images n else n) else (n, n)

/-- R213, R220, R226: the limits of a cpy between a run and a buffer. -/
def CpyOk (w : Word) (e : CabEntry) (x : Buf) (off : Nat) : Prop :=
  let out := w.getLsbD 63
  let raw := w.getLsbD 57
  let n := w.toNat % 2 ^ 32
  w.extractLsb' 32 25 = 0 ∧ w.extractLsb' 58 4 = 0 ∧ (out = false → w.getLsbD 62 = false ∧ raw = false) ∧
  (raw = true → x.comp = true ∧ e.comp = false ∧ n % 4096 = 0) ∧ (out = false → x.comp = true → e.comp = true) ∧
  (x.comp = true → e.comp = true → off % 4096 = 0 ∧ n % 4096 = 0) ∧
  n ≤ x.size ∧ (cpyBytes out x.comp raw n).1 ≤ x.size ∧ off % e.recSize = 0 ∧ n % e.recSize = 0 ∧
  off + (cpyBytes out x.comp raw n).2 ≤ (if out then e.cap else e.len) * e.recSize

/-- R218: what LEN of a bxform is a multiple of, and its output bytes. -/
def xformUnit (cmd esz cvt : Nat) : Nat :=
  match cmd with
  | 0 => 1 | 1 => 4 | 2 => 128 | 3 => 2 ^ esz | 4 => 2 | 5 => 3 | 6 => 5 | _ => if cvt < 2 then 2 else 4
def xformBytes (cmd cvt len : Nat) : Nat :=
  match cmd with
  | 5 => 4 * len / 3 | 6 => 8 * len / 5 | 7 => if cvt < 2 then 2 * len else len / 2 | _ => len

/-- R218: the fields of a bxform command word. -/
def xCmd (w : Word) : Nat := w.toNat % 16
def xEsz (w : Word) : Nat := (w.extractLsb' 4 2).toNat
def xCvt (w : Word) : Nat := (w.extractLsb' 8 2).toNat
def xLen (w : Word) : Nat := (w.extractLsb' 32 22).toNat
def xOut (w : Word) : Nat := xformBytes (xCmd w) (xCvt w) (xLen w)

/-- R218: the limits of a command word and its ranges. -/
def XformOk (w : Word) (src dst : Nat) : Prop :=
  w.extractLsb' 54 10 = 0 ∧ w.extractLsb' 10 22 = 0 ∧ w.extractLsb' 6 2 = 0 ∧ xCmd w < 8 ∧
  1 ≤ xLen w ∧ xLen w ≤ 0x300000 ∧ (xCmd w = 3 → xEsz w ≠ 0) ∧ xLen w % xformUnit (xCmd w) (xEsz w) (xCvt w) = 0 ∧
  src % 64 = 0 ∧ dst % 64 = 0 ∧ dst + xOut w ≤ 0x300000 ∧
  (2 ≤ xCmd w → src + xLen w ≤ 0x300000 ∧
    (src + xLen w ≤ dst ∨ dst + xOut w ≤ src ∨ (xCmd w ≤ 4 ∧ src = dst)))

/-- R218: the output of a command over its source bytes and its flags, element by element. -/
def XformTo (w p : Word) (src : List Byte) (out : List Byte) (fl : FF) : Prop :=
  let at16 (l : List Byte) (i : Nat) : Nat := leNat ((l.drop (2 * i)).take 2)
  let at32 (l : List Byte) (i : Nat) : Nat := leNat ((l.drop (4 * i)).take 4)
  out.length = xOut w ∧
  (match xCmd w with
   | 0 => fl = 0 ∧ ∀ i, i < xLen w → out.getD i 1 = 0
   | 1 => fl = 0 ∧ ∀ i, 4 * i < xLen w → at32 out i = p.toNat % 2 ^ 32
   | 2 => fl = 0 ∧ ∀ t r c, 128 * t < xLen w → r < 8 → c < 8 → at16 out (64 * t + 8 * c + r) = at16 src (64 * t + 8 * r + c)
   | 3 => fl = 0 ∧ ∀ i j, 2 ^ xEsz w * i < xLen w → j < 2 ^ xEsz w →
      out.getD (2 ^ xEsz w * i + j) 0 = src.getD (2 ^ xEsz w * i + (2 ^ xEsz w - 1 - j)) 0
   | 4 => (∀ i, 2 * i < xLen w → at16 out i = (normSample p (at16 src i)).bits % 2 ^ 16) ∧
      fl = orFlags ((List.range (xLen w / 2)).map fun i => (normSample p (at16 src i)).fl)
   | 5 => fl = 0 ∧ ∀ i, 2 * i < xOut w → at16 out i = pixGet .p12 (src.map BitVec.toNat) i % 2 ^ 16
   | 6 => fl = 0 ∧ ∀ i, 2 * i < xOut w → at16 out i = pixGet .p10 (src.map BitVec.toNat) i % 2 ^ 16
   | _ =>
      let one (i : Nat) : FRes := match xCvt w with
        | 0 => fmt32.convert .rne false (fmtBf.decode (at16 src i))
        | 1 => fmt32.convert .rne false (fmt16.decode (at16 src i))
        | 2 => fmtBf.convert .rne false (fmt32.decode (at32 src i))
        | _ => fmt16.convert .rne false (fmt32.decode (at32 src i))
      (∀ i, i < xLen w / xformUnit 7 0 (xCvt w) → 
        (if xCvt w < 2 then at32 out i = (one i).bits % 2 ^ 32 else at16 out i = (one i).bits % 2 ^ 16)) ∧
      fl = orFlags ((List.range (xLen w / xformUnit 7 0 (xCvt w))).map fun i => (one i).fl))

/-- R218, R219: the source bytes that the lines of a bxform still to be written need: those in place, and the lines of a
half-written tile as they were. -/
def xSource (s : State) (o : Op) (src : Nat) (w : Word) (a : XformAt) : List Byte :=
  let now := s.spadBytes o.core o.owner src (xLen w)
  (List.range (xLen w)).map fun j => match kvGet a.kept (j / 64) with
    | some l => l.getD (j % 64) 0
    | none => now.getD j 0

/-- R218: the flags of the elements of destination line i. -/
def xLineFlags (w p : Word) (src : List Byte) (i : Nat) : FF :=
  let at16 (j : Nat) : Nat := leNat ((src.drop (2 * j)).take 2)
  let at32 (j : Nat) : Nat := leNat ((src.drop (4 * j)).take 4)
  let per := if xCmd w = 7 ∧ xCvt w < 2 then 16 else 32
  let n := if xCmd w = 7 then xLen w / xformUnit 7 0 (xCvt w) else xLen w / 2
  let one (j : Nat) : FF := match xCmd w with
    | 4 => (normSample p (at16 j)).fl
    | 7 => (match xCvt w with
      | 0 => (fmt32.convert .rne false (fmtBf.decode (at16 j))).fl
      | 1 => (fmt32.convert .rne false (fmt16.decode (at16 j))).fl
      | 2 => (fmtBf.convert .rne false (fmt32.decode (at32 j))).fl
      | _ => (fmt16.convert .rne false (fmt32.decode (at32 j))).fl)
    | _ => 0
  orFlags (((List.range n).filter fun j => j / per == i).map one)

/-- R232: the control word of a message over a route. -/
def FabricOk (w : Word) (t : Route) : Prop :=
  ((t.leg0 = .relay ∨ t.leg1 = .relay ∨ t.leg2 = .relay) ∨ w.extractLsb' 24 6 = 0) ∧
  (w.getLsbD 23 = true ∨ w.extractLsb' 32 32 = 0)

/-- R232: a message that sets off. -/
def sent (s : State) (t : Route) (w : Word) (data : List Byte) : State :=
  { s with msgs := s.msgs ++ [{ id := s.fresh, op := s.fresh, route := t, ridx := w.extractLsb' 24 6, relays := 0, link := none
                                data := data, delivered := none, ordinal := s.thr.pushes }] }

/-- R226, R232, R234: what a message carries of up to n logical bytes of a buffer: those before the first slot image
of a C buffer that cannot be expanded. -/
def carried (s : State) (x : Buf) (n : Nat) : List Byte :=
  if x.comp then (expandSome (images n / 4352) (s.spadBytes s.crew.coreIx s.owner x.base (images n))).take n
  else s.spadBytes s.crew.coreIx s.owner x.base n

/-- R233, R339: the signal of an xput: ADD goes to its word, which counts as an atomic at its slice. -/
def rung (s : State) (w sa : Word) : State :=
  let k := sa.toNat % 2 ^ 23
  if w.getLsbD 23 then
    sigUse { s with sig := s.sig.put k (leBytes 8 (leNat (s.sig.bytes k 8) + w.toNat / 2 ^ 32)) } sa 2
  else s

/-- R130, R215, R233: what an xput finds at its destination, and what it leaves there: its signal is checked before its
data (the model's choice, log 40), then its run; the data, then the signal. `out` takes the token's value and the state. -/
def XputAt (s : State) (o : Op) (w h off sa : Word) (data : List Byte) (out : Word → State → Prop) : Prop :=
  let n := w.toNat % 2 ^ 22
  let own := s.ownerOf o.ctx
  let idx := h.toNat % 65536
  let lost (c : Code) : Prop := out (-c.setWidth 64) s
  (w.getLsbD 23 = true → sa.extractLsb' 23 9 ≠ s.pkg → lost fltRoute) ∧
  (w.getLsbD 23 = true → sa.extractLsb' 23 9 = s.pkg → s.sigMine own sa = false → lost fltSignal) ∧
  ((w.getLsbD 23 = true → sa.extractLsb' 23 9 = s.pkg ∧ s.sigMine own sa = true) →
    (n = 0 → out 0 (rung s w sa)) ∧
    (0 < n → s.globalRun o.ctx idx = none → lost fltRunHandle) ∧
    (∀ e c, 0 < n → s.globalRun o.ctx idx = some (e, c) →
      (h.toNat ≠ e.gen.toNat * 65536 + idx ∨ idx = 0 ∨ (e.live = false ∧ e.st ≠ .closed) → lost fltRunHandle) ∧
      (h.toNat = e.gen.toNat * 65536 + idx → idx ≠ 0 → e.live = true ∨ e.st = .closed →
        (e.mayWrite own = false → lost fltRunState) ∧
        (e.mayWrite own = true → off.toNat % e.recSize ≠ 0 ∨ n % e.recSize ≠ 0 → lost fltOperand) ∧
        (e.mayWrite own = true → off.toNat % e.recSize = 0 → n % e.recSize = 0 →
          (e.cap * e.recSize < off.toNat + n → lost fltRunBounds) ∧
          (∀ y g gm, off.toNat + n ≤ e.cap * e.recSize → (∀ c, s.ctxOf o.ctx = some c → c.translate = false) →
            (∀ c, s.opCrew o = some c → c.speculating = false) → s.ext? e.ext = some y → data.length = n →
            let u := s.extPutBy o.owner y.id off.toNat data
            u.globalRun o.ctx idx = some (g, gm) →
            out (BitVec.ofNat 64 n) (rung (if g.ext = e.ext then u.setEntry o.ctx idx
                { g with len := Nat.max g.len ((off.toNat + n + g.recSize - 1) / g.recSize), sort := .unsorted }
              else u) w sa))))))

/-- R165, R167, R234, R309: what an xsend finds at its destination and leaves there: as many of its records as the queue
can accept set out as one push of a number, whose miss joins those outstanding where the segment is absent. -/
def XsendAt (s : State) (o : Op) (id ordinal room : Nat) (w h : Word) (data : List Byte) (out : Word → State → Prop) : Prop :=
  let i := h.toNat % 65536
  let n := w.toNat % 2 ^ 22
  ∀ q : BEntry, s.queueAt { ctx := o.ctx, idx := i } = some q → h.toNat = q.gen.toNat * 65536 + i → i ≠ 0 → q.live = true →
    (q.die = w.extractLsb' 30 2 ∨ q.launchQ ≠ none) →
    let lost (c : Code) : Prop := out (-c.setWidth 64) s
    (q.kind = .launch ∨ q.kind = .task → lost fltQueueKind) ∧
    (q.kind = .expert ∨ q.kind = .stream →
      (q.closed = true → lost fltQueueState) ∧
      (q.closed = false → room < n * q.recSize → lost fltOperand) ∧
      (q.closed = false → n * q.recSize ≤ room → data.length < n * q.recSize → lost fltUncorr) ∧
      (q.closed = false → n * q.recSize ≤ room → n * q.recSize ≤ data.length →
        let f := Nat.min n (s.queueRoom { ctx := o.ctx, idx := i } q)
        (f = 0 → out (-fltQueueSpill.setWidth 64) (s.countCore o.core 211 1 (some o.who))) ∧
        (0 < f → out (BitVec.ofNat 64 (f * q.recSize)) (State.modQueue { s with
          misses := if q.inSram = true ∨ q.launchQ ≠ none ∨ (o.ctx, i) ∈ s.misses then s.misses else s.misses ++ [(o.ctx, i)]
          pushes := s.pushes ++ [{
            id := id, q := { ctx := o.ctx, idx := i }
            recs := (List.range f).map fun k => (data.drop (k * q.recSize)).take q.recSize
            origin := o.ts, thread := o.crew * 4 + o.thread, slot := o.slot, ordinal := ordinal }] } o.ctx i
              fun y => { y with touched := s.clk }))))

/-! ## Launches and crews (R21-R23, R41, R304-R307, R321, R328, R349) -/

/-- R306: a queue that holds more packets than slots stops with reason 7. -/
def checkedQueue (l : LQueue) : LQueue :=
  if l.en = true ∧ 2 ^ l.log2sz.toNat < (l.tail - l.head).toNat then { l with en := false, errReason := 7 } else l

/-- R304: word k of a packet. -/
def packetWord (bs : List Byte) (k : Nat) : Word := BitVec.ofNat 64 (leNat ((bs.drop (8 * k)).take 8))

/-- R304, R305: a header that reason 1 refuses. -/
def badHeader (s : State) (h n : Word) : Prop :=
  h.extractLsb' 56 8 ≠ 0 ∨ h.extractLsb' 44 4 ≠ 0 ∨ h.extractLsb' 35 5 ≠ 0 ∨ h.extractLsb' 27 5 ≠ 0 ∨ h.extractLsb' 2 22 ≠ 0 ∨
  12 < (h.extractLsb' 48 4).toNat ∨ 4 < (h.extractLsb' 52 4).toNat ∨ h.extractLsb' 25 2 = 3 ∨ 2 ^ 40 ≤ n.toNat ∨
  h.extractLsb' 40 4 = 0 ∨ h.extractLsb' 40 4 &&& s.deadDies ≠ 0

/-- R304: the prerequisites of a packet. -/
def packetPrqs (bs : List Byte) : List (Word × Word) :=
  (List.range ((packetWord bs 0).extractLsb' 52 4).toNat).map fun i => (packetWord bs (18 + 2 * i), packetWord bs (19 + 2 * i))

/-- R305: whether ENTRY, DONE and the prerequisites can be used. -/
def addressesOk (s : State) (ctx : BitVec 16) (bs : List Byte) : Prop :=
  (∃ c, s.ctxOf ctx = some c ∧ c.st ≠ .killed) ∧ (packetWord bs 1).toNat % 256 = 64 ∧
  s.codeObj ctx (packetWord bs 1) ≠ .unmapped ∧ s.codeBad ctx (packetWord bs 1) = none ∧
  s.doneOk ctx (packetWord bs 5) = true ∧ ∀ x ∈ packetPrqs bs, s.prqOk ctx x.1 = true

/-- R305: a refused packet: HEAD passes it, ERR holds its slot and the reason, and DONE takes 2^32 where it can. A code
object whose bytes are uncorrectable is among what reason 4 refuses, and its frame is withdrawn (R358). -/
def refusedPacket (s : State) (l : LQueue) (bs : List Byte) (reason : BitVec 8) : State :=
  let s0 := if reason = 4 then s.withdrawBad (s.codeBad l.ctx (packetWord bs 1)) else s
  let s1 := s0.setLq { l with
    head := l.head + 1, errSlot := BitVec.ofNat 16 (l.head.toNat % 2 ^ l.log2sz.toNat), errReason := reason }
  if s.doneOk l.ctx (packetWord bs 5) then s1.addDone l.ctx (packetWord bs 5) (2 ^ 32) else s1

/-- R22: the number of tasks of n elements over c crews, and the chunks, first element and count of task i of t. -/
def taskCount (n c : Nat) : Nat := Nat.min c ((n + 63) / 64)
def taskChunks (n t i : Nat) : Nat := (n + 63) / 64 / t + (if i < (n + 63) / 64 % t then 1 else 0)
def taskFirst (n t i : Nat) : Nat := 64 * ((List.range i).map (taskChunks n t)).sum
def taskElems (n t i : Nat) : Nat := Nat.min (64 * taskChunks n t i) (n - taskFirst n t i)

/-- R321: the crew in front is alone in the machine, solo, with nothing queued, held back or pending, and its context
has a pool with room for its area and its core image. -/
def Savable (s : State) (cx : Ctx) : Prop :=
  s.live = true ∧ s.thr.idx = 0 ∧ s.thr.vq = [] ∧ s.thr.unperf = [] ∧ s.thr.held = none ∧ s.mates = [] ∧ s.others = [] ∧ s.ops = [] ∧
  s.crew.lend = none ∧ s.crew.poison = [] ∧ s.crew.stop = none ∧ s.ctxOf s.crew.ctx = some cx ∧ cx.trc = none ∧
  ∃ x e, s.poolExt s.crew.ctx = some (x, e) ∧ s.tolerant? x = none ∧
    s.poolTop s.crew.ctx + areaBytes s.crew + 0x310000 ≤ s.poolFloor s.crew.ctx (e.cap * e.recSize)

/-- R255, R311: elements of a committed store of the thread in front reach their places, those of a run through the
pages that the store bound, where its context translates. -/
def performed (u : State) (x : Unperf) (now : List (Nat × List Byte)) : State :=
  now.foldl (fun (v : State) (c : Nat × List Byte) =>
    let owner := v.ownerOf u.crew.ctx
    match x.target with
    | .spad core => v.spadPut core owner c.1 c.2
    | .run _ _ =>
      if x.pages ≠ [] then State.boundPut owner x.pages (c.2.length / 65536 + 2) (x.va + c.1) c.2 v
      else match x.ext with
        | some e => v.extPutBy owner e c.1 c.2
        | none => v) u

/-! ## Package and mailbox (R331-R364) -/

/-- R235, R302: a relay table that the firmware writes: each entry is 0 or VALID with a NEXT and the route that the
machine finds to some package. -/
def RelayTable (t : State) : Prop :=
  ∀ k : Fin 64, t.relay[k] = 0 ∨ ∃ g next r, t.routeTo g = some r ∧
    t.relay[k] = BitVec.ofNat 64 (2 ^ 63 + (next : BitVec 6).toNat * 2 ^ 24 + r.code.toNat)

/-- R361: port p retired: out of service for good, its retry buffer dropped; messages that left over it and have a flit
that may be undelivered, one from the flit last NAKed on or any in the retry buffer, may end with -FLT_ROUTE, and all do
after 8 failures; from stage 2 on the firmware writes the tables again (free values, log 1). -/
def PortRetired (s t : State) (p : Nat) (h : p < 24) : Prop :=
  (∃ f l r ms, t = { s with
      phRdy := s.phRdy &&& ~~~(BitVec.ofNat 24 (2 ^ p))
      ports := s.ports.set p { s.ports[p] with retired := true, trained := false, comp := false, sent := [] }
      msgs := ms, fabric := f, badLinks := l, relay := r, draw := s.draw + (if 2 ≤ s.stage.toNat then 2 else 1) }) ∧
  List.Forall₂ (fun m y : Msg =>
    let x := s.ports[p]
    let owed : Prop := m.link = some p ∧ m.delivered = none ∧ ∃ f ∈ (match x.replayFrom with
      | some q => x.sent.dropWhile fun (f : Flit) => f.seq != q
      | none => x.sent), f.msg = some m.id
    let ended : Msg := { m with delivered := some (-fltRoute.setWidth 64) }
    (¬owed → y = m) ∧ (owed → y = m ∨ y = ended) ∧ (owed → 8 ≤ x.txFails → y = ended)) s.msgs t.msgs ∧
  (2 ≤ s.stage.toNat → s.pkg ∈ t.fabric ∧ RelayTable t) ∧
  (s.stage.toNat < 2 → (t.fabric, t.badLinks, t.relay) = (s.fabric, s.badLinks, s.relay))

/-- R363: the junction temperature of die k. -/
def temp (t : BitVec 48) (k : Nat) : Nat := (t.extractLsb' (8 * k) 8).toNat

/-- R333: OP, stage, operands and the operand bits that each command names. -/
def cmdForm : Instr → Option (Nat × Nat × MbArgs × List Word)
  | .resync a => some (0x0001, 0, a, [allBits])
  | .fwload a => some (0x0002, 0, a, [allBits, allBits])
  | .ctxnew a => some (0x0101, 1, a, [0x3FFFFFF])
  | .ctxkill a => some (0x0102, 1, a, [0xFFFF])
  | .xlate a => some (0x0103, 1, a, [0xFFFF, allBits, 1])
  | .keyload a => some (0x0104, 1, a, [0x3FF, allBits])
  | .purge a => some (0x0105, 1, a, [0x3FF])
  | .trapset a => some (0x0106, 1, a, [0xFFFFFFFF, allBits, allBits, allBits])
  | .save a => some (0x0107, 1, a, [0xFFFF, allBits])
  | .restore a => some (0x0108, 1, a, [0xFFFF, allBits, 0x1FF])
  | .bpool a => some (0x0109, 1, a, [0xFFFF, allBits, allBits])
  | .evict a => some (0x010A, 1, a, [0xFFFF])
  | .share a => some (0x010B, 1, a, [0xFFFFFFFF, allBits])
  | .qbind a => some (0x0201, 1, a, [0xFFFF0FFF])
  | .qunbind a => some (0x0202, 1, a, [0xFFF])
  | .nvmeqp a => some (0x0203, 1, a, [0xFFFFFF1F, allBits, allBits, 0x7FF007F, allBits, 0xFFFFFFFF, allBits])
  | .nvmeunqp a => some (0x0204, 1, a, [0xFFFFFF1F])
  | .nvmeerr a => some (0x0205, 1, a, [0xFFFFFF1F])
  | .cntcfg a => some (0x0301, 1, a, [allBits])
  | .cntread a => some (0x0302, 1, a, [0x1FF00FF])
  | .cntclr a => some (0x0303, 1, a, [0x1FF00FF])
  | .cntprog a => some (0x0304, 1, a, [0x1FF00FF, allBits])
  | .cntdump a => some (0x0305, 1, a, [allBits])
  | .trccfg a => some (0x0306, 1, a, [0xFFFF, allBits, 0xFFFF, allBits, 1])
  | .dbgattach a => some (0x0307, 1, a, [0x1FFFF])
  | .brkset a => some (0x0308, 1, a, [0xFFFF0077, allBits, allBits])
  | .step a => some (0x0309, 1, a, [allBits, 3])
  | .dbgstop a => some (0x030A, 1, a, [0x1FFFFFF])
  | .rplcfg a => some (0x030B, 1, a, [0x3FFFF, 0xFFFF, allBits])
  | .pwrread a => some (0x0401, 0, a, [])
  | .pwrcap a => some (0x0402, 1, a, [allBits])
  | .retire a => some (0x0403, 2, a, [allBits])
  | _ => none

/-- R333: operand bits outside those named, and the reserved bits of the command word, are 0. -/
def OperandsOk (a : MbArgs) (ms : List Word) : Prop :=
  a.rsv = 0 ∧ ∀ k, k < 8 → (mbWords a).getD k 0 &&& ~~~(ms.getD k 0) = 0

/-- R335: the stage from which a command is accepted is reached. -/
def StageReached (s : State) (n : Nat) : Prop := n ≤ s.stage.toNat ∧ (n = 0 ∨ s.dieRdy ≠ 0)

/-- R332: a command has started, from MBCMD or over MCTP: its results are cleared and RUN reads 1. -/
def started (s : State) (op : Nat) (a : MbArgs) (mctp : Bool) : State :=
  { s with mbox := { s.mbox with
    res := List.replicate 8 0, run := true, tag := a.tag, status := 0, op := BitVec.ofNat 16 op, held := mbWords a
    mctp := mctp } }

/-- R332: a command has ended with a status and results, which the reply to one that came over MCTP carries after
MBSTAT. -/
def answered (s : State) (st : BitVec 8) (res : List Word) : State :=
  let words := (List.range 8).map fun k => res.getD k 0
  { s with
    mbox := { s.mbox with run := false, status := st, res := words }
    mctp := if s.mbox.mctp then BitVec.ofNat 64 (s.mbox.tag.toNat * 2 ^ 32 + st.toNat) :: words else s.mctp }

/-- R332, R333, R335: a command that no other one keeps from starting, in its stage and with legal operand bits. -/
def Accepts (s : State) (i : Instr) : Prop :=
  ∃ op n a ms, cmdForm i = some (op, n, a, ms) ∧ s.mbox.run = false ∧ StageReached s n ∧ OperandsOk a ms

/-- R332: the state once a command has started, over MCTP (log 76). -/
def begun (s : State) (i : Instr) : State :=
  match cmdForm i with
  | some (op, _, a, _) => started s op a true
  | none => s

/-- A host range that a command may use. -/
def HostOk (s : State) (a : Word) (n al : Nat) : Prop :=
  a.toNat + n ≤ 2 ^ 56 ∧ a.toNat % al = 0 ∧ s.hostRefuses a.toNat n = false

/-- R327: a complete area of a context is restored on a core whose slot is free. -/
def RestoredAs (s t : State) (ctx : BitVec 16) (area core : Nat) : Prop :=
  ∃ c a, s.ctxOf ctx = some c ∧ c.saved.find? (fun x => x.area == area) = some a ∧ a.complete = true ∧
    s.dieRdy.getLsbD (core / 32) = true ∧ s.slotFree core a.slot = true ∧ s.coreAgrees core a.kept.crews = true ∧
    s.restoreCrew ctx area (BitVec.ofNat 2 (core / 32)) (BitVec.ofNat 5 (core % 32)) = .ok t

/-- R342: a capture. -/
def captured1 (c : Counter) : Counter :=
  { c with
    total := c.total + BitVec.ofNat 64 (c.cnt.toNat + 2 ^ 64 - c.base.toNat + c.carry.toNat * (2 ^ 32 - c.reload.toNat))
    base := c.cnt, carry := 0 }

/-- R343: a sweep-and-zero. -/
def cleared (c : Counter) : Counter := { captured1 c with cnt := 0, base := 0 }

/-- R339, R355: the counter that MBARG0 names. -/
def named (s : State) (a : MbArgs) : Counter := s.counter (a.a0.setWidth 8) (a.a0.extractLsb' 16 9)
def CounterOk (a : MbArgs) : Prop := eventOk (a.a0.toNat % 256) (a.a0.toNat / 65536 % 512) = true
end Sys2Proof.Spec

open Sys2Proof Sys2Proof.Machine Sys2Proof.Spec

/-! ## Registers and scalar instructions -/

/-- R45: s0 reads as zero and discards writes; s1 to s15 are the thread's own, and sn from 16 on is backing register
8 × WB + (n − 16), wherever the window stands, so that moving it changes no content; writing a register changes what
that register reads and nothing that any other one reads, and it is what an instruction's write of its destination
makes of the thread in front. Neither a write, a merge of flags nor the step to the next instruction touches anything
else. -/
def Obligations.ScalarRegisterWrite : Prop :=
  (∀ (t : Thread) (v : Word), t.csr.wb.toNat ≤ 27 →
    t.get 0 = 0 ∧ t.set 0 v = t ∧
    (∀ n : Fin 56, 0 < n.val → t.get n.val = if n.val < 16 then t.regs.toList.getD n.val 0 else
      (t.regs.toList.drop 16).getD (8 * t.csr.wb.toNat + (n.val - 16)) 0) ∧
    (∀ n m : Fin 56, n ≠ 0 → (t.set n.val v).get m.val = if m = n then v else t.get m.val) ∧
    ∀ w : BitVec 5, w.toNat ≤ 27 → { t with csr := { t.csr with wb := w } }.regs = t.regs) ∧
  (∀ (s : State) (n : Fin 56) (v : Word), s.put (.s n) v = { s with thr := s.thr.set n.val v }) ∧
  (∀ (s : State) (o : Opd) (v : Word) (f : FF), ∃ r h g,
    s.put o v = { s with thr := { s.thr with regs := r, hist := h } } ∧
    s.adv = { s with thr := { s.thr with pc := s.thr.pc + 4 } } ∧
    s.thr.mergeF f = { s.thr with fflags := s.thr.fflags ||| f, hist := g })

/-- R86, R88, R89: the integer instructions complete, with the result of the rules' tables in d, the pc at the next
instruction, and nothing else changed; sel takes a where the old d is not zero, else b.
R86: what clz, ctz and popc count: the bits above a result of clz are zero and the one it stops at is set,
the same from below for ctz, and popc counts the set bits.
R87: with b not zero, quotient and remainder satisfy a = q × b + rem, signed and unsigned, the remainder is
smaller than b and has the sign of a; -2^63 divided by -1 gives -2^63 and remainder 0. -/
def Obligations.IntegerResults : Prop :=
  (∀ (i : Instr) (d a b : Opd) (f : Word → Word → Word) (s : State),
      intForm i = some (d, a, b, f) → Readable s a → Readable s b → Writable s d →
      exec i s = .next ((s.put d (f (val s a) (val s b))).adv)) ∧
  (∀ (d a b : Opd) (s : State), Readable s a → Readable s b → Writable s d →
      exec (.sel d a b) s = .next ((s.put d (if val s d = 0 then val s b else val s a)).adv)) ∧
  (∀ x : Word,
      ((clz64 x).toNat ≤ 64 ∧ (∀ i, 64 ≤ i + (clz64 x).toNat → i < 64 → x.getLsbD i = false) ∧
        ((clz64 x).toNat < 64 → x.getLsbD (63 - (clz64 x).toNat) = true)) ∧
      ((ctz64 x).toNat ≤ 64 ∧ (∀ i, i < (ctz64 x).toNat → x.getLsbD i = false) ∧
        ((ctz64 x).toNat < 64 → x.getLsbD (ctz64 x).toNat = true)) ∧
      (popc64 x).toNat = ((List.range 64).map fun i => if x.getLsbD i then 1 else 0).sum) ∧
  (∀ x y : Word, y ≠ 0 →
      ((divU x y).1.toNat * y.toNat + (remU x y).1.toNat = x.toNat ∧ (remU x y).1.toNat < y.toNat) ∧
      ((divS x y).1 * y + (remS x y).1 = x ∧ (remS x y).1.toInt.natAbs < y.toInt.natAbs ∧
        (0 ≤ x.toInt → 0 ≤ (remS x y).1.toInt) ∧ (x.toInt ≤ 0 → (remS x y).1.toInt ≤ 0)) ∧
      (divS (BitVec.intMin 64) (-1)).1 = BitVec.intMin 64 ∧ (remS (BitVec.intMin 64) (-1)).1 = 0)

/-! ## Control transfer -/

/-- R82, R87, R90, R91, R92: the divisions, and the floating-point, compare and convert instructions, complete: the
result in d, the flags merged into fflags, the pc at the next instruction, nothing else changed; the fused
multiply-adds give a × b + d rounded once. R85, R291: while the writes that they record find no room in the history
buffer, they wait. -/
def Obligations.FlaggedResults : Prop :=
  (∀ (i : Instr) (d a b : Opd) (f : Rm → Word → Word → Word × FF) (s : State),
      flagForm i = some (d, a, b, f) → Readable s a → Readable s b → Writable s d →
      let r := f (rmOf s.thr.csr.frm) (val s a) (val s b)
      Kept i s (((s.put d r.1).modThr fun t => t.mergeF r.2).adv)) ∧
  (∀ (d a b : Opd) (s : State), Readable s a → Readable s b → Writable s d →
      (let r := fmt64.fma (rmOf s.thr.csr.frm) (val s a).toNat (val s b).toNat (val s d).toNat
       Kept (.ffmaF64 d a b) s (((s.put d (BitVec.ofNat 64 r.bits)).modThr fun t => t.mergeF r.fl).adv)) ∧
      (let r := fmt32.fma (rmOf s.thr.csr.frm) ((val s a).toNat % 2 ^ 32) ((val s b).toNat % 2 ^ 32) ((val s d).toNat % 2 ^ 32)
       Kept (.ffmaF32 d a b) s (((s.put d (BitVec.ofNat 64 r.bits)).modThr fun t => t.mergeF r.fl).adv)))

/-- R57, R93: a compare branch jumps to pc + 4 times its offset where its condition holds, and goes on to the next
instruction where it does not. R94: a predicate branch jumps where the predicate holds the tested value; on a
predicate that holds 0b11 it raises FLT_ILLEGAL_INSTR. R95: call and jr link pc + 4 and jump, jr to the old value of
a with bits 1:0 clear. Nothing else changes. -/
def Obligations.ControlTransfer : Prop :=
  (∀ (i : Instr) (r : BitVec 6) (a : Opd) (off : BitVec 11) (c : Word → Word → Bool) (s : State),
      branchForm i = some (r, a, off, c) → r.toNat < 56 → Readable s (regOf6 r) → Readable s a →
      exec i s = .next (jump s (if c (val s (regOf6 r)) (val s a) then s.thr.pc + 4 * off.signExtend 56 else s.thr.pc + 4))) ∧
  (∀ (i : Instr) (p : BitVec 3) (off : BitVec 18) (v : BitVec 2) (s : State), predForm i = some (p, off, v) →
      (s.thr.pr[Fin.ofNat 8 p.toNat] ≠ 3 →
        exec i s = .next (jump s (if s.thr.pr[Fin.ofNat 8 p.toNat] = v then s.thr.pc + 4 * off.signExtend 56 else s.thr.pc + 4))) ∧
      (s.thr.pr[Fin.ofNat 8 p.toNat] = 3 → exec i s = .next (s.raise { code := fltIllegal }))) ∧
  (∀ (d a : Opd) (i : BitVec 18) (s : State), Writable s d →
      exec (.call d i) s = .next (jump (s.put d ((s.thr.pc + 4).setWidth 64)) (s.thr.pc + 4 * i.signExtend 56)) ∧
      (Readable s a →
        exec (.jr d a) s = .next (jump (s.put d ((s.thr.pc + 4).setWidth 64)) (((val s a).setWidth 56) &&& ~~~(3 : BitVec 56)))))

/-- R53, R54, R55, R96: crd completes with the word of the control register in d, whatever its number from 0 to
20; a larger number raises FLT_ILLEGAL_INSTR.
R50, R54: crd of fflags or iflags, and cwr to either or to vcfg, wait while a vector instruction of the
thread is uncommitted. The model's readings: in a trio vscfg reads as the issuing thread's own word (log 16). -/
def Obligations.ControlRegisterReads : Prop :=
  (∀ (d : Opd) (b : BitVec 7) (s : State), Writable s d →
      (b = 0 → VlSettled s) → (b = 5 ∨ b = 7 → s.thr.vq = []) →
      (b.toNat ≤ 20 → exec (.crd d b) s = .next ((s.put d (creg s b.toNat)).adv)) ∧
      (20 < b.toNat → exec (.crd d b) s = .next (s.raise { code := fltIllegal }))) ∧
  (∀ (o : Opd) (b : BitVec 7) (s : State), s.thr.vq ≠ [] → Readable s o →
      (b = 5 ∨ b = 7 → exec (.crd o b) s = .next (s.mark .vectorQueue) ∧
        exec (.cwr o b) s = .next (s.mark .vectorQueue)) ∧
      (s.crew.trio = false → s.unforked = true → exec (.cwr o 1) s = .next (s.mark .vectorQueue)))

/-- R50, R53, R54, R55, R96: cwr completes with the fields of the register written where the value is in range,
raises FLT_OPERAND where it is not, and FLT_ILLEGAL_INSTR, FLT_CREW_MODE or FLT_PRIV where the register may not
be written so; only vcfg, fflags and iflags wait for the thread's vector instructions. The model's readings: a write of
rmode, prcfg or cbsel is recorded in the history buffer too (log 22), and a cwr of vcfg leaves the current grant (log
57). -/
def Obligations.ControlRegisterWrites : Prop :=
  ∀ (a : Opd) (b : BitVec 7) (s : State),
    (∀ c, cwrFault s b.toNat = some c → exec (.cwr a b) s = .next (s.raise { code := c })) ∧
    (cwrFault s b.toNat = none → Readable s a → s.thr.histRoom = true → (b = 1 ∨ b = 5 ∨ b = 7 → s.thr.vq = []) →
      (b = 0 → s.thr.needVl = false) → (b = 18 → s.crew.pend = false) → (b = 9 → s.rplOf s.crew.ctx = none) →
      (cregFits s b.toNat (val s a) → exec (.cwr a b) s = .next ((cregWrite s b.toNat (val s a)).adv)) ∧
      (¬cregFits s b.toNat (val s a) → exec (.cwr a b) s = .next (s.raise { code := fltOperand })))

/-- R97: wbase writes the old WB to d and moves the window by a, read under the old window, where the result lies
in 0 to 27, and else raises FLT_OPERAND; a d of s16 to s55 raises FLT_ILLEGAL_INSTR. -/
def Obligations.WindowMove : Prop :=
  ∀ (d a : Opd) (s : State), Writable s d →
    (opdNum d < 16 → Readable s a → s.thr.histSpace (if opdNum d = 0 then 1 else 2) = true →
      let n := (s.thr.csr.wb.toNat : Int) + (val s a).toInt
      (0 ≤ n ∧ n ≤ 27 → exec (.wbase d a) s =
        .next ((putCsr (s.put d (s.thr.csr.wb.setWidth 64)) { s.thr.csr with wb := BitVec.ofInt 5 n }).adv)) ∧
      (¬(0 ≤ n ∧ n ≤ 27) → exec (.wbase d a) s = .next (s.raise { code := fltOperand }))) ∧
    (16 ≤ opdNum d → exec (.wbase d a) s = .next (s.raise { code := fltIllegal }))

/-- R28, R29, R99: strip subtracts vl from the count, moves its pointers on, and with a count left takes the next
grant and branches; with none left vl becomes 0 and it falls through. R85, R291: each register it writes, and vl where
it takes a length, needs room in the history buffer. R350: in a step a computer or storer waits until its next length
has come. R295: the next grant is that of the shipped scheduler (for a bound that is no multiple of 64 the
model's reading, log 25).
R100: setvl sets vl and the current grant to min(a, MVL × 4 ÷ size(GSZ)), writes it to d and closes the
ordering interval; in a trio-mode crew it raises FLT_CREW_MODE. -/
def Obligations.StripAndSetvl : Prop :=
  (∀ (c p : Opd) (n : BitVec 2) (off : BitVec 9) (s : State),
      opdNum c ≠ 0 → opdNum p + n.toNat ≤ 55 → (opdNum p ≠ 0 ∨ n = 0) → VlSettled s →
      s.rplOf s.crew.ctx = none → Readable s c → (∀ k, k ≤ n.toNat → Readable s (reg (opdNum p + k))) →
      (s.thr.csr.vl.toNat ≤ (val s c).toNat →
        let s2 := bumped (s.put c (val s c - s.thr.csr.vl.setWidth 64)) (opdNum p) n.toNat s.thr.csr.vl.toNat
        let writes := if opdNum p = 0 then 1 else n.toNat + 2
        let awaits : Prop := s.thr.role = .computer ∨ s.thr.role = .storer
        (val s2 c = 0 → s.thr.histSpace (writes + 1) = true → exec (.strip c p n off) s =
          .next ((putCsr (consumed s2) { s.thr.csr with vl := 0, grant := 0 }).adv)) ∧
        (val s2 c ≠ 0 → (awaits → s.thr.histSpace writes = true ∧
            (s.crew.stepping = none ∨ s.crew.consumed[s.thr.strips + 1]? ≠ none)) →
          (¬awaits → s.thr.histSpace (writes + 1) = true) → exec (.strip c p n off) s =
          .next (jump (granted (consumed s2) (val s2 c).toNat) (s.thr.pc + 4 * off.signExtend 56)))) ∧
      ((val s c).toNat < s.thr.csr.vl.toNat → exec (.strip c p n off) s = .next (s.raise { code := fltOperand }))) ∧
  (∀ (d a : Opd) (s : State),
      (s.crew.trio = false → VlSettled s → Readable s a → Writable s d →
        s.thr.histSpace (if opdNum d = 0 then 1 else 2) = true →
        let v := Nat.min (val s a).toNat (s.mvl * 4 / s.thr.csr.gsz)
        let s1 := (putCsr s { s.thr.csr with vl := BitVec.ofNat 18 v, grant := BitVec.ofNat 18 v }).put d (BitVec.ofNat 64 v)
        exec (.setvl d a) s = .next { s1 with thr := { s1.thr with pc := s1.thr.pc + 4, interval := s1.thr.interval + 1 } }) ∧
      (s.crew.trio = true → exec (.setvl d a) s = .next (s.raise { code := fltCrewMode })))

/-! ## Faults, traps and the end of a task -/

/-- R28: a grant for elements of sz bytes is at most what remains and the bound MVL × 4 ÷ sz, at least
min(remaining, 64), and a multiple of 64 or all that remains, wherever the bound admits 64 elements. -/
def Obligations.GrantBounds : Prop :=
  ∀ (slow : Bool) (mvl rem sz : Nat), 64 ≤ mvl * 4 / sz → let g := grantOf slow mvl rem sz
    g ≤ Nat.min rem (mvl * 4 / sz) ∧ Nat.min rem 64 ≤ g ∧ (g % 64 = 0 ∨ g = rem)

/-- R63, R101: a word that is no instruction raises FLT_ILLEGAL_INSTR, and trap raises FLT_TRAP with its code and
the value of a; a fault found at issue is taken once the thread's vector instructions have committed, its held
store has performed and a speculative task is the oldest, and waits until then. -/
def Obligations.FaultsAtIssue : Prop :=
  ∀ (w : BitVec 32) (a : Opd) (b : BitVec 7) (t : Trap) (s : State),
    exec (.illegalInstruction w) s = .next (s.raise { code := fltIllegal }) ∧
    (b.toNat < 56 → Readable s a →
      exec (.trap a b) s = .next (s.raise { code := fltTrap, obj := b.setWidth 64, value := val s a })) ∧
    (56 ≤ b.toNat → exec (.trap a b) s = .next (s.raise { code := fltIllegal })) ∧
    (Due s → s.raise t = s.takeTrap t) ∧
    (s.thr.vq ≠ [] → s.raise t = s.mark .vectorQueue) ∧
    (s.thr.vq = [] → s.thr.held ≠ none → s.raise t = s.mark .performed) ∧
    (s.thr.vq = [] → s.thr.held = none → s.crew.speculating = true → s.raise t = s.mark .oldest)

/-- R318: the handler of a trap starts in the slot that the trapped crew left: solo, privileged, in the driver's
context, at the entry, with s3 the pool handle, s4 the area's offset, s5 to s12 the fault record and s13 the
context number.
R317: the eight words of a fault record: code, role, forked context and element in word 0, then pc, address,
object and value. -/
def Obligations.HandlerStarts : Prop :=
  (∀ (c : Crew) (t : Thread) (f : Trap), t.idx < 4 →
      (faultOf c t f).words = [
        BitVec.ofNat 64 (f.code.toNat * 2 ^ 48 + (match t.role with | .solo => 0 | .loader => 1 | .computer => 2 | .storer => 3) * 2 ^ 43 +
          (if c.trio then 0 else t.idx) * 2 ^ 40 + (match f.elem with | some e => 2 ^ 35 + e % 2 ^ 18 | none => 0)),
        t.pc.setWidth 64, f.addr, f.obj, f.value, 0, 0, 0]) ∧
  (∀ (s : State) (c : Crew) (g : TrapCfg) (area : Nat) (f : FaultRec) (cfg : Word),
      s.codeObj g.drv g.entry = .good cfg → s.codeBad g.drv g.entry = none → cfg.getLsbD 24 = false →
      mvlOf (s.capOf c.coreIx) c.crews (cfg.extractLsb' 0 2) ≠ 0 → s.rplOf g.drv = none →
      let t := s.startHandler c g area f
      t.live = true ∧ t.crew.priv = true ∧ t.crew.trio = false ∧ t.crew.ctx = g.drv ∧ t.thr.role = .solo ∧
        (t.crew.die, t.crew.core, t.crew.slot) = (c.die, c.core, c.slot) ∧
        t.crew.handler = some { ctx := c.ctx, area := area, fault := f } ∧
        t.thr.pc = g.entry.setWidth 56 ∧ t.thr.life = .run ∧
        t.thr.get 3 = g.pool ∧ t.thr.get 4 = BitVec.ofNat 64 area ∧
        (∀ i, i < 8 → t.thr.get (5 + i) = f.words.getD i 0) ∧ t.thr.get 13 = c.ctx.setWidth 64 ∧
        (∀ n, n = 1 ∨ n = 2 ∨ 14 ≤ n → n < 56 → t.thr.get n = 0))

/-- R315, R321: a trap taken in a solo crew whose context has a handler and room in its pool saves the crew: its
threads as they stopped, its area at the top of the pool and its core image at the floor of what is used from the end
(log 70), the crew out of its slot, and the handler started for the fault. -/
def Obligations.TrapSavesCrew : Prop :=
  ∀ (s : State) (t : Trap) (cx : Ctx) (g : TrapCfg) (x : Nat) (e : CabEntry),
    Due s → s.live = true → s.thr.idx = 0 → s.thr.unperf = [] → s.mates = [] → s.others = [] → s.ops = [] →
    s.crew.handler = none → s.crew.lend = none → s.crew.poison = [] → s.crew.stop = none → s.ctxOf s.crew.ctx = some cx →
    cx.dbg = none → cx.trc = none → cx.trap = some g → s.poolExt s.crew.ctx = some (x, e) → s.tolerant? x = none →
    s.poolTop s.crew.ctx + areaBytes s.crew + imageArea ≤ s.poolFloor s.crew.ctx (e.cap * e.recSize) →
    ∃ (s1 : State) (sv : SavedCrew), s.takeTrap t = s1.startHandler sv.kept g sv.area (faultOf s.crew s.thr t) ∧
      (∃ cx1 : Ctx, s1.ctxOf s.crew.ctx = some cx1 ∧ cx1.saved = cx.saved ++ [sv] ∧ cx1.st = .saved ∧
        cx1.images.map CoreImage.off = cx.images.map CoreImage.off ++ [s.poolFloor s.crew.ctx (e.cap * e.recSize) - imageArea]) ∧
      s1.live = false ∧ sv.area = s.poolTop s.crew.ctx ∧ sv.crewId = s.crew.id ∧ sv.complete = true ∧
      (∃ th : Thread, sv.threads = [th] ∧ th.pc = (if t.code = fltTrap then s.thr.pc + 4 else s.thr.pc) ∧
        th.regs = s.thr.regs ∧ th.csr = s.thr.csr ∧ th.fflags = s.thr.fflags ∧ th.iv = s.thr.iv ∧ th.pr = s.thr.pr)

/-- R325, R327: a thread restored from the block that its save wrote is at the same pc, in the same role, with the same
scalar registers, backing registers, control registers, flags, seed, scale fields, predicates, interval registers and
completion mask. -/
def Obligations.ThreadSaveRestore : Prop :=
  ∀ (c : Crew) (t u : Thread) (vcp : Addr) (pt : Word) (seed : BitVec 32) (b : Nat), b < 4 →
    let r := restoreThread (Mem.paste [] (blockOff b) 0x2000 (threadMem c t vcp pt seed)) b u
    r.pc = t.pc ∧ r.role = t.role ∧ (∀ p : Fin 272, p.val ≠ 0 → r.regs[p] = t.regs[p]) ∧
      r.csr.vl = t.csr.vl ∧ r.csr.sdesc = t.csr.sdesc ∧ r.csr.wb = t.csr.wb ∧ r.csr.frm = t.csr.frm ∧
      r.csr.icfg = t.csr.icfg ∧ r.fflags = t.fflags ∧ r.iflags = t.iflags ∧ r.seed = seed ∧
      r.scaleLen = t.scaleLen ∧ r.scaleSz = t.scaleSz ∧ r.pr = t.pr ∧ r.iv = t.iv ∧ r.cmask = t.cmask

/-- R319: eret outside privileged mode raises FLT_PRIV; in it, once the handler's vector instructions have committed
and every token of the handler's threads is written, the handler leaves its slot and the trapped crew is restored
onto it, and a refused restore kills the trapped context. R358: one that meets an uncorrectable word of the saved area
kills it with FLT_UNCORR, and the frame is withdrawn. -/
def Obligations.EretResumes : Prop :=
  ∀ (s : State),
    ((∀ h, s.crew.handler = some h → s.crew.priv = false) → exec .eret s = .next (s.raise { code := fltPriv })) ∧
    (∀ h, s.crew.handler = some h → s.crew.priv = true → s.thr.vq = [] → s.thr.idx = 0 → s.thr.unperf = [] → s.thr.held = none →
      s.mates = [] → (s.handlerAwaits = true → exec .eret s = .next (s.mark .tokens)) ∧
      (s.handlerAwaits = false → s.repin h.ctx ≠ none →
        (∀ t, s.dropCrew.restoreCrew h.ctx h.area s.crew.die s.crew.core true = .ok t → exec .eret s = .next t) ∧
        (∀ r, s.dropCrew.restoreCrew h.ctx h.area s.crew.die s.crew.core true = .error r →
          exec .eret s = .next (match r with
            | .uncorr d => (s.dropCrew.withdraw (d / 1024)).kill h.ctx (bareFault fltUncorr)
            | _ => s.dropCrew.kill h.ctx (bareFault fltRestoreCapacity)))))

/-- R41: yield has no effect while no pre-emption is requested; with one requested it waits for the thread's vector
instructions (the model's reading, log 6) and then marks the thread ready. R33, R38, R102: halt waits for the thread's vector instructions and
tokens, raises FLT_CREW_MODE in a context with a parent or an unjoined child, and retires the thread; when it was
the last of its task, the crew leaves its slot and its launch has one task less; a timestamped task that is not yet
the oldest keeps what it holds back (R35, R36). -/
def Obligations.YieldAndHalt : Prop :=
  (∀ (s : State),
      (s.crew.prq = false → exec .yield s = .next s.adv) ∧
      (s.crew.prq = true → s.thr.vq = [] →
        exec .yield s = .next { s with thr := { s.thr with pc := s.thr.pc + 4, life := .ready } }) ∧
      (s.crew.prq = true → s.thr.vq ≠ [] → exec .yield s = .next (s.mark .vectorQueue))) ∧
  (∀ (s : State),
      (s.unforked = false → exec .halt s = .next (s.raise { code := fltCrewMode })) ∧
      (s.unforked = true → s.thr.vq ≠ [] → exec .halt s = .next (s.mark .vectorQueue)) ∧
      (s.unforked = true → s.thr.vq = [] → (s.thr.role ≠ .computer ∨ s.crew.lend = none) →
        (s.awaitsToken = true → exec .halt s = .next (s.mark .tokens)) ∧
        (s.awaitsToken = false → s.thr.unperf = [] → s.thr.held = none →
          (s.mates.any (fun t => t.life != .retired) = true →
            exec .halt s = .next { s with thr := { s.thr with life := .retired } }) ∧
          (∀ sp, s.mates = [] → s.crew.handler = none → s.crew.spec = some sp →
            exec .halt s = .next { s.dropCrew with tasks := s.tasks.map fun (x : TTask) =>
              if x.id = sp.task then { x with st := .retired, kept := if sp.oldest then none else some s.crew } else x }) ∧
          (s.mates = [] → s.crew.handler = none → s.crew.spec = none →
            (s.crew.launch = none → exec .halt s = .next s.dropCrew) ∧
            (∀ l, s.crew.launch = some l.id → s.launches.find? (fun x => x.id == l.id) = some l → 1 < l.left →
              exec .halt s = .next { s.dropCrew with
                launches := s.launches.map fun (x : Launch) => if x.id = l.id then { x with left := x.left - 1 } else x })))))

/-! ## Scalar memory, waits and fences -/

/-- R237, R238, R239: a load completes with the bytes at a + displacement × size in d, extended as its size says,
from the scratchpad, a signal word of this package or host memory; a signal word of another package that the
fabric holds in service gives a value that nothing here decides, or zero where the line is another owner's (log 1), and
leaves over a port (R361; log 40). R339: a read of a signal word counts. Nothing else changes. R247, R254: while an earlier store is held back, or a vector memory instruction that a fence.vs
orders before it has not performed, the load waits. -/
def Obligations.ScalarLoads : Prop :=
  ∀ (d a : Opd) (x : BitVec 8) (z : LdSize) (s : State),
    Readable s a → Writable s d → s.crew.spec = none → Unwatched s →
    let n := (loadForm z).1
    let addr := val s a + x.signExtend 64 * BitVec.ofNat 64 n
    (Reachable s .load addr n →
      (ScalarFree s → exec (.ld d a x z) s = .next (((sigUse s addr 0).put d ((loadForm z).2 (seen s addr n))).adv)) ∧
      (¬ScalarFree s → exec (.ld d a x z) s = .next (s.mark .performed))) ∧
    (ScalarFree s → addr.toNat / 2 ^ 32 = 2 ^ 30 → addr.toNat % n = 0 → addr.extractLsb' 23 9 ≠ s.pkg →
      s.sigReach addr = true →
      (s.sigMine s.owner addr = false → exec (.ld d a x z) s = .next (((s.sendScalar addr).put d 0).adv)) ∧
      (s.sigMine s.owner addr = true → ∃ v, v < 2 ^ (8 * n) ∧
        exec (.ld d a x z) s = .next (((s.drawn.sendScalar addr).put d ((loadForm z).2 v)).adv)))

/-- R237, R239, R254: a store completes: with no vector instruction of the thread uncommitted the low bytes of d
stand at a + displacement × size, and otherwise the store is held until the earlier ones have committed. R339: a write
of a signal word counts. Nothing else changes. -/
def Obligations.ScalarStores : Prop :=
  ∀ (d a : Opd) (x : BitVec 8) (z : StSize) (s : State),
    Readable s a → Readable s d → ScalarFree s → s.crew.spec = none → Unwatched s →
    let n := storeLen z
    let addr := val s a + x.signExtend 64 * BitVec.ofNat 64 n
    Reachable s .store addr n →
    (s.thr.vq = [] → exec (.st d a x z) s = .next ((sigUse (stored s addr (leBytes n (val s d).toNat)) addr 1).adv)) ∧
    (s.thr.vq ≠ [] → exec (.st d a x z) s = .next { s with thr := { s.thr with
      pc := s.thr.pc + 4, held := some { addr := addr, bytes := leBytes n (val s d).toNat, seq := s.thr.vseq, fenced := false } } })

/-- R3, R115, R313: after bytes are stored in a scratchpad, its owner reads them there and every other byte as
before, on every core; another owner reads every other line as before. -/
def Obligations.ScratchpadStoreFrame : Prop :=
  ∀ (s : State) (core : Nat) (owner : BitVec 10) (a : Nat) (bs : List Byte), core < 128 → a + bs.length ≤ 0x300000 →
    let t := s.spadPut core owner a bs
    t.spadBytes core owner a bs.length = bs ∧
    (∀ c k, c < 128 → k < 0x300000 → (c ≠ core ∨ k < a ∨ a + bs.length ≤ k) → t.spadBytes c owner k 1 = s.spadBytes c owner k 1) ∧
    (∀ o c k, c < 128 → k < 0x300000 → (c ≠ core ∨ k / 64 * 64 + 64 ≤ a ∨ a + bs.length ≤ k / 64 * 64) →
      t.spadBytes c o k 1 = s.spadBytes c o k 1) ∧
    { t with spad := s.spad, spadTag := s.spadTag } = s

/-- R237, R241: an atomic completes: d takes the old word, sign-extended where it is a .w, and the word what the
instruction makes of the old word, s(b) and, for cas, s(d) at its width; a form that PCIe does not have raises
FLT_OPERAND on host memory. R339: an atomic at a signal word counts. Nothing else changes. -/
def Obligations.AtomicResults : Prop :=
  ∀ (i : Instr) (d a b : Opd) (s : State),
    Readable s a → Readable s b → Writable s d → s.thr.vq = [] → ScalarFree s → s.crew.spec = none → Unwatched s →
    (∀ f : BitVec 64 → BitVec 64 → BitVec 64 → Option (BitVec 64), atomicForm i = some (d, a, b, .d, f) →
      (Reachable s .atomic (val s a) 8 → ((val s a).toNat / 2 ^ 62 = 2 → hostAtomic i = true) →
        let old := BitVec.ofNat 64 (seen s (val s a) 8)
        exec i s = .next (((sigUse (match f old (val s b) (val s d) with
          | some v => stored s (val s a) (leBytes 8 v.toNat)
          | none => s) (val s a) 2).put d old).adv)) ∧
      ((val s a).toNat / 2 ^ 62 = 2 → hostAtomic i = false →
        exec i s = .next (s.raise { code := fltOperand, addr := val s a }))) ∧
    (∀ f : BitVec 32 → BitVec 32 → BitVec 32 → Option (BitVec 32), atomicForm i = some (d, a, b, .w, f) →
      (Reachable s .atomic (val s a) 4 → ((val s a).toNat / 2 ^ 62 = 2 → hostAtomic i = true) →
        let old := BitVec.ofNat 32 (seen s (val s a) 4)
        exec i s = .next (((sigUse (match f old ((val s b).setWidth 32) ((val s d).setWidth 32) with
          | some v => stored s (val s a) (leBytes 4 v.toNat)
          | none => s) (val s a) 2).put d (old.signExtend 64)).adv)) ∧
      ((val s a).toNat / 2 ^ 62 = 2 → hostAtomic i = false →
        exec i s = .next (s.raise { code := fltOperand, addr := val s a })))

/-- R64, R237, R238, R239, R241, R243: a scalar load, store, atomic or waitc at an address whose SPACE bits are
not legal raises FLT_OPERAND; at a legal one that is not a multiple of the size, FLT_ALIGN; at an unreachable
signal address, or at a host address where the IOMMU refuses or PCIe has an error, FLT_HOST; and a store, atomic or
waitc on a signal line of another owner, FLT_SIGNAL. -/
def Obligations.ScalarAccessFaults : Prop :=
  ∀ (i : Instr) (a : Opd) (addr : Word) (n : Nat) (k : AccKind) (s : State),
    accessOf s i = some (a, addr, n, k) → Readable s a → (∀ o ∈ accessReads i, Readable s o) →
    ((val s a).toNat / 2 ^ 62 = 2 → k = .atomic → hostAtomic i = true ∨ ∃ d b, i = .waitc d a b) →
    (addrOk addr = false → exec i s = .next (s.raise { code := fltOperand, addr := addr })) ∧
    (addrOk addr = true → addr.toNat % n ≠ 0 → exec i s = .next (s.raise { code := fltAlign, addr := addr })) ∧
    (addr.toNat / 2 ^ 32 = 2 ^ 30 → addr.toNat % n = 0 →
      (s.sigReach addr = false → exec i s = .next (s.raise { code := fltHost, addr := addr })) ∧
      (s.sigReach addr = true → k ≠ .load → s.sigMine s.owner addr = false →
        exec i s = .next (s.raise { code := fltSignal, addr := addr }))) ∧
    (addr.toNat / 2 ^ 56 = 2 ^ 7 → addr.toNat % n = 0 → s.hostBad addr n = true →
      exec i s = .next (s.raise { code := fltHost, addr := addr }))

/-- R247, R248: fence.sv, fence.vs and fence.ee let every other instruction pass: fence.sv only makes later vector
memory instructions wait for a store that is held back, fence.vs later scalar accesses for the vector memory
instructions before it, fence.ee later transfers for those now pending; vdrain passes once the thread's vector
instructions have committed and performed.
R249: tfence outside privileged mode raises FLT_PRIV; in it, once every earlier store and transfer of the
thread has performed, it drops its context's cached translations in its scope (in a handler task those of the trapped
context too, log 13) and nobody else's, and passes at once or when the translating transfers then pending in the scope, and the
run stores then committed there with bound pages, have completed. -/
def Obligations.Fences : Prop :=
  (∀ (x : Scope) (s : State),
      exec (.fenceSv x) s = .next { s with thr := { s.thr with
        pc := s.thr.pc + 4, held := s.thr.held.map fun h => { h with fenced := true } } } ∧
      (∀ (h : Held) (e : VEntry) (rs : Ranges), s.thr.held = some h → h.fenced = true → h.seq < e.seq →
        s.vecRoom e rs = .error (.stall .performed)) ∧
      exec (.fenceVs x) s = .next { s with thr := { s.thr with pc := s.thr.pc + 4, vsFence := s.thr.vseq } } ∧
      (s.thr.vq = [] → s.thr.unperf = [] → exec .vdrain s = .next s.adv) ∧
      (s.thr.vq ≠ [] → exec .vdrain s = .next (s.mark .vectorQueue)) ∧
      (s.thr.vq = [] → s.thr.unperf ≠ [] → exec .vdrain s = .next (s.mark .performed)) ∧
      exec (.fenceEe x) s = .next { s with thr := { s.thr with pc := s.thr.pc + 4, eeWait := s.transfersLeft } }) ∧
  (∀ (x : Scope) (s : State),
      (s.crew.priv = false → exec (.tfence x) s = .next (s.raise { code := fltPriv })) ∧
      (s.crew.priv = true → s.thr.tfWait = none → s.thr.vq = [] → s.thr.unperf = [] → s.thr.held = none →
        s.transfersLeft = [] →
        let me := s.crew.coreIx
        let inScope (c : Nat) : Bool := match x with
          | .crew | .core => c == me
          | .octet => c / 8 == me / 8
          | .die => c / 32 == me / 32
          | .domain | .system => true
        let mine (c : BitVec 16) : Prop := c = s.crew.ctx ∨ ∃ h, s.crew.handler = some h ∧ h.ctx = c
        let bound : TfWait := {
          ops := (s.ops.filter fun o => o.translate && inScope o.core).map Op.id
          stores := ((s.crews.filter fun p => inScope p.1.coreIx).map fun p => (p.2.map fun t =>
            (t.unperf.filter fun u => !u.pages.isEmpty).map fun u => (p.1.id, t.idx, u.seq)).flatten).flatten }
        ∃ t : State, exec (.tfence x) s = .next
            (if bound.ops = [] ∧ bound.stores = [] then t.adv else { t with thr := { t.thr with tfWait := some bound } }) ∧
          t.thr = s.thr ∧ t.crew = s.crew ∧ t.mates = s.mates ∧ t.others = s.others ∧ t.ops.map Op.id = s.ops.map Op.id ∧
          t.ctxs.map Ctx.ctx = s.ctxs.map Ctx.ctx ∧
          (∀ c ∈ t.ctxs, mine c.ctx → ∀ e ∈ c.tlb, inScope e.core = false) ∧
          (∀ c ∈ s.ctxs, ¬mine c.ctx → c ∈ t.ctxs) ∧
          ((∀ o ∈ s.ops, o.translate = true → inScope o.core = true → ¬mine o.ctx) →
            { t with ctxs := s.ctxs } = s ∧ ∀ c ∈ s.ctxs, mine c.ctx →
              { c with tlb := c.tlb.filter fun e => !inScope e.core } ∈ t.ctxs)) ∧
      (∀ l, s.crew.priv = true → s.thr.tfWait = some l →
        let left : Prop := (∃ o ∈ s.ops, o.id ∈ l.ops) ∨
          ∃ p ∈ s.crews, ∃ t ∈ p.2, ∃ u ∈ t.unperf, (p.1.id, t.idx, u.seq) ∈ l.stores
        (¬left → exec (.tfence x) s = .next { s with thr := { s.thr with pc := s.thr.pc + 4, tfWait := none } }) ∧
        (left → exec (.tfence x) s = .next (s.mark .tokens))))

/-- R243: waitc completes with the word in d where it is at least s(b), unsigned, and otherwise sleeps at it.
R244: gcsleep copies its table of n entries from the scratchpad and completes where the condition holds at
issue: .any with a bit in d for each satisfied entry where one is, .all with n one bits where all are; otherwise
it sleeps on the copy with what it has seen. A count outside 1 to 64 raises FLT_OPERAND. R339: each read of a signal
word counts. -/
def Obligations.WaitsAtIssue : Prop :=
  (∀ (d : Fin 56) (a b : Opd) (s : State),
      Readable s a → Readable s b → Writable s (.s d) → ScalarFree s → s.crew.spec = none → Unwatched s →
      Reachable s .atomic (val s a) 8 →
      let v := seen s (val s a) 8
      ((val s b).toNat ≤ v → exec (.waitc (.s d) a b) s = .next
        (let t := (sigUse s (val s a) 0).put (.s d) (BitVec.ofNat 64 v)
         { t with thr := { t.thr with pc := t.thr.pc + 4, sleep := none } })) ∧
      (v < (val s b).toNat → exec (.waitc (.s d) a b) s = .next
        { sigUse s (val s a) 0 with thr := { s.thr with sleep := some (.waitc (val s a) (val s b) d none) } })) ∧
  (∀ (d : Fin 56) (a b : Opd) (s : State),
      Readable s a → Readable s b →
      let n := (val s b).toNat
      let es := s.waitTable (val s a).toNat n
      let ok := es.map fun e => decide (e.2.toNat ≤ seen s e.1 8)
      let all1 := BitVec.ofNat 64 (2 ^ n - 1)
      let read := es.foldl (fun u e => sigUse u e.1 0) s
      let done (v : Word) : State :=
        let t := read.put (.s d) v
        { t with thr := { t.thr with pc := t.thr.pc + 4, sleep := none } }
      (1 ≤ n → n ≤ 64 → (val s a).toNat % 8 = 0 → (val s a).toNat + 16 * n ≤ 0x300000 →
        s.bufBad s.crew.coreIx s.crew.ctx (val s a).toNat (16 * n) false = none →
        (∀ e ∈ es, Reachable s .atomic e.1 8) → Writable s (.s d) → ScalarFree s → s.crew.spec = none → Unwatched s →
        (maskWord ok ≠ 0 → exec (.gcsleepAny (.s d) a b) s = .next (done (maskWord ok))) ∧
        (maskWord ok = 0 → exec (.gcsleepAny (.s d) a b) s = .next
          { read with thr := { s.thr with sleep := some (.gc false es 0 d) } }) ∧
        (maskWord ok = all1 → exec (.gcsleepAll (.s d) a b) s = .next (done all1)) ∧
        (maskWord ok ≠ all1 → exec (.gcsleepAll (.s d) a b) s = .next
          { read with thr := { s.thr with sleep := some (.gc true es (maskWord ok) d) } })) ∧
      (n = 0 ∨ 64 < n → exec (.gcsleepAny (.s d) a b) s = .next (s.raise { code := fltOperand }) ∧
        exec (.gcsleepAll (.s d) a b) s = .next (s.raise { code := fltOperand })))

/-- R27, R102, R246: bqpush in a trio's loader appends s(a) to bq, and bqpop in its computer removes the oldest
entry into d; a full or an empty bq makes them wait, unless the other side has retired, which raises
FLT_RING_CLOSED (at a full bq the model's reading, log 52); any other thread raises FLT_CREW_MODE. -/
def Obligations.BranchQueue : Prop :=
  ∀ (a d : Opd) (s : State),
    (s.crew.trio = false ∨ s.thr.role ≠ .loader → exec (.bqpush a) s = .next (s.raise { code := fltCrewMode })) ∧
    (s.crew.trio = false ∨ s.thr.role ≠ .computer → exec (.bqpop d) s = .next (s.raise { code := fltCrewMode })) ∧
    (s.crew.trio = true → s.thr.role = .loader → Readable s a → s.thr.vq = [] → s.thr.held = none →
      (s.crew.bq.length < 16 →
        exec (.bqpush a) s = .next { s with crew := { s.crew with bq := s.crew.bq ++ [val s a] }, thr := s.thr.next }) ∧
      (16 ≤ s.crew.bq.length → s.roleRetired .computer = false → exec (.bqpush a) s = .next (s.mark .bq)) ∧
      (16 ≤ s.crew.bq.length → s.roleRetired .computer = true →
        exec (.bqpush a) s = .next (s.raise { code := fltRingClosed }))) ∧
    (s.crew.trio = true → s.thr.role = .computer → Writable s d → s.thr.vq = [] →
      (∀ x r, s.crew.bq = x :: r →
        exec (.bqpop d) s = .next ({ s.put d x with crew := { s.crew with bq := r } }).adv) ∧
      (s.crew.bq = [] → s.roleRetired .loader = false → exec (.bqpop d) s = .next (s.mark .bq)) ∧
      (s.crew.bq = [] → s.roleRetired .loader = true → exec (.bqpop d) s = .next (s.raise { code := fltRingClosed })))

/-! ## Vector instructions -/

/-- R54, R55, R58, R98, R103-R119, R187-R196, R208: with an empty vector queue and nothing that holds the queue
back, every vector instruction whose operands are ready completes: it commits at once with its results in its
destinations, and its pc moves on. Nothing else changes. The model's readings: with lag 0 an instruction commits in the
step that issues it (log 6), and one of vl = 0 whose destination is v1 sets SCALE_LEN to 0 (log 53). -/
def Obligations.VectorResults : Prop :=
  ∀ (i : Instr) (v : VShape) (s : State), vShape i = some v → VReady s v → s.thr.vq = [] → s.lag = 0 →
    let e := captured s i v
    VGood e (entered s e) i →
    exec i s = .next ((committed e (entered s e) (vOut e (entered s e) i)).adv)

/-- R54, R59, R98, R290: a vector instruction that does not commit at once joins the thread's queue with what it
captured at issue, and its pc moves on; with 64 entries in the queue it waits. -/
def Obligations.VectorQueued : Prop :=
  ∀ (i : Instr) (v : VShape) (s : State), vShape i = some v → VReady s v → (s.thr.vq ≠ [] ∨ s.lag ≠ 0) →
    let e := captured s i v
    VGood e s i →
    (s.thr.vq.length < 64 →
      exec i s = .next { s with thr := { s.thr with
        seed := e.seed, vseq := e.seq, pc := s.thr.pc + 4, vq := s.thr.vq ++ [e] } }) ∧
    (64 ≤ s.thr.vq.length → exec i s = .next (s.mark .vectorQueue))

/-- R290, R291: the oldest vector instruction of the queue commits in an event of its own, with the results that
its captured values and the state then give, and leaves the queue; the history entries older than the next one go. A
gather or scatter may first perform in part (R320, log 18): its premise says that it does not. -/
def Obligations.VectorCommits : Prop :=
  ∀ (i : Instr) (v : VShape) (e : VEntry) (rest : List VEntry) (r : TRef) (s : State),
    s.focus r = some s → (Config.performElem s.draw 0 = true → s.headPart = none) → s.thr.vq = e :: rest → e.ins = .ins i → vShape i = some v → v.legal s = true →
    s.mvl ≤ 32768 → s.crew.poison = [] → e.vl * v.size ≤ s.mvl * 4 → (∀ x ∈ e.rin, ∃ h l, s.crew.rings[x] = h :: l ∧ h.count = e.vl) →
    e.rin = (if e.vl = 0 then [] else ringsOf v.srcs) → VGood e s i →
    exec (.vectorCommit r) s = .next
      (let t := committed e s (vOut e s i)
       { t with thr := { t.thr with vq := rest, hist := t.thr.hist.filter fun h => decide (e.seq < h.seq) } })

/-- R43, R63: a vector instruction with an operand of a class that its position does not accept, a register at or
beyond the thread's part, or a ring used against R25, raises FLT_ILLEGAL_INSTR; one whose vl exceeds its limit
raises FLT_OPERAND. The model's choices: vsatn has the limit of twice its width (log 24), and a ring as the offsets of
vgaths or vscats is illegal (log 75). -/
def Obligations.VectorOperandFaults : Prop :=
  ∀ (i : Instr) (v : VShape) (s : State), vShape i = some v →
    (v.legal s = false → exec i s = .next (s.raise { code := fltIllegal })) ∧
    (v.legal s = true → VlSettled s → (∀ o, v.sD = some o ∨ v.sA = some o ∨ v.sB = some o → Readable s o) →
      (∀ o, v.sdst = some o → Writable s o) → VGood (captured s i v) s i →
      s.mvl * 4 < s.thr.csr.vl.toNat * v.size → exec i s = .next (s.raise { code := fltOperand }))

/-- R193: cbload fills the code-table bank that is not active from the first 1,024 bytes of its register and makes
it the active one, once no other thread's earlier instruction still decodes with it; while it is queued the bank counts
as active for later instructions and PEND reads 1. -/
def Obligations.CodeTableLoad : Prop :=
  ∀ (n : Fin 64) (s : State), n.val < (partOf s.crew s.thr.role).2 → s.crew.poison = [] → VlSettled s →
    (if s.crew.trio then s.thr.role = .computer else s.thr.parent = none) →
    let t := s.thr
    let c := s.crew
    let bs := Mem.put [] 0 (s.vBytes n.val 1024)
    let e := captured s (.cbload (.v n)) { vdst := [.v n], size := 0 }
    (t.vq = [] → s.lag = 0 →
      ((∀ u ∈ s.mates, ∀ x ∈ u.vq, x.bank = c.act ∨ c.cbGen < x.gen) → exec (.cbload (.v n)) s = .next { s with
        thr := { t with vseq := t.vseq + 1, pc := t.pc + 4 }
        crew := { c with
          cb0 := (if c.act then bs else c.cb0), cb1 := (if c.act then c.cb1 else bs), act := !c.act, pend := false
          cbGen := c.cbGen + 1 } }) ∧
      ((∃ u ∈ s.mates, ∃ x ∈ u.vq, x.bank ≠ c.act ∧ x.gen ≤ c.cbGen) → exec (.cbload (.v n)) s = .next (s.mark .commit))) ∧
    ((t.vq ≠ [] ∨ s.lag ≠ 0) → t.vq.length < 64 → exec (.cbload (.v n)) s = .next { s with
      thr := { t with vseq := t.vseq + 1, pc := t.pc + 4, vq := t.vq ++ [e] }
      crew := { c with act := !c.act, pend := true, cbGen := c.cbGen + 1 } })

/-- R187, R188: after mma or mmas every element of the rows and columns it names holds the old element and eight
products, rounded once (for i8 their exact sum modulo 2^32); the visible bank, other rows and other accumulators
of the package keep their contents. -/
def Obligations.MatrixElements : Prop :=
  ∀ (s : State) (e : VEntry) (c : BitVec 2) (g : Nat) (a b : Opd) (f : MmaTy) (sc : Nat → Nat → Option Int),
    g ≤ 16 → e.vl ≤ 1024 →
    let t := s.mmaRun e c g a b f sc
    let as := elemsOf (mmaASize f) (8 * g) (bytesOfElems 1 (s.regBytes a (8 * g * mmaASize f)))
    let code (r k : Nat) : Nat := as.getD (8 * r + k) 0 % 2 ^ (if f = .i8 then 8 else (mmaAFmt f).bits)
    let regs (k : Nat) : List Nat := if k ≤ mmaGroup f then s.regBytes (regPlus b k) (mmaBBytes f e.vl) else []
    (∀ r j, r < g → j < e.vl → (t.accRow c 0 r e.vl).getD j 0 =
      (if f = .i8 then
        wrapI 4 (((s.accRow c 0 r e.vl).getD j 0 : Int) +
          ((List.range 8).map fun k => sInt 1 (code r k) * sInt 1 (mmaBCode f regs k j)).sum)
      else (mmaElem (rmOf e.frm) ((s.accRow c 0 r e.vl).getD j 0) ((List.range 8).map fun k =>
        mmaTerm ((mmaAFmt f).decode (code r k)) (mmaBVal s.crew e.bank f regs k j) (sc r j))).1 % 2 ^ 32)) ∧
    (∀ k, (∀ r j, r < g → j < e.vl → k / 4 ≠ accKey s.crew.coreIx c.toNat 0 r j / 4) → t.acc.bytes k 1 = s.acc.bytes k 1) ∧
    t.crew = s.crew ∧ t.spad = s.spad ∧ t.thr.regs = s.thr.regs

/-- R189, R190: mzero makes the working bank zero, mswap exchanges the two banks, mcfg zeroes both and sets the
type, mwr writes the first vl columns of a row of the working bank and leaves its other rows and columns and the visible
bank; each of the four leaves every other accumulator of the package as it was. -/
def Obligations.AccumulatorBanks : Prop :=
  ∀ (s : State) (c : BitVec 2) (e : VEntry) (t : AccTy) (x : BitVec 4) (a : Opd), SMap.wf (n := 8) s.acc = true →
    EngineOk s c → e.vl ≤ 1024 →
    let k (bank row col : Nat) : Nat := accKey s.crew.coreIx c.toNat bank row col
    let z := (vOut e s (.mzero c)).fin s
    let w := (vOut e s (.mswap c)).fin s
    let g := (vOut e s (.mcfg c t)).fin s
    let v := (vOut e s (.mwr c x a)).fin s
    (∀ r j, r < 16 → j < 1024 →
      z.acc.nat (k 0 r j) 4 = 0 ∧ z.acc.nat (k 1 r j) 4 = s.acc.nat (k 1 r j) 4 ∧
      w.acc.nat (k 0 r j) 4 = s.acc.nat (k 1 r j) 4 ∧ w.acc.nat (k 1 r j) 4 = s.acc.nat (k 0 r j) 4 ∧
      g.acc.nat (k 0 r j) 4 = 0 ∧ g.acc.nat (k 1 r j) 4 = 0 ∧
      v.acc.nat (k 1 r j) 4 = s.acc.nat (k 1 r j) 4 ∧
      v.acc.nat (k 0 r j) 4 = (if r = x.toNat ∧ j < (elems e s a 4 e.vl).length then (elems e s a 4 e.vl).getD j 0 % 2 ^ 32
        else s.acc.nat (k 0 r j) 4)) ∧
    (g.accIsInt c = true ↔ t = .i32) ∧
    (∀ q, q / 131072 ≠ k 0 0 0 / 131072 → ∀ u ∈ [z, w, g, v], u.acc.bytes q 1 = s.acc.bytes q 1)

/-- R114, R115, R117, R126, R311: in HANDLES mode a load of elements of a run within LEN completes with them in its
destination, and a store within capacity completes with the active elements at their offsets, LEN raised to cover
them and SORT cleared. R358: a load whose first active element reads a sub-beat with an uncorrectable error raises
FLT_UNCORR at that element, with the frame to withdraw, when it is element 0. -/
def Obligations.RunStreams : Prop :=
  ∀ (d a b : Opd) (m : Bool) (t : ElemTy) (idx : Nat) (c : CabEntry) (s : State), b ≠ .s 0 → s.thr.vq = [] → s.lag = 0 →
    RunNamed s (val s b) idx c → (val s a).toNat % elSize t = 0 →
    (∀ i, i = .vld d a b m t ∨ i = .vldff d a b m t → ∀ v, vShape i = some v → VReady s v → MayRead s c →
      (val s a).toNat + s.thr.csr.vl.toNat * elSize t ≤ c.len * c.recSize →
      let e := captured s i v
      ((∀ j, j < e.vl → s.extBad c.ext (e.sA.toNat + j * elSize t) (elSize t) = none) →
        ((active e s m).any id = true →
          s.vecRoom e [(.run s.crew.ctx idx, e.sA.toNat, e.sA.toNat + e.vl * elSize t, false)] = .ok ()) →
        exec i s = .next ((committed e (entered s e) (placed d (elSize t) (masked e s m fun j =>
          (elemsOf (elSize t) e.vl (runSeen s c e.sA.toNat (e.vl * elSize t))).getD j 0))).adv)) ∧
      (∀ q, (active e s m).getD 0 false = true → s.extBad c.ext e.sA.toNat (elSize t) = some q →
        exec i s = .next (s.raise { code := fltUncorr, elem := some 0, addr := e.sA, obj := val s b, frame := some (q / 1024) }))) ∧
    (∀ v, vShape (.vst d a b m t) = some v → VReady s v → MayWrite s c →
      (val s a).toNat + s.thr.csr.vl.toNat * elSize t ≤ c.cap * c.recSize →
      let e := captured s (.vst d a b m t) v
      let cells := storeCells e s m d (elSize t) fun j => e.sA.toNat + j * elSize t
      let h := hull (elSize t) (cells.map Prod.fst)
      (cells ≠ [] → s.vecRoom e [(.run s.crew.ctx idx, h.1, h.2, true)] = .ok ()) →
      exec (.vst d a b m t) s = .next
        ((committed e (entered s e) { fin := fun s' => s'.storeRun e [] idx c cells }).adv) ∧
      (s.slack = 0 → s.thr.unperf = [] → cells ≠ [] →
        ∃ x c', ((entered s e).storeRun e [] idx c cells).ctxOf s.crew.ctx = some x ∧ kvGet x.cab idx = some c' ∧
          c'.sort = .unsorted ∧ c.len ≤ c'.len ∧ c'.cap = c.cap ∧
          ∀ p ∈ cells, p.1 + p.2.length ≤ c'.len * c'.recSize))

/-- R30, R114, R115, R117: a vldff from the scratchpad, or a vld or vldff from a run in HANDLES mode, whose first stopping
active element f is not element 0 loads the active elements below f, lowers vl to f, sets fflags.FF, shortens the entries
that its loader has written in that strip, and completes; where element 0 stops, the fault is raised with that element.
R358: an element that reads a sub-beat with an uncorrectable error stops a stream. -/
def Obligations.FirstFaultTruncates : Prop :=
  (∀ (d a : Opd) (m : Bool) (t : ElemTy) (f : Nat) (s : State) (v : VShape),
    vShape (.vldff d a (.s 0) m t) = some v → VReady s v → s.thr.vq = [] → s.lag = 0 →
    s.crew.spec = none → s.rplOf s.crew.ctx = none → (∀ c, s.ctxOf s.crew.ctx = some c → c.trc = none) → Unwatched s →
    (val s a).toNat < 2 ^ 22 → (val s a).toNat % elSize t = 0 → f < s.thr.csr.vl.toNat →
    let e := captured s (.vldff d a (.s 0) m t) v
    let act (j : Nat) : Bool := (active e s m).getD j false
    act f = true → (∀ j, j < f → act j = true → s.spadStop e.bufs ((val s a).toNat + j * elSize t) (elSize t) false = none) →
    (∀ x, s.spadStop e.bufs ((val s a).toNat + f * elSize t) (elSize t) false = some (.trap x) →
      (0 < f → ((∃ j, j < f ∧ act j = true) →
          s.vecRoom e [(.spad s.crew.coreIx, e.sA.toNat, e.sA.toNat + f * elSize t, false)] = .ok ()) →
        exec (.vldff d a (.s 0) m t) s = .next
          (truncated (writeTo (entered s e) (whole d (elSize t) ((List.range f).map fun j => if act j then
            some (leNat (s.spadBytes s.crew.coreIx s.owner ((val s a).toNat + j * elSize t) (elSize t))) else none))) e f).adv) ∧
      (f = 0 → exec (.vldff d a (.s 0) m t) s = .next (s.raise { x with elem := some 0 })))) ∧
  (∀ (i : Instr) (d a b : Opd) (m : Bool) (t : ElemTy) (f idx : Nat) (c : CabEntry) (s : State) (v : VShape),
    b ≠ .s 0 → (i = .vld d a b m t ∨ i = .vldff d a b m t) → vShape i = some v → VReady s v → s.thr.vq = [] → s.lag = 0 →
    RunNamed s (val s b) idx c → MayRead s c → (∀ x, s.ctxOf s.crew.ctx = some x → x.trc = none) →
    (val s a).toNat % elSize t = 0 → f < s.thr.csr.vl.toNat →
    let e := captured s i v
    let act (j : Nat) : Bool := (active e s m).getD j false
    let at_ (j : Nat) : Nat := (val s a).toNat + j * elSize t
    let stops (j : Nat) : Prop := c.len * c.recSize < at_ (j + 1) ∨ s.extBad c.ext (at_ j) (elSize t) ≠ none
    act f = true → stops f → (∀ j, j < f → act j = true → ¬stops j) →
    (0 < f → s.vecRoom e [(.run s.crew.ctx idx, at_ 0, at_ f, false)] = .ok () →
      exec i s = .next (truncated (writeTo (entered s e) (whole d (elSize t) ((List.range f).map fun j => if act j then
        some ((elemsOf (elSize t) f (runSeen s c (at_ 0) (f * elSize t))).getD j 0) else none))) e f).adv) ∧
    (f = 0 → c.len * c.recSize < at_ 1 →
      exec i s = .next (s.raise { code := fltRunBounds, elem := some 0, addr := val s a, obj := val s b })))

/-- R119, R320: a gather or scatter that meets a fault first records in the thread's completion mask elements that
have performed and did not fault, once its range finds room in the interlock table (R256), and stays at its pc; the
fault is raised when it is tried again. One whose part
would change an offset or a mask bit that the rest still needs performs no part before its fault (log 18). -/
def Obligations.CompletionMask : Prop :=
  ∀ (i : Instr) (d a b : Opd) (m : Bool) (t : ElemTy) (v : VShape) (s : State),
    (i = .vgaths d a b m t ∨ i = .vscats d a b m t) → vShape i = some v → VReady s v → s.thr.vq = [] → s.lag = 0 →
    s.crew.spec = none → Unwatched s → (∃ n, d = .v n) → s.thr.csr.vl.toNat ≤ s.mvl → s.slack = 0 → s.thr.unperf = [] →
    let e := captured s i v
    let part : Prop := i = .vscats d a b m t ∨ (¬(m = true ∧ d = .v 0) ∧ (d ≠ b ∨ elSize t = 4))
    let stops (j : Nat) : Option Stop := s.farStop e.bufs true (elemAddr e s j) (elSize t) (i = .vscats d a b m t)
    let h := hull (elSize t) ((List.range e.vl).filterMap fun j =>
      if (active e s m).getD j false && !s.thr.cmask.getLsbD j then some (elemAddr e s j) else none)
    (∃ j, j < e.vl ∧ (active e s m).getD j false = true ∧ s.thr.cmask.getLsbD j = false ∧ stops j ≠ none) →
    (s.thr.cover = false → part →
      s.vecRoom e [(.spad s.crew.coreIx, h.1, h.2, decide (i = .vscats d a b m t))] = .ok () → ∃ u, exec i s = .next u ∧ u.thr.pc = s.thr.pc ∧ u.thr.cover = true ∧
      (∀ j, u.thr.cmask.getLsbD j = true → s.thr.cmask.getLsbD j = true ∨
        (j < e.vl ∧ (active e s m).getD j false = true ∧ stops j = none)) ∧
      (∀ j, s.thr.cmask.getLsbD j = true → u.thr.cmask.getLsbD j = true)) ∧
    (s.thr.cover = true ∨ ¬part → ∃ x : Trap, exec i s = .next (s.raise x) ∧
      (x.code = fltOperand ∨ x.code = fltAlign ∨ x.code = fltSpadRange ∨ x.code = fltBufState) ∧ x.elem ≠ none)

/-- R120: wbind copies vl bytes of a run to the scratchpad, 256-byte aligned on both sides, once every check of the
window has passed; nothing else changes. A pointer or an offset that is not a multiple of 256 raises FLT_ALIGN, whatever
vl is. -/
def Obligations.GatherWindow : Prop :=
  ∀ (d a b : Opd) (s : State), s.thr.vq = [] → s.lag = 0 → VlSettled s →
    s.mvl * 4 ≥ s.thr.csr.vl.toNat → Readable s d → Readable s a → Readable s b → (val s d).toNat < 2 ^ 22 →
    let e := captured s (.wbind d a b) { sD := some d, sA := some a, sB := some b, size := 1 }
    let n := s.thr.csr.vl.toNat
    ((val s d).toNat % 256 ≠ 0 → exec (.wbind d a b) s = .next (s.raise { code := fltAlign, addr := val s d })) ∧
    ((val s d).toNat % 256 = 0 → (val s a).toNat % 256 ≠ 0 →
      exec (.wbind d a b) s = .next (s.raise { code := fltAlign, addr := val s a, obj := val s b })) ∧
    (∀ (idx : Nat) (c : CabEntry), RunNamed s (val s b) idx c → MayRead s c → Unwatched s →
      (val s d).toNat % 256 = 0 → (val s a).toNat % 256 = 0 →
      (0 < n → (val s d).toNat + n ≤ 0x300000 ∧ (val s a).toNat + n ≤ c.len * c.recSize ∧
        s.windowBuf (val s d).toNat n = none ∧ s.extBad c.ext (val s a).toNat n = none ∧
        s.vecRoom e [(.run s.crew.ctx idx, (val s a).toNat, (val s a).toNat + n, false),
          (.spad s.crew.coreIx, (val s d).toNat, (val s d).toNat + n, true)] = .ok ()) →
      let s1 : State := { s with thr := { s.thr with vseq := s.thr.vseq + 1 } }
      exec (.wbind d a b) s = .next
        ((if n = 0 then s1 else s1.storeSpad e [((val s d).toNat, runSeen s c (val s a).toNat n)]).adv))

/-- R115, R116, R255: once a committed scratchpad store performs, the context reads its bytes at their places and
every other byte of every scratchpad as before; where stores need not perform at once the store waits among the
thread's unperformed ones, an interlock entry of its range, and memory is unchanged. R35: a speculative task's store is
held back.
R103: of a vector register written by element, each written element holds its value and every other byte of
the crew's registers is unchanged. -/
def Obligations.VectorFrames : Prop :=
  (∀ (s : State) (x : VEntry) (a : Nat) (bs : List Byte), bs ≠ [] → a + bs.length ≤ 0x300000 → s.crew.coreIx < 128 →
      let t := s.storeSpad x [(a, bs)]
      (∀ sp, s.crew.spec = some sp → sp.oldest = false →
        t = { s with crew := { s.crew with spec := some { sp with journal := sp.journal ++ [.spad a bs] } } }) ∧
      (s.crew.speculating = false → s.slack = 0 → s.thr.unperf = [] →
        t.spadBytes s.crew.coreIx s.owner a bs.length = bs ∧
        ∀ c k, c < 128 → k < 0x300000 → (c ≠ s.crew.coreIx ∨ k < a ∨ a + bs.length ≤ k) →
          t.spadBytes c s.owner k 1 = s.spadBytes c s.owner k 1) ∧
      (s.crew.speculating = false → s.slack ≠ 0 ∨ s.thr.unperf ≠ [] → t = { s with thr := { s.thr with unperf := s.thr.unperf ++
        [{ target := .spad s.crew.coreIx, ext := none, va := 0, pages := [], lo := a, hi := a + bs.length
           cells := [(a, bs)], interval := x.interval, seq := x.seq }] } })) ∧
  (∀ (s : State) (r size : Nat) (vals : List (Option Nat)), 0 < size →
      let t := s.putVec r size vals
      let k := vKey s.crew s.thr r 0
      (∀ i x, vals[i]? = some (some x) → t.crew.vregs.bytes (k + i * size) size = leBytes size x) ∧
      (∀ b, (∀ i, b / size = i → ∀ x, vals[i]? ≠ some (some x)) → t.crew.vregs.bytes (k + b) 1 = s.crew.vregs.bytes (k + b) 1) ∧
      (∀ a, a < k → t.crew.vregs.bytes a 1 = s.crew.vregs.bytes a 1) ∧
      (t.acc, t.spad, t.spadTag, t.dram, t.host, t.sig, t.exts) = (s.acc, s.spad, s.spadTag, s.dram, s.host, s.sig, s.exts))

/-! ## Interval instructions -/

/-- R197, R198, R201, R206: the forward interval operations complete: the result, empty where an operand is
invalid, in canonical form in d, the iflags merged, the pc moved on, nothing else changed.
R203, R204, R205: a contractor completes: the registers it names take their narrowed values, all empty with EMP
where one comes out empty or is invalid, and PROG is set where one has progressed.
R207: the interval compares complete with true, false or unknown in the predicate, false for an empty or invalid
operand.
R85, R291: while the writes that one records find no room in the history buffer, it waits. -/
def Obligations.IntervalResults : Prop :=
  (∀ (i : Instr) (d a b : Fin 32) (op : IvV → IvV → IvV) (prog : Bool) (s : State),
      forwardForm i = some (iv d, iv a, iv b, op, prog) →
      let x := s.thr.ivGet a
      let y := s.thr.ivGet b
      let bad := x.1 || y.1
      let r := if bad then none else op x.2 y.2
      Kept i s (s.modThr fun t => ((t.ivPut d r).mergeI
        (emp bad (x.2.isNone || y.2.isNone || r.isNone) |||
          (if prog && progressed s.thr.csr.icfg.toNat x.2 r then 0b100 else 0))).next)) ∧
  (∀ (i : Instr) (d a b : Fin 32) (x : Contract) (s : State),
      contractForm i = some (iv d, iv a, iv b, x) →
      let ks := [d, a, b].eraseDups
      let env : IvEnv := ks.map fun k => (k.val, (s.thr.ivGet k).2)
      let bad := ks.any fun k => (s.thr.ivGet k).1
      let out := contractOut fmt64 x s.thr.csr.icfg.toNat d.val a.val b.val (ks.map fun k => k.val) bad env
      Kept i s (s.modThr fun t =>
        ((ks.foldl (fun (t' : Thread) k => t'.ivPut k (IvEnv.at_ out.1 k.val)) t).mergeI out.2).next)) ∧
  (∀ (i : Instr) (p : Fin 8) (a b : Fin 32) (f : FVal → FVal → FVal → FVal → BitVec 2) (s : State),
      compareForm i = some (pr p, iv a, iv b, f) →
      let x := s.thr.ivGet a
      let y := s.thr.ivGet b
      let v : BitVec 2 := match x.2, y.2 with
        | some (a1, a2), some (b1, b2) => f a1 a2 b1 b2
        | _, _ => 0
      Kept i s (s.modThr fun t => ((t.prPut p v).mergeI (emp (x.1 || y.1) (x.2.isNone || y.2.isNone))).next))

/-- R200, R206: iset, iget, isplit, iwid and iclrp complete: bounds set from scalars in canonical form, an endpoint
or the width read into a scalar, an interval split at its split point, and iflags.PROG read and cleared. R85, R291: while
the writes that they record find no room in the history buffer, they wait.
R203, R206: the intersection of two intervals holds exactly the finite reals that both hold, and the hull every one
that either holds. -/
def Obligations.IntervalMovesAndSets : Prop :=
  (∀ (d a : Fin 32) (x y : Opd) (s : State),
    let v := s.thr.ivGet a
    (Readable s x → Readable s y →
      let r := ivRead fmt64 (val s x).toNat (val s y).toNat
      Kept (.iset (iv d) x y) s (s.modThr fun t => ((t.ivPut d r.2).mergeI (emp r.1 r.2.isNone)).next)) ∧
    (Writable s x → v.1 = false →
      Kept (.igetLo x (iv a)) s ((s.put x (BitVec.ofNat 64 (ivCodes fmt64 v.2).1)).modThr fun t =>
        (t.mergeI (emp false v.2.isNone)).next) ∧
      Kept (.igetHi x (iv a)) s ((s.put x (BitVec.ofNat 64 (ivCodes fmt64 v.2).2)).modThr fun t =>
        (t.mergeI (emp false v.2.isNone)).next)) ∧
    (Writable s x →
      Kept (.iwid x (iv a)) s ((s.put x (BitVec.ofNat 64 (widthBits v.2))).modThr fun t =>
        (t.mergeI (emp v.1 v.2.isNone)).next)) ∧
    (d ≠ a →
      let out : IvV × IvV := match v.2 with
        | some (l, h) => (some (l, splitPoint fmt64 l h), some (splitPoint fmt64 l h, h))
        | none => (none, none)
      Kept (.isplit (iv d) (iv a)) s (s.modThr fun t =>
        (((t.ivPut d out.1).ivPut a out.2).mergeI (emp v.1 v.2.isNone)).next)) ∧
    (d = a → exec (.isplit (iv d) (iv a)) s = .next (s.raise { code := fltIllegal })) ∧
    (Writable s x → s.thr.vq = [] →
      exec (.iclrp x) s = .next ((s.put x (if s.thr.iflags.getLsbD 2 then 1 else 0)).modThr fun t =>
        { t with iflags := t.iflags &&& 0b011, pc := t.pc + 4 }))) ∧
  (∀ (n : Bool) (m : Nat) (e : Int) (a b : IvV),
    (∀ p, p ∈ [a, b] → ∀ l h, p = some (l, h) → l.isNan = false ∧ h.isNan = false) →
    let x : FVal := .fin n m e
    mem x (ivMeet a b) = (mem x a && mem x b) ∧ (mem x a || mem x b → mem x (ivHull a b)))

/-! ## Runs and the run engine -/

/-- R133, R138-R141, R144-R158, R210, R256: a run engine operation whose registers name runs that fit its limits is
accepted: it is pending with its sources bound as they stand, its ranges are held, and the thread goes on; rpart
also takes its 2 to 16 destinations and its splitters from the scratchpad (as it is accepted, the model's reading, log
59), and rmerge.user borrows the empty rings
ka3 and kb3 of its trio for rounds of vl elements. Nothing else changes. -/
def Obligations.RunOperationIssue : Prop :=
  (∀ (i : Instr) (v : RunShape) (n : Nat × CabEntry) (xs : List (Nat × CabEntry)) (s : State),
    runShape i = some v → RunNames v s n xs → v.ok (v.ctl s) n.2 (xs.map Prod.snd) → RunEngineFree s →
    TokenReady s v.tok (runRs s [n] xs) →
    exec i s = .next (accepted s v.tok (.run v.fn [n.1] (xs.map boundOf) (v.ctl s)
      (if inPlace v.fn n.1 xs then [1] else []) none) (runRs s [n] xs))) ∧
  (∀ (d a b : Opd) (n : Nat × CabEntry) (xs : List (Nat × CabEntry)) (s : State),
    let v := mergeShape 7 d a b
    RunNames v s n xs → v.ok (v.ctl s) n.2 (xs.map Prod.snd) → RunEngineFree s → TokenReady s d (runRs s [n] xs) →
    s.crew.trio = true → s.thr.role = .computer → VlSettled s → s.thr.csr.vl ≠ 0 → s.crew.lend = none →
    s.crew.rings[(3 : Fin 8)] = [] → s.crew.rings[(7 : Fin 8)] = [] →
    (∀ t ∈ s.mates, ∀ e ∈ t.vq, 3 ∉ e.named ∧ 7 ∉ e.named) →
    let u : UserMerge := { started := false, groups := [], round := [], out := [], results := [], last := false }
    let t := accepted s d (.run (.merge 7) [n.1] (xs.map boundOf) (v.ctl s) [] (some u)) (runRs s [n] xs)
    exec (.rmergeUser d a b) s = .next
      { t with crew := { t.crew with lend := some { op := s.fresh, vu := s.thr.csr.vl.toNat } } }) ∧
  (∀ (d a b : Opd) (ns : List (Nat × CabEntry)) (x : Nat × CabEntry) (s : State),
    opdNum b + 2 ≤ 55 → Readable s a → Readable s b →
    (∀ k, k ≤ 2 → Readable s (reg (opdNum b + k))) →
    let p := (val s (reg (opdNum b + 1))).toNat
    let addr := (val s (reg (opdNum b + 2))).toNat
    2 ≤ p → p ≤ 16 → opdNum a + p ≤ 56 → (∀ k, k < p → Readable s (reg (opdNum a + k))) →
    List.Forall₂ (fun (k : Nat) (n : Nat × CabEntry) =>
      RunNamed s (val s (reg (opdNum a + k))) n.1 n.2 ∧ MayWrite s n.2 ∧ SameFmt x.2 n.2) (List.range p) ns →
    (ns.map Prod.fst).Nodup → RunNamed s (val s b) x.1 x.2 → MayRead s x.2 →
    addr % 8 = 0 → addr + 8 * (p - 1) ≤ 0x300000 → Unwatched s →
    s.bufBad s.crew.coreIx s.crew.ctx addr (8 * (p - 1)) false = none → RunEngineFree s →
    let rs := runRs s ns [x] ++ [(.spad s.crew.coreIx, addr, addr + 8 * (p - 1), false)]
    TokenReady s d rs →
    exec (.rpart d a b) s = .next (accepted s d (.run .part (ns.map Prod.fst) [boundOf x]
      (BitVec.ofNat 64 (match x.2.sort with | .unsorted => 0 | .key => 1 | .keyTag => 2))
      ((List.range (p - 1)).map fun k =>
        BitVec.ofNat 64 (leNat (s.spadBytes s.crew.coreIx s.owner (addr + 8 * k) 8))) none) rs))

/-- R138-R141, R147-R149, R154-R158: what a run engine operation puts into its destinations: rsplice the records of its
sources in turn; rsort the records of its source in order, equal ones in their order; rtag the same records with
the tags it makes, or key and tag exchanged; rpart every record in the part that the splitters give it, in order; rmerge
without a combine its sources' records in order, of equal ones those of a lower source first and of one source in its
order, and a combining rmerge one record of each group of those, folded; rjoin for each left record its matches with its
tag, or a miss record, which rjoin.drop leaves out; rset.isect, rset.union and rset.diff the records whose keys both
sources have, or either, or the left one alone; rdedup one record of each group, and rcount one of each key, in ascending
order, with its group's size. -/
def Obligations.RunOperationResults : Prop :=
  ∀ (e l r : CabEntry) (ls rs : List (List Byte)) (d : Nat) (ctl : Word) (kt : Bool),
    let out (f : RunFn) (srcs : List (CabEntry × List (List Byte))) : List (List Byte) :=
      ((runOutputs f e [d] ctl [] srcs).1.map Output.recs).headD []
    out .splice [(l, ls), (r, rs)] = ls ++ rs ∧
    ((out (.sort kt) [(l, ls)]).Perm ls ∧ (out (.sort kt) [(l, ls)]).Pairwise (fun x y => recLe l kt x y = true) ∧
      ∀ k : Nat × Nat, (out (.sort kt) [(l, ls)]).filter (fun x => recOrd l x == k.1 && (!kt || recTag l x == k.2)) =
        ls.filter fun x => recOrd l x == k.1 && (!kt || recTag l x == k.2)) ∧
    (ctl.getLsbD 32 = false → (∀ x ∈ ls, x.length = l.recSize) → l.keySize + 4 ≤ l.recSize →
      let o := out .tag [(l, ls)]
      o.length = ls.length ∧ ∀ i x, ls[i]? = some x → ∃ y, o[i]? = some y ∧ y.take l.keySize = x.take l.keySize ∧
        y.drop (l.keySize + 4) = x.drop (l.keySize + 4) ∧ recTag l y = (ctl.toNat % 2 ^ 32 + i) % 2 ^ 32) ∧
    (ctl.getLsbD 32 = true → out .tag [(l, ls)] = ls.map fun x => (x.drop 4).take 4 ++ x.take 4 ++ x.drop 8) ∧
    (∀ (spl : List Word) (ds : List Nat), ds.length = spl.length + 1 →
      (runOutputs .part e ds ctl spl [(l, ls)]).1.map Output.idx = ds ∧
      ((runOutputs .part e ds ctl spl [(l, ls)]).1.map Output.recs).flatten.Perm ls ∧
      ∀ (k : Nat) (o : Output), (runOutputs .part e ds ctl spl [(l, ls)]).1[k]? = some o →
        o.recs = ls.filter fun x => decide ((spl.countP fun w =>
          ordKey (8 * l.keySize) l.kmode (w.toNat % 2 ^ (8 * l.keySize)) ≤ recOrd l x) = k)) ∧
    (∀ srcs : List (CabEntry × List (List Byte)),
      let t := ctl.getLsbD 4
      let o := out (.merge 0) srcs
      let all := (srcs.map Prod.snd).flatten
      o.Perm all ∧ o.Pairwise (fun x y => recLe e t x y = true) ∧
      (∀ k : Nat × Nat, o.filter (fun x => recOrd e x == k.1 && (!t || recTag e x == k.2)) =
        all.filter fun x => recOrd e x == k.1 && (!t || recTag e x == k.2)) ∧
      (∀ f : Fin 8, 1 ≤ f.val → f.val ≤ 6 → MergeOk f ctl e.keySize e.recSize → (∀ x ∈ all, x.length = e.recSize) →
        ∃ gs : List (List (List Byte)), gs.flatten = o ∧ (∀ g ∈ gs, g ≠ [] ∧ ∀ x ∈ g, ∀ y ∈ g, recEq e t x y = true) ∧
          (∀ i g h, gs[i]? = some g → gs[i + 1]? = some h → ∀ x ∈ g, ∀ y ∈ h, recEq e t x y = false) ∧
          List.Forall₂ (FoldedTo f ctl) gs (out (.merge f) srcs))) ∧
    (∀ drop, l.ksz = e.ksz → SameFmt r e → l.keySize + 4 ≤ l.recSize → l.keySize + 4 ≤ e.recSize →
      (∀ x ∈ ls, x.length = l.recSize) → (∀ x ∈ rs, x.length = r.recSize) →
      ∃ parts : List (List (List Byte)), parts.flatten = out (.join drop) [(l, ls), (r, rs)] ∧
        List.Forall₂ (JoinedTo l r e.recSize drop ctl rs) ls parts) ∧
    (∀ x, (x ∈ out (.set 0) [(l, ls), (r, rs)] ↔ x ∈ ls ∧ ∃ y ∈ rs, recOrd e y = recOrd e x) ∧
      (x ∈ out (.set 2) [(l, ls), (r, rs)] ↔ x ∈ ls ∧ ∀ y ∈ rs, recOrd e y ≠ recOrd e x) ∧
      (x ∈ out (.set 1) [(l, ls), (r, rs)] ↔ x ∈ ls ∨ (x ∈ rs ∧ ∀ y ∈ ls, recOrd e y ≠ recOrd e x))) ∧
    (ls.Pairwise (fun x y => recLe l (ctl.getLsbD 0) x y = true) →
      let o := out .dedup [(l, ls)]
      (∀ x ∈ o, x ∈ ls) ∧ (∀ x ∈ ls, ∃ y ∈ o, recEq l (ctl.getLsbD 0) y x = true) ∧
        o.Pairwise (fun x y => recEq l (ctl.getLsbD 0) x y = false)) ∧
    (ls.Pairwise (fun x y => recLe l false x y = true) → l.ksz = e.ksz → l.keySize + 4 ≤ e.recSize →
      (∀ x ∈ ls, x.length = l.recSize ∧ l.keySize ≤ l.recSize) → ls.length < 2 ^ 32 →
      let o := out .count [(l, ls)]
      let ord (y : List Byte) : Nat := ordKey (8 * l.keySize) l.kmode (recKey e y)
      (∀ y ∈ o, y.length = e.recSize ∧ recTag e y = (ls.countP fun x => recOrd l x == ord y) ∧
        ∀ i, l.keySize + 4 ≤ i → i < e.recSize → y[i]? = some 0) ∧
      (∀ x ∈ ls, ∃ y ∈ o, ord y = recOrd l x) ∧ o.Pairwise fun y z => ord y < ord z)

/-- R128, R129, R133, R210, R358: a run engine operation of one destination, other than a user merge, reads its sources
as bound and ends: its output becomes the destination's content in one publish and its token takes the bytes
published; a sort in place of a run in order publishes nothing and gives its bytes; a destination that is no longer
OPEN ends it with -FLT_RUN_STATE, and one whose extents cannot be supplied with -FLT_RUN_SPACE; a source that stands
in a bad sub-beat ends it with -FLT_UNCORR, and the frame is withdrawn. Events 169 and 179 count the publishes and the
failures (R339). -/
def Obligations.RunOperationEnd : Prop :=
  ∀ (o : Op) (f : RunFn) (d : Nat) (srcs : List Bound) (ctl : Word) (extra : List Word) (e : CabEntry)
    (xs : List CabEntry) (s : State),
    s.ops.find? (fun x => x.id == o.id) = some o → o.kind = .run f [d] srcs ctl extra none → o.translate = false →
    s.live = true → s.crew.id = o.crew → s.crew.ctx = o.ctx → s.crew.spec = none →
    (∃ m, s.globalRun o.ctx d = some (e, m)) →
    List.Forall₂ (fun (b : Bound) (x : CabEntry) => ∃ m, s.globalRun o.ctx b.idx = some (x, m)) srcs xs →
    (∃ kt, f = .sort kt ∧ extra = [1]) ∨ extra = [] →
    let clean := ∀ p ∈ List.zip srcs xs, s.extBad p.1.ext 0 (p.1.len * p.2.recSize) = none
    let failed (t : State) (c : Code) : State := (t.endOp o (-c.setWidth 64) 0).countCore o.core 179 1 (some o.who)
    let ins := (List.zip srcs xs).map fun p =>
      (p.2, recsOf p.2 p.1.len (s.extBytes o.owner p.1.ext 0 (p.1.len * p.2.recSize)))
    let r := runOutputs f e [d] ctl extra ins
    let recs := (r.1.map Output.recs).headD []
    let sort := (r.1.map Output.sort).headD .unsorted
    (extra = [1] → exec (.runEnginePublish o.id) s =
      .next (s.endOp o (BitVec.ofNat 64 ((srcs.map Bound.len).sum * e.recSize)) 0)) ∧
    (extra = [] → clean → e.st ≠ .opened → exec (.runEnginePublish o.id) s = .next (failed s fltRunState)) ∧
    (∀ b x q, extra = [] → srcs = [b] → xs = [x] → s.extBad b.ext 0 (b.len * x.recSize) = some q →
      exec (.runEnginePublish o.id) s = .next (failed (s.withdraw (q / 1024)) fltUncorr)) ∧
    (extra = [] → clean → e.st = .opened → recs.length < 2 ^ 36 →
      (∀ t, s.publish o.ctx d recs.length sort (Mem.put [] 0 recs.flatten) = some t →
        exec (.runEnginePublish o.id) s = .next
          ((t.endOp o (BitVec.ofNat 64 recs.flatten.length) r.2).countCore o.core 169 1 (some o.who)) ∧
        ∃ c, kvGet c.cab d ≠ none ∧ t.ctxOf o.ctx = some c ∧ ∀ g, kvGet c.cab d = some g →
          g.len = recs.length ∧ g.sort = sort ∧ g.st = .opened ∧ g.gen = e.gen) ∧
      (s.publish o.ctx d recs.length sort (Mem.put [] 0 recs.flatten) = none →
        exec (.runEnginePublish o.id) s = .next (failed s fltRunSpace)))

/-- R123, R126, R128, R130, R134-R137, R228: the Cabinet instructions complete. ropen creates an OPEN, empty run of
the format, size and placement of its argument at the lowest free index, with the next generation, and gives its
handle; ropen.acq gives back the handle of a PUBLISHED run; rpub publishes an OPEN run and rclose closes one once
the thread's vector instructions and stores are done; rinfo gives the four words of an entry once no operation of the
thread is still to write the run; rmark sets the attributes of an empty run that may be written. An entry in another
state raises FLT_RUN_STATE, a closed one also after it has become free, until its index is used again. -/
def Obligations.CabinetInstructions : Prop :=
  ∀ (d a b : Opd) (idx : Nat) (c : CabEntry) (s : State), s.thr.vq = [] → Readable s a → Readable s b →
    let f := val s a
    let n := (val s b).toNat
    (Writable s d → opdNum d ≠ 0 → s.crew.spec = none →
      f.extractLsb' 43 21 = 0 → f.extractLsb' 6 27 = 0 → f.getLsbD 3 = false → f.extractLsb' 41 2 ≠ 3 →
      f.extractLsb' 4 2 ≠ 3 → n < 2 ^ 36 → ∀ i x t, s.freeIndex s.crew.ctx = some i →
      let e : CabEntry := {
        live := true, gen := (let g := s.genAt s.crew.ctx i; if g = 0xFFFF then 1 else g + 1), len := 0, cap := 0
        ext := none, ver := 0, owner := s.owner, pgsz := f.extractLsb' 41 2, die := f.extractLsb' 39 2
        home := f.extractLsb' 34 5, place := f.getLsbD 33, tol := false, comp := false, sort := .unsorted, st := .opened
        kmode := f.extractLsb' 4 2, ksz := f.getLsbD 2, rsz := f.extractLsb' 0 2, tval := 0, tabs := false, etype := .i8
        esz := 0, roots := [], spillOf := none, shared := none }
      let e1 := { e with cap := e.capFor n }
      s.newExt s.crew.ctx e1 (e1.cap * e1.recSize) [] = some (x, t) →
      exec (.ropen d a b) s = .next ((State.put (t.setEntry s.crew.ctx i { e1 with ext := x, ver := t.fresh }) d
        (BitVec.ofNat 64 (e1.gen.toNat * 65536 + i))).adv)) ∧
    (RunNamed s (val s b) idx c →
      (c.st = .published → Writable s d → opdNum d ≠ 0 →
        exec (.ropenAcq d b) s = .next ((s.put d (val s b)).adv)) ∧
      (c.st ≠ .published → opdNum d ≠ 0 →
        exec (.ropenAcq d b) s = .next (s.raise { code := fltRunState, obj := val s b }))) ∧
    (RunNamed s f idx c →
      (c.st = .opened → s.thr.unperf = [] → s.thr.held = none →
        (∀ o ∈ s.ops, o.ctx = s.crew.ctx → ∀ fn ds ss w e u, o.kind = .run fn ds ss w e u → idx ∉ ds) →
        exec (.rpub a) s = .next (s.setEntry s.crew.ctx idx { c with st := .published }).adv) ∧
      (c.st ≠ .opened → exec (.rpub a) s = .next (s.raise { code := fltRunState, obj := f })) ∧
      (c.st ≠ .closed → exec (.rclose a) s =
        .next (s.setEntry s.crew.ctx idx { c with st := .closed }).freeClosed.adv) ∧
      (c.st = .closed → exec (.rclose a) s = .next (s.raise { code := fltRunState, obj := f })) ∧
      (c.st ≠ .closed → opdNum d + 3 ≤ 55 → (∃ k, d = .s k) →
        (∀ o ∈ s.ops, o.ctx = s.crew.ctx → o.crew = s.crew.id → o.thread = s.thr.idx →
          (∀ fn ds ss w e u, o.kind = .run fn ds ss w e u → idx ∉ ds) ∧
          (∀ w g off id, o.kind = .cpy w g off id → w.getLsbD 63 = true → g.idx ≠ idx) ∧
          ∀ w r bf g off x, o.kind = .xput w r bf g off x → s.endsHere r = true ∨ Route.relays r = true →
            g.toNat % 65536 ≠ idx) →
        (∀ k, k ≤ 3 → Writable s (reg (opdNum d + k))) →
        exec (.rinfo d a) s = .next (((((s.put (reg (opdNum d)) (BitVec.ofNat 64 c.len)).put (reg (opdNum d + 1))
          (BitVec.ofNat 64 c.cap)).put (reg (opdNum d + 2)) (descWord c)).put (reg (opdNum d + 3))
          (if c.cap = 0 then 0 else BitVec.ofNat 64 (s.entryVa c))).adv)) ∧
      (attrOk (val s b) = true → c.len = 0 → MayWrite s c →
        let w := val s b
        exec (.rmark a b) s = .next (s.setEntry s.crew.ctx idx { c with
          comp := w.getLsbD 0, tol := w.getLsbD 1, esz := w.extractLsb' 2 2, etype := elemTyOf (w.extractLsb' 4 3)
          tabs := w.getLsbD 7, tval := w.extractLsb' 32 32, roots := [] }).adv)) ∧
    (∀ g x, s.crew.spec = none → f.toNat = g.gen.toNat * 2 ^ 16 + idx → 0 < idx → idx < 2 ^ 16 → g.live = false →
      g.st = .closed → s.ctxOf s.crew.ctx = some x → kvGet x.cab idx = some g →
      exec (.rpub a) s = .next (s.raise { code := fltRunState, obj := f }) ∧
      exec (.rclose a) s = .next (s.raise { code := fltRunState, obj := f }))
/-! ## Queues, Settles and tasks -/

/-- R161-R172, R177: the queue instructions complete. qopen creates the queue of its descriptor at the lowest free
index, whatever its d; qpush sends as many of its records as the queue can accept to its home core, with vl and FF
saying how many where that is fewer; qtake takes records from the head, or at a closed and empty queue none (the model's
readings: also with pushes in flight, log 51; and v1 then describes no element, log 53), or raises FLT_UNCORR where it
meets a bad sub-beat of the spill run (R358); qdone closes the push side; qstat gives the status and descriptor words;
qarm arms or disarms a Settle. A queue of a kind that does not accept one raises FLT_QUEUE_KIND, and a push to a closed
queue FLT_QUEUE_STATE. -/
def Obligations.QueueInstructions : Prop :=
  ∀ (d a b : Opd) (s : State), s.thr.vq = [] → s.crew.spec = none → Readable s a →
    (∀ c, s.ctxOf s.crew.ctx = some c → c.trc = none ∧ c.rpl = none) →
    let w := val s a
    (Writable s d → DescOk s w → ∀ i, s.freeQueueIndex s.crew.ctx = some i →
      let h (q : BEntry) : Word := BitVec.ofNat 64 (q.gen.toNat * 65536 + i)
      (b = .s 0 → w.getLsbD 21 = false → (newQueue s w i none).quota.toNat * 1024 ≤ s.poolLeft s.crew.ctx →
        exec (.qopen d a b) s = .next ((State.put (s.setQueue s.crew.ctx i (newQueue s w i none)) d (h (newQueue s w i none))).adv)) ∧
      (b = .s 0 → w.getLsbD 21 = true →
        s.sramUsed s.crew.die (w.extractLsb' 22 5) (fun x => x.2.pinned) + (w.extractLsb' 32 8).toNat ≤ 256 →
        ∀ t, (s.setQueue s.crew.ctx i (newQueue s w i none)).swapIn (qref s i) (newQueue s w i none) = some t →
        exec (.qopen d a b) s = .next ((t.put d (h (newQueue s w i none))).adv)) ∧
      (∀ r c, b ≠ .s 0 → Readable s b → RunNamed s (val s b) r c → MayWrite s c → w.getLsbD 1 = true →
        c.rsz = w.extractLsb' 2 2 → w.getLsbD 21 = false →
        (newQueue s w i none).quota.toNat * 1024 ≤ s.poolLeft s.crew.ctx →
        let q := newQueue s w i (some r)
        exec (.qopen d a b) s = .next ((State.put ((s.setQueue s.crew.ctx i q).setEntry s.crew.ctx r
          { c with spillOf := some i, len := 0, sort := .unsorted }) d (h q)).adv))) ∧
    (∀ i q, QueueNamed s w i q →
      (VReady s (pushShape d a) → s.lag = 0 →
        (q.kind = .launch ∨ q.kind = .task → exec (.qpush d a) s = .next (s.raise { code := fltQueueKind, obj := w })) ∧
        (q.kind = .expert ∨ q.kind = .stream →
          (q.closed = true → exec (.qpush d a) s = .next (s.raise { code := fltQueueState, obj := w })) ∧
          (q.closed = false → Resident q → s.thr.csr.vl.toNat * (8 * 2 ^ q.rsz.toNat) ≤ s.mvl * 4 →
            let e := pushEntry s d a
            let f := Nat.min e.vl (s.queueRoom (qref s i) q)
            (0 < f → exec (.qpush d a) s = .next (
              let c := committed e (entered s e) {}
              let t := if f < e.vl then (cutTo c e f).countAs e 201 f else c
              let p : Push := {
                id := s.fresh, q := qref s i
                recs := ((elems e s d (8 * 2 ^ q.rsz.toNat) e.vl).take f).map (leBytes (8 * 2 ^ q.rsz.toNat))
                origin := s.crew.ts, thread := s.crew.id * 4 + s.thr.idx, slot := s.crew.slot.toNat * 4 + s.thr.idx
                ordinal := s.thr.pushes }
              (State.modQueue { t with
                fresh := s.fresh + 1, pushes := s.pushes ++ [p], thr := { t.thr with pushes := s.thr.pushes + 1 } }
                s.crew.ctx i fun x => { x with touched := s.clk }).adv)) ∧
            (e.vl = 0 → exec (.qpush d a) s = .next (entered s e).adv) ∧
            (0 < e.vl → f = 0 → exec (.qpush d a) s = .next (s.raise { code := fltQueueSpill, obj := w }))))) ∧
      (VReady s (takeShape d a) → s.lag = 0 → s.thr.csr.vl.toNat * (8 * 2 ^ q.rsz.toNat) ≤ s.mvl * 4 →
        (q.kind = .launch ∨ q.kind = .task ∨ (q.kind = .expert ∧ q.arm ≠ none) →
          exec (.qtake d a) s = .next ((trying s).raise { code := fltQueueKind, obj := w })) ∧
        (q.kind = .stream ∨ (q.kind = .expert ∧ q.arm = none) → Resident q →
          let bad := s.takeBad (qref s i) q none s.thr.csr.vl.toNat
          (∀ x, q.recs ≠ [] ∨ q.closed = true → bad = some x → exec (.qtake d a) s =
            .next ((trying s).raise { code := fltUncorr, obj := w, frame := some (x / 1024) })) ∧
          (q.recs ≠ [] ∨ q.closed = true → bad = none →
            let e := takeEntry s d a
            let f := Nat.min e.vl q.recs.length
            let t := (entered (trying s) e).updQueue (qref s i) fun x => { x with recs := x.recs.drop e.vl, touched := s.clk }
            let u := if f = 0 then (match d with | .v n => t.setScale n.val 0 1 | _ => t) else
              writeTo t (match d with
                | .ring _ => whole d (8 * 2 ^ q.rsz.toNat) ((q.recs.take f).map fun r => some (leNat r.data))
                | _ => whole d 1 (((q.recs.take f).map QRec.data).flatten.map fun x => some x.toNat))
            exec (.qtake d a) s = .next ((State.freeQueues (if f < e.vl then cutTo u e f else u)).adv)) ∧
          (q.recs = [] → q.closed = false → exec (.qtake d a) s = .next (s.mark (.queue i))))) ∧
      exec (.qdone a) s = .next (((s.updQueue (qref s i) fun x => { x with closed := true }).freeQueues).adv) ∧
      (opdNum d + 1 ≤ 55 → (∃ k, d = .s k) → Writable s (reg (opdNum d)) → Writable s (reg (opdNum d + 1)) → q.launchQ = none →
        (q.inSram = true → exec (.qstat d a) s = .next ((((s.modQueue s.crew.ctx i fun x => { x with touched := s.clk }).put
          (reg (opdNum d)) (statusWord s i q)).put (reg (opdNum d + 1)) (queueDesc q)).adv)) ∧
        (q.inSram = false → exec (.qstat d a) s = .next ((s.missed (.queueMiss i)).mark (.queueMiss i)))) ∧
      (opdNum b + 2 ≤ 55 → Readable s b → (∀ k, k ≤ 2 → Readable s (reg (opdNum b + k))) →
        let c := val s b
        let entry := val s (reg (opdNum b + 1))
        c.extractLsb' 16 16 = 0 → c.extractLsb' 10 4 = 0 →
        (q.kind ≠ .expert → c.extractLsb' 0 10 = 0 →
          exec (.qarm a b) s = .next (s.raise { code := fltQueueKind, obj := w })) ∧
        (q.kind = .expert →
          (c.extractLsb' 0 10 = 0 → exec (.qarm a b) s = .next (s.updQueue (qref s i) fun x => { x with arm := none }).adv) ∧
          (c.extractLsb' 0 10 ≠ 0 → c.extractLsb' 32 32 ≠ 0 → entry.toNat % 4 = 0 →
            s.codeBad s.crew.ctx entry = none →
            (∃ g, s.codeObj s.crew.ctx entry = .good g) → (c.extractLsb' 0 10).toNat ≤ q.quota.toNat → q.inSram = true →
            (q.arm ≠ none ∨ s.armedOn q.die < 256) →
            (q.pinned = true ∨ s.sramUsed q.die q.home (fun x => x.2.pinned) + q.quota.toNat ≤ 256) →
            let m : Arm := {
              age := c.extractLsb' 32 32, cls := c.extractLsb' 14 2, thr := c.extractLsb' 0 10, entry := entry
              arg := val s (reg (opdNum b + 2)), ddl := s.crew.ddlInit }
            exec (.qarm a b) s = .next (s.updQueue (qref s i) fun x => { x with arm := some m }).adv))))

/-- R163, R165, R166, R173, R175: what happens to queues by itself. A committed push enters its queue in one piece,
stamped with the cycle and its task's timestamp, what the segment cannot hold going to the spill run; the earliest
miss of a die has its segment brought into its core's SRAM, whose segments then take no more than 256 KiB; spilled
records return in queue order as the segment has room, but for one in a bad sub-beat, which kills its context with
FLT_UNCORR and withdraws the frame (R358; the model's choice, log 48); the age limit A makes an armed Settle eligible and 2A
promotes it; and the Settle of the lowest effective class, then deadline, fires: it claims its first records and
enqueues their task. -/
def Obligations.QueueEvents : Prop :=
  ∀ (q : QRef) (b : BEntry) (s : State), s.queueAt q = some b → b.live = true →
    (∀ c ∈ s.ctxs, c.trc = none ∧ c.rpl = none) →
    (∀ p rest, s.pushes = p :: rest → p.q = q → b.inSram = true → (∀ r ∈ rest, r.id ≠ p.id) →
      let room := b.quota.toNat * 1024 / (8 * 2 ^ b.rsz.toNat) - b.inSeg
      let core := b.die.toNat * 32 + b.home.toNat
      exec (.qpushArrival p.id) s = .next (State.freeQueues ((State.updQueue { s with pushes := rest } q fun x => { x with
        recs := x.recs ++ (List.range p.recs.length).map fun k => {
          data := p.recs.getD k [], arrival := s.clk, origin := p.origin, spilled := decide (room ≤ k) } }).countCore core 205
            (p.recs.length - room) (some { ctx := q.ctx, core := core, slot := 0, pc := 0, elem := none })))) ∧
    (b.inSram = false → (s.missesOn b.die).head? = some q → ∀ t, s.swapIn q b = some t →
      exec (.queueMissServiced q) s =
        .next (State.countDie { t with misses := t.misses.filter fun m => m != (q.ctx, q.idx) } b.die 325) ∧
      (∀ x, t.queueAt q = some x → x.inSram = true ∧ x.recs = b.recs) ∧
      t.sramUsed b.die b.home (fun x => x.2.inSram && x.1 != q) + b.quota.toNat ≤ 256) ∧
    (let room := b.quota.toNat * 1024 / (8 * 2 ^ b.rsz.toNat) - b.inSeg
      let bad := s.spillBad q b ((b.claims.map Claim.recs).flatten.countP QRec.spilled)
        (Nat.min room (b.recs.countP QRec.spilled))
      (bad = none → exec (.spillRefill q) s = .next (s.updQueue q fun x => { x with recs := unspill room x.recs })) ∧
      (∀ x, bad = some x → exec (.spillRefill q) s = .next ((s.withdraw (x / 1024)).kill q.ctx (bareFault fltUncorr))) ∧
      (unspill room b.recs).map QRec.data = b.recs.map QRec.data ∧
      (unspill room b.recs).countP (fun r => !r.spilled) =
        Nat.min b.recs.length (b.recs.countP (fun r => !r.spilled) + room)) ∧
    (∀ a r rest, b.arm = some a → b.recs = r :: rest →
      (∀ i, i = .settleAgeEligible q ∨ i = .settleClassPromotion q → ∃ t x, exec i s = .next t ∧
        t.queueAt q = some x ∧ x.recs = b.recs ∧ x.arm = b.arm ∧ x.claims = b.claims ∧
        (x.eligible = true ↔ r.arrival + a.age.toNat ≤ s.clk) ∧ (x.promoted = true ↔ r.arrival + 2 * a.age.toNat ≤ s.clk)) ∧
      (∀ c, causeOf b = some c → s.settleNext b.die = some q → b.spill = none → (q, b) ∈ s.segments →
        (s.segments.map Prod.fst).Nodup →
        let n := Nat.min b.recs.length (a.thr.toNat * 64)
        (∀ y ∈ s.segments, y.2.die = b.die → causeOf y.2 ≠ none →
          (rank b).1 < (rank y.2).1 ∨ ((rank b).1 = (rank y.2).1 ∧ (rank b).2 ≤ (rank y.2).2)) ∧
        ∃ t x, exec (.settleFire q) s = .next t ∧ t.queueAt q = some x ∧ x.recs = b.recs.drop n ∧ x.fired = b.fired + 1 ∧
          x.claims = b.claims ++ [{ fire := b.fired, recs := b.recs.take n, pos := 0 }] ∧
          ∃ k ∈ t.tasks, k.id = s.fresh ∧ k.ctx = q.ctx ∧ k.die = b.die ∧ k.ts = r.origin ∧ k.qno = q.idx ∧
            k.seq = b.fired ∧ k.entry = a.entry ∧ k.count = n ∧ k.claim = some b.fired ∧
            k.regs = [(1, BitVec.ofNat 64 n), (3, BitVec.ofNat 64 (b.gen.toNat * 65536 + q.idx)), (4, a.arg),
              (5, BitVec.ofNat 64 b.fired), (6, BitVec.ofNat 64 c)]))
/-- R34-R36, R175, R178-R181: timestamped tasks. tspawn enqueues its task on its die and gives its sequence number;
tend with a zero status is halt, and with another ends a timestamped task as cancelled and raises FLT_OPERAND in any
other; a dispatched task starts on its slot with its registers, its first grant and everything else at reset; the
first task of a die becomes the oldest and what it held back takes effect in program order, also where it has
already retired; it commits once it has retired, and its claim goes. Tasks stand in key order, but for those placed
behind an irrevocable one. The model's choices: a task whose crew is saved becomes the oldest once it is restored (log
70), and one placed behind the irrevocable task comes after those placed there before it (log 74). -/
def Obligations.TimestampedTasks : Prop :=
  (∀ (d a b : Opd) (i : Nat) (q : BEntry) (s : State), s.thr.vq = [] → Readable s a → Readable s b → Writable s d →
    opdNum b + 3 ≤ 55 → (∀ k, k ≤ 3 → Readable s (reg (opdNum b + k))) → QueueNamed s (val s a) i q →
    let ts := val s b
    let entry := val s (reg (opdNum b + 1))
    let count := val s (reg (opdNum b + 2))
    (entry.toNat % 4 ≠ 0 ∨ (s.crew.spec ≠ none ∧ ts.toNat ≤ s.crew.ts.toNat) →
      exec (.tspawn d a b) s = .next (s.raise { code := fltOperand })) ∧
    (entry.toNat % 4 = 0 → (s.crew.spec ≠ none → s.crew.ts.toNat < ts.toNat) →
      (q.kind ≠ .task → exec (.tspawn d a b) s = .next (s.raise { code := fltQueueKind, obj := val s a })) ∧
      (q.kind = .task → q.closed = true →
        exec (.tspawn d a b) s = .next (s.raise { code := fltQueueState, obj := val s a })) ∧
      (q.kind = .task → q.closed = false → s.codeBad s.crew.ctx entry = none → (∃ g, s.codeObj s.crew.ctx entry = .good g) →
        let t : TTask := {
          id := s.fresh, ctx := s.crew.ctx, die := s.crew.die, ts := ts, qno := i, seq := q.seq, entry := entry
          count := count.toNat, regs := [(1, count), (3, val s (reg (opdNum b + 3)))], claim := none
          spawner := s.crew.spec.map Spec.task, core := 0, slot := 0, ddl := s.crew.ddlInit, placed := false, oldest := false
          kept := none, st := .waiting }
        exec (.tspawn d a b) s = .next ((State.put ((State.modQueue { s with fresh := s.fresh + 1 } s.crew.ctx i
          fun x => { x with seq := x.seq + 1 }).enqueueTask t) d (BitVec.ofNat 64 q.seq)).adv)))) ∧
  (∀ (t : TTask) (l : List TTask),
    (enterOrder t l).Perm (t :: l) ∨ (enterOrder t l).Perm ({ t with placed := true } :: l)) ∧
  (∀ (t : TTask) (l : List TTask), (∀ x ∈ l, x.oldest = false) → l.Pairwise (fun x y => taskKeyLt y x = false) →
    (enterOrder t l).Pairwise (fun x y => taskKeyLt y x = false)) ∧
  (∀ (t x : TTask) (l r : List TTask), x.oldest = true → taskKeyLt t x = true → (∀ y ∈ l, y.placed = true) →
    (∀ y z, r = y :: z → y.placed = false) → enterOrder t (x :: (l ++ r)) = x :: (l ++ { t with placed := true } :: r)) ∧
  (∀ (a : Opd) (s : State), Readable s a →
    (val s a = 0 → exec (.tend a) s = exec .halt s) ∧
    (val s a ≠ 0 → s.crew.spec = none → exec (.tend a) s = .next (s.raise { code := fltOperand })) ∧
    (∀ (sp : Spec) (k : TTask), val s a ≠ 0 → s.crew.spec = some sp → s.live = true → k ∈ s.tasks → k.id = sp.task →
      (∀ x ∈ s.tasks, x.spawner = none) → (∀ p ∈ s.others, p.1.id ≠ s.crew.id) →
      ∃ t, exec (.tend a) s = .next t ∧ (∀ p ∈ t.crews, p.1.id ≠ s.crew.id) ∧
        t.tasks = s.tasks.map (fun (x : TTask) => if x.id = sp.task then { x with st := .cancelled, kept := none } else x) ∧
        (∀ o ∈ t.ops, o.crew ≠ s.crew.id))) ∧
  (∀ (t : TTask) (p : Place) (cfg : Word) (s : State), s.taskNext p.die = some t → s.taskCfg t = some cfg →
    s.slotTakes p.die p.core p.slot cfg = true → s.rplOf t.ctx = none →
    ∃ u, exec (.taskDispatch t.id p) s = .next u ∧ u.live = true ∧ u.crew.ctx = t.ctx ∧ u.crew.priv = false ∧
      (u.crew.die, u.crew.core, u.crew.slot) = (p.die, p.core, p.slot) ∧ u.crew.trio = cfg.getLsbD 24 ∧
      u.crew.spec = some { task := t.id, ts := t.ts, oldest := t.oldest, journal := [], reads := [], writes := [], bufs := [] } ∧
      u.thr.pc = t.entry.setWidth 56 ∧ u.thr.life = .run ∧ u.thr.idx = 0 ∧
      u.thr.csr.vl = BitVec.ofNat 18 (grantOf s.throt u.crew.mvl.toNat t.count 4) ∧
      (t.regs = [(1, BitVec.ofNat 64 t.count), (3, u.thr.get 3)] → u.thr.get 1 = BitVec.ofNat 64 t.count ∧
        ∀ n, n = 2 ∨ 3 < n → n < 56 → u.thr.get n = 0) ∧
      u.tasks = s.tasks.map (fun (x : TTask) => if x.id = t.id then
        { x with st := .running, core := p.die.toNat * 32 + p.core.toNat, slot := p.slot.toNat * 4 } else x)) ∧
  (∀ (t : TTask) (die : BitVec 2) (s : State), s.frontTask die = some t → s.rplOf t.ctx = none →
    (t.oldest = false → s.taskSaved t.id = true → exec (.taskBecomesOldest die) s = .next s) ∧
    (t.oldest = false → s.taskSaved t.id = false → exec (.taskBecomesOldest die) s = .next (State.release
      { s with tasks := s.tasks.map fun (x : TTask) => if x.id = t.id then { x with oldest := true } else x } t.id)) ∧
    (∀ (sp : Spec) (o : WOp), s.live = true → s.crew.spec = some { sp with oldest := false, journal := [o] } → sp.task = t.id →
      (∀ p ∈ s.others, p.1.id ≠ s.crew.id) → s.taskSaved t.id = false → t.oldest = false →
      exec (.taskBecomesOldest die) s = .next (State.freeClosed (State.syncSpills (State.applyHeld { s with
        tasks := s.tasks.map fun (x : TTask) => if x.id = t.id then { x with oldest := true, kept := none } else x
        crew := { s.crew with spec := some { sp with oldest := true, journal := [] } } } s.crew o) s.crew.ctx))) ∧
    (∀ (c : Crew) (sp : Spec), t.oldest = false → t.st = .retired → t.kept = some c → c.spec = some sp → sp.task = t.id →
      (∀ d ∈ s.crewsHeld, d.runs t.id = true → d = c) → (∀ p ∈ s.crews, p.1.id ≠ c.id) → s.taskSaved t.id = false →
      exec (.taskBecomesOldest die) s = .next (State.freeClosed (State.syncSpills (sp.journal.foldl
        (fun (s' : State) o => s'.applyHeld c o) { s with tasks := s.tasks.map fun (x : TTask) =>
          if x.id = t.id then { x with oldest := true, kept := none } else x }) c.ctx))) ∧
    ((∀ c ∈ s.ctxs, c.trc = none ∧ c.rpl = none) → t.oldest = true → (t.st = .retired ∨ t.st = .cancelled) →
      let s1 : State := { s with tasks := s.tasks.filter fun x => x.id != t.id }
      let done (u : State) : State := (u.freeQueues.countCore t.core 207 1
        (some { ctx := t.ctx, core := t.core, slot := t.slot, pc := 0, elem := none })).countDie die 321
      (t.claim = none → exec (.taskCommit die) s = .next (done s1)) ∧
      (∀ f, t.claim = some f → exec (.taskCommit die) s = .next (done (s1.updQueue { ctx := t.ctx, idx := t.qno }
        fun x => { x with claims := x.claims.filter fun c => c.fire != f })))) ∧
    (t.oldest = false ∨ t.st = .waiting ∨ t.st = .running → exec (.taskCommit die) s = .next s))

/-- R31-R33, R49, R76, R182, R183: fork leaves the parent the lower half of its lane groups and min(c, 64 × ceil(c ÷
128)) of its count, and gives the child the upper half and the rest, with copies of the parent's scalar state, its own
flags, seed and grant; join in the parent waits for its latest child to join and takes the lane groups back with the
child's flags; join in a child ends it. Each raises FLT_CREW_MODE in a trio, where lane groups cannot be halved, or
where there is nobody to join. -/
def Obligations.ForkAndJoin : Prop :=
  (∀ (d a b : Fin 56) (s : State), d ≠ 0 → a ≠ 0 → b ≠ 0 → d ≠ a → d ≠ b → a ≠ b →
    (s.crew.trio = true ∨ s.thr.lgCnt.toNat < 8 →
      exec (.fork (.s d) (.s a) (.s b)) s = .next (s.raise { code := fltCrewMode })) ∧
    (s.crew.trio = false → s.thr.lgCnt = 8 ∨ s.thr.lgCnt = 16 → Readable s (.s a) → Writable s (.s d) → Writable s (.s b) →
      s.thr.vq = [] → s.thr.unperf = [] → s.thr.held = none → s.thr.role = .solo → s.rplOf s.crew.ctx = none →
      s.thr.csr.wb.toNat ≤ 27 → (∀ m ∈ s.mates, m.idx ≠ s.thr.idx) →
      (∃ n, 1 ≤ n ∧ n ≤ 3 ∧ ∀ m ∈ s.thr :: s.mates, m.idx ≠ n) →
      let c := (s.thr.get a).toNat
      let cp := Nat.min c (64 * ((c + 127) / 128))
      let vlOf (n : Nat) : BitVec 18 :=
        if n = 0 then 0 else BitVec.ofNat 18 (grantOf s.throt (s.mvl / 2) n s.thr.csr.gsz)
      let half := s.thr.lgCnt.toNat / 2
      let cut := s.mvl / 2 * 4 / sizeOf2 s.thr.scaleSz
      ∃ u k, exec (.fork (.s d) (.s a) (.s b)) s = .next u ∧ u.mates = k :: s.mates ∧ u.crew = s.crew ∧ u.others = s.others ∧
        (let p := u.thr
         p.idx = s.thr.idx ∧ p.parent = s.thr.parent ∧ p.pc = s.thr.pc + 4 ∧ p.lgBase = s.thr.lgBase ∧ p.lgCnt.toNat = half ∧
         p.depth = s.thr.depth + 1 ∧ p.get d = 0 ∧ p.get a = BitVec.ofNat 64 cp ∧ p.get b = 0 ∧ p.csr.vl = vlOf cp ∧
         (∀ n : Fin 56, n ≠ d → n ≠ a → n ≠ b → p.get n = s.thr.get n) ∧ p.fflags = s.thr.fflags ∧ p.iflags = s.thr.iflags ∧
         p.seed = s.thr.seed ∧ p.scaleLen.toNat = Nat.min s.thr.scaleLen.toNat cut) ∧
        (∀ m ∈ s.thr :: s.mates, k.idx ≠ m.idx) ∧ k.parent = some s.thr.idx ∧ k.pc = s.thr.pc + 4 ∧
        k.lgBase = s.thr.lgBase + BitVec.ofNat 4 half ∧ k.lgCnt.toNat = half ∧ k.depth = s.thr.depth + 1 ∧ k.get d = 1 ∧
        k.get a = BitVec.ofNat 64 (c - cp) ∧ k.get b = BitVec.ofNat 64 cp ∧ k.csr.vl = vlOf (c - cp) ∧
        (∀ n : Fin 56, n ≠ d → n ≠ a → n ≠ b → k.get n = s.thr.get n) ∧ k.fflags = 0 ∧ k.iflags = 0 ∧
        k.seed = (if s.thr.seed ^^^ 0x6A09E667 = 0 then 1 else s.thr.seed ^^^ 0x6A09E667) ∧
        k.scaleLen.toNat = s.thr.scaleLen.toNat - cut ∧ k.iv = s.thr.iv ∧ k.pr = s.thr.pr ∧ k.csr.sdesc = s.thr.csr.sdesc ∧
        k.csr.wb = s.thr.csr.wb ∧ k.csr.frm = s.thr.csr.frm ∧ k.csr.icfg = s.thr.csr.icfg)) ∧
  (∀ (s : State),
    (s.crew.trio = true → exec .join s = .next (s.raise { code := fltCrewMode })) ∧
    (s.crew.trio = false → s.lastChild = none → s.thr.parent = none →
      exec .join s = .next (s.raise { code := fltCrewMode })) ∧
    (s.crew.trio = false → s.lastChild = none → s.thr.parent ≠ none → s.thr.vq = [] → s.thr.unperf = [] →
      s.thr.held = none →
      (s.awaitsToken = false → exec .join s = .next { s with thr := { s.thr with pc := s.thr.pc + 4, life := .atJoin } }) ∧
      (s.awaitsToken = true → exec .join s = .next (s.mark .tokens))) ∧
    (∀ k, s.crew.trio = false → s.lastChild = some k → s.thr.vq = [] →
      (k.life ≠ .atJoin → exec .join s = .next (s.mark .joinChild)) ∧
      (k.life = .atJoin → ∃ u, exec .join s = .next u ∧ u.mates = s.mates.filter (fun m => m.idx != k.idx) ∧
        u.thr.pc = s.thr.pc + 4 ∧ u.thr.lgBase = s.thr.lgBase ∧ u.thr.lgCnt = BitVec.ofNat 5 (s.thr.lgCnt.toNat * 2) ∧
        u.thr.depth = s.thr.depth - 1 ∧ u.thr.fflags = s.thr.fflags ||| k.fflags ∧ u.thr.iflags = s.thr.iflags ||| k.iflags ∧
        u.thr.csr = s.thr.csr ∧ u.thr.regs = s.thr.regs ∧ u.crew = s.crew ∧ u.others = s.others)))

/-! ## Engines, buffers, storage and the fabric -/

/-- R210, R212, R213, R218, R220, R221, R230: a transfer whose registers and fields keep their limits, whose run
may be read or written and whose buffer is in the state it needs is accepted: its token is pending, its ranges are
held, the buffer is FILLING or DRAINING, and the thread goes on. -/
def Obligations.TransferIssue : Prop :=
  (∀ (d a b : Opd) (n : Nat × CabEntry) (x : Buf) (s : State),
    let w := val s a
    let off := (val s (reg (opdNum b + 1))).toNat
    let out := w.getLsbD 63
    let l := cpyBytes out x.comp (w.getLsbD 57) (w.toNat % 2 ^ 32)
    let rs : Ranges := [(.run s.crew.ctx n.1, off, off + l.2, out), (.spad s.crew.coreIx, x.base, x.base + l.1, !out)]
    TripleRead s a b → Unwatched s → RunNamed s (val s (reg (opdNum b))) n.1 n.2 →
    BufferNamed s (val s (reg (opdNum b + 2))) x → CpyOk w n.2 x off → TokenReady s d rs →
    (out = true → MayWrite s n.2 → x.st = .full ∨ x.st = .draining →
      exec (.cpy d a b) s = .next (accepted (drainingTo s x) d (.cpy w (boundOf n) off x.id) rs)) ∧
    (out = false → MayRead s n.2 → x.st = .empty →
      exec (.cpy d a b) s = .next (accepted (filling s x) d (.cpy w (boundOf n) off x.id) rs))) ∧
  (∀ (d a b : Opd) (n : Nat × CabEntry) (x : Buf) (s : State),
    let w := val s a
    let off := (val s (reg (opdNum b + 1))).toNat
    let rs : Ranges := [(.run s.crew.ctx n.1, off, off + w.toNat % 2 ^ 32, false),
      (.spad s.crew.coreIx, x.base, x.base + x.size, true)]
    TripleRead s a b → Unwatched s → RunNamed s (val s (reg (opdNum b))) n.1 n.2 → MayRead s n.2 →
    BufferNamed s (val s (reg (opdNum b + 2))) x → x.st = .empty → TokenReady s d rs →
    w.extractLsb' 61 3 = 0 → w.extractLsb' 32 26 = 0 → (w.extractLsb' 58 3).toNat ≤ 2 →
    ((w.extractLsb' 58 3).toNat = 2 → w.toNat % 2 ^ 32 % 4352 = 0) → off + w.toNat % 2 ^ 32 ≤ n.2.len * n.2.recSize →
    exec (.cpyd d a b) s = .next (accepted (filling s x) d (.cpyd w (boundOf n) off x.id) rs)) ∧
  (∀ (d a b : Opd) (s : State),
    let w := val s (reg (opdNum b))
    let src := val s a
    let dst := val s (reg (opdNum b + 1))
    let rs : Ranges := (if 2 ≤ xCmd w then [(.spad s.crew.coreIx, src.toNat, src.toNat + xLen w, false)] else []) ++
      [(.spad s.crew.coreIx, dst.toNat, dst.toNat + xOut w, true)]
    TripleRead s a b → Unwatched s → s.crew.spec = none → XformOk w src.toNat dst.toNat → (xCmd w < 2 → a = .s 0) →
    TokenReady s d rs → (2 ≤ xCmd w → s.bufBad s.crew.coreIx s.crew.ctx src.toNat (xLen w) false = none) →
    s.bufBad s.crew.coreIx s.crew.ctx dst.toNat (xOut w) true = none →
    exec (.bxform d a b) s = .next (accepted s d (.bxform w src.toNat dst.toNat (val s (reg (opdNum b + 2)))
      { todo := List.range ((xOut w + 63) / 64), kept := [], fl := 0 }) rs)) ∧
  (∀ (d a b : Opd) (x : Buf) (q : NvmeQp) (write : Bool) (s : State),
    let w := val s a
    let t := val s (reg (opdNum b))
    let lba := val s (reg (opdNum b + 1))
    let n := w.toNat % 2 ^ 32
    let m := n * q.lba
    let room := if write = true ∧ x.comp = true ∧ w.getLsbD 57 = false then images m else m
    let rs : Ranges := [(.spad s.crew.coreIx, x.base, x.base + room, !write)]
    TripleRead s a b → Unwatched s → s.crew.spec = none → BufferNamed s (val s (reg (opdNum b + 2))) x → TokenReady s d rs →
    s.qpOf t = some q → w.extractLsb' 32 25 = 0 → w.extractLsb' 58 3 = 0 → w.getLsbD 63 = false →
    (write = false → w.extractLsb' 57 7 = 0) → 1 ≤ n → n ≤ 65536 → t.extractLsb' 5 3 = 0 → t.extractLsb' 16 16 = 0 →
    m ≤ x.size → room ≤ x.size → (w.getLsbD 57 = true → x.comp = true ∧ m % 4352 = 0) →
    s.storageOverlap t lba.toNat n = false → q.out.length + 1 < q.depth →
    (write = false → x.st = .empty → exec (.sread d a b) s =
      .next (accepted ((filling s x).submit q s.fresh false w lba x.base) d (.sread w t lba x.id) rs)) ∧
    (write = true → x.st = .full ∨ x.st = .draining → exec (.swrite d a b) s =
      .next (accepted ((drainingTo s x).submit q s.fresh true w lba x.base) d (.swrite w t lba x.id) rs)))

/-- R214, R215: bdecl declares an EMPTY buffer at the lowest free id, and raises its faults in the order of R214;
brel.rel, brel.free and brel.seal, which waits until the thread's stores have performed, make the transitions of the
state table and raise FLT_BUF_STATE with the id and the state in every other state; a program may read a FULL buffer
and write a FULL or an EMPTY one. The model's readings: a core has one table, so that its lowest free id and an overlap
are found whatever the context (log 17). -/
def Obligations.Buffers : Prop :=
  (∀ (d a b : Opd) (s : State), Readable s a → Readable s b →
    let base := val s a
    let w := val s b
    let size := w.toNat % 2 ^ 22
    let ok := w.extractLsb' 32 32 = 0 ∧ w.extractLsb' 22 9 = 0 ∧ size % 256 = 0 ∧ 256 ≤ size ∧ size ≤ 0x300000
    let meets := ∃ y ∈ s.bufs, y.core = s.crew.coreIx ∧ base.toNat < y.base + y.size ∧ y.base < base.toNat + size
    (¬ok → exec (.bdecl d a b) s = .next (s.raise { code := fltOperand })) ∧
    (ok → base.toNat % 256 ≠ 0 → exec (.bdecl d a b) s = .next (s.raise { code := fltAlign, addr := base })) ∧
    (ok → base.toNat % 256 = 0 → 0x300000 < base.toNat + size →
      exec (.bdecl d a b) s = .next (s.raise { code := fltSpadRange, addr := base })) ∧
    (ok → base.toNat % 256 = 0 → base.toNat + size ≤ 0x300000 → Writable s d → s.thr.vq = [] →
      (meets → exec (.bdecl d a b) s = .next (s.raise { code := fltOperand, addr := base })) ∧
      (¬meets → (∀ id, id < 256 → ∃ y ∈ s.bufs, y.core = s.crew.coreIx ∧ y.id = id) →
        exec (.bdecl d a b) s = .next (s.raise { code := fltBufTable })) ∧
      (∀ id, ¬meets → s.crew.spec = none → id < 256 → (∀ y ∈ s.bufs, y.core = s.crew.coreIx → y.id ≠ id) →
        (∀ k, k < id → ∃ y ∈ s.bufs, y.core = s.crew.coreIx ∧ y.id = k) →
        exec (.bdecl d a b) s = .next ((State.put { s with bufs := s.bufs ++ [{
          core := s.crew.coreIx, ctx := s.crew.ctx, id := id, base := base.toNat, size := size, comp := w.getLsbD 31
          st := .empty, outs := 0, keep := true }] } d (BitVec.ofNat 64 id)).adv)))) ∧
  (∀ (a : Opd) (x : Buf) (s : State), Readable s a → BufferNamed s (val s a) x →
    let bad := State.raise s { code := fltBufState, obj := val s a, value := (match x.st with
      | .empty => 1 | .filling => 2 | .full => 3 | .draining => 4) }
    (exec (.brelRel a) s = .next (if x.st = .full then (s.setBuf { x with st := .empty }).adv else bad) ∧
      exec (.brelFree a) s = .next (if x.st = .empty then State.adv { s with bufs := s.bufs.filter fun y =>
        !(y.core == x.core && y.ctx == x.ctx && y.id == x.id) } else bad)) ∧
    (s.thr.vq = [] → s.thr.unperf = [] → s.thr.held = none →
      exec (.brelSeal a) s = .next (if x.st = .empty then (s.setBuf { x with st := .full }).adv else bad)) ∧
    (s.thr.vq = [] → s.thr.unperf ≠ [] ∨ s.thr.held ≠ none → exec (.brelSeal a) s = .next (s.mark .performed))) ∧
  (∀ (a : Opd) (s : State), Readable s a → (val s a).toNat < 256 →
    s.buf? s.crew.coreIx s.crew.ctx (val s a).toNat = none → s.thr.vq = [] → s.thr.unperf = [] → s.thr.held = none → ∀ i, i = .brelRel a ∨ i = .brelFree a ∨ i = .brelSeal a →
    exec i s = .next (s.raise { code := fltBufState, obj := val s a })) ∧
  (∀ (core a n : Nat) (ctx : BitVec 16) (write : Bool) (s : State),
    s.bufBad core ctx a n write = none ↔ ∀ y ∈ s.bufs, y.core = core → y.ctx = ctx → a < y.base + y.size → y.base < a + n →
      y.st = .full ∨ (y.st = .empty ∧ write = true)) ∧
  (∀ (core id : Nat) (ctx : BitVec 16) (x : Buf) (q : BufSt) (s : State), s.buf? core ctx id = some x →
    (s.setBuf { x with st := q }).buf? core ctx id = some { x with st := q } ∧
    ∀ c k k', (c, k, k') ≠ (core, ctx, id) → (s.setBuf { x with st := q }).buf? c k k' = s.buf? c k k')

/-- R210, R215, R216, R218-R221, R226, R230, R358: what a transfer of a task that holds nothing back does when it
completes, and when it must wait: a fill moves its bytes to the start of its buffer, which becomes FULL, or EMPTY where
it fails; a copy-out moves the buffer's bytes to the run, whose LEN and SORT follow where its extents are still those
bound, and the last one outstanding leaves the buffer FULL or EMPTY; a bxform writes its output line by line in any
order, the last line with its end; each token takes the bytes moved or its fault, -FLT_UNCORR for a bad sub-beat, whose
frame is withdrawn. R250: what a failed fill leaves is old or new in each aligned 8 bytes. R35: a speculative task's
fill is held back. R211, R230: the completion of a command without an operation only frees its place. The model's
choices: that completion itself (log 68), in what units a failed fill leaves old and new bytes (log 14), and the line of
a tile in place that is kept until its mate is written (log 72). -/
def Obligations.TransferEnd : Prop :=
  (∀ (o : Op) (w : Word) (b : Bound) (off id : Nat) (x : Buf) (s : State),
    s.ops.find? (fun y => y.id == o.id) = some o → o.translate = false → o.owner = s.ownerOf o.ctx →
    s.buf? o.core o.ctx id = some x →
    let n := w.toNat % 2 ^ 32
    let put (s' : State) (bs : List Byte) : State := s'.spadPut o.core o.owner x.base bs
    let free := s.fillFree o x.base (x.base + x.size)
    let src := s.extBytes o.owner b.ext off n
    let bad := s.extBad b.ext off n
    let units (bs new : List Byte) : Prop := bs.length = new.length ∧ ∀ u : Nat,
      (∀ i, (x.base + i) / 8 = u → bs[i]? = new[i]?) ∨
      (∀ i, (x.base + i) / 8 = u → bs[i]? = (s.spadBytes o.core o.owner x.base new.length)[i]?)
    (∀ sp, o.kind = .cpy w b off id → w.getLsbD 63 = false → x.comp = false → free = true → bad = none →
      (∃ y, s.ext? b.ext = some y) → s.live = true → s.crew.id = o.crew → (∀ p ∈ s.others, p.1.id ≠ o.crew) →
      s.crew.spec = some sp → sp.oldest = false →
      exec (.cpyComplete o.id) s = .next ((filled { s with crew := { s.crew with spec := some { sp with
        journal := sp.journal ++ [.spad x.base (overlayRun sp.journal b.ext off src)] } } } x true).endOp o (BitVec.ofNat 64 n) 0)) ∧
    ((∀ c, s.opCrew o = some c → c.speculating = false ∧ c.heldBack = [] ∧ c.coreIx = o.core ∧ c.ctx = o.ctx) →
    (o.kind = .cpy w b off id → w.getLsbD 63 = false →
      (free = false → exec (.cpyComplete o.id) s = .next s) ∧
      (free = true → bad = none → x.comp = false →
        exec (.cpyComplete o.id) s = .next ((filled (put s src) x true).endOp o (BitVec.ofNat 64 n) 0)) ∧
      (∀ q, free = true → bad = some q → x.comp = true → exec (.cpyComplete o.id) s =
        .next ((filled (s.withdraw (q / 1024)) x false).endOp o (-fltUncorr.setWidth 64) 0)) ∧
      (∀ e m, free = true → bad = none → x.comp = true → s.opRun o b.idx = some (e, m) → e.ext = b.ext → n % 4096 = 0 →
        exec (.cpyComplete o.id) s = .next ((filled ((List.range (n / 4096)).foldl (fun (t : State) i =>
          t.spadPut o.core o.owner (x.base + 4352 * i)
            (imageOf e.esz (e.slotOf (off / 4096 + i)) ((src.drop (4096 * i)).take 4096))) s) x true).endOp o
              (BitVec.ofNat 64 n) 0))) ∧
    (o.kind = .cpy w b off id → w.getLsbD 63 = true → 0 < n →
      let data := if x.comp = true ∧ w.getLsbD 57 = true then some (s.spadBytes o.core o.owner x.base (images n))
        else logical s o.core o.owner x n
      (data = none → exec (.cpyComplete o.id) s = .next ((drained1 s x true).endOp o (-fltUncorr.setWidth 64) 0)) ∧
      (∀ bs y g m, data = some bs → bs ≠ [] → s.ext? b.ext = some y →
        let t := s.extPutBy o.owner y.id off bs
        t.globalRun o.ctx b.idx = some (g, m) →
        exec (.cpyComplete o.id) s = .next ((drained1 (if g.ext = b.ext then t.setEntry o.ctx b.idx
            { g with len := Nat.max g.len ((off + bs.length + g.recSize - 1) / g.recSize), sort := .unsorted }
          else t) x (w.getLsbD 62)).endOp o (BitVec.ofNat 64 n) 0))) ∧
    (o.kind = .cpyd w b off id →
      let r := expandStream (w.extractLsb' 58 3).toNat src x.size
      (free = false → exec (.cpydComplete o.id) s = .next s) ∧
      (∀ q, free = true → bad = some q → exec (.cpydComplete o.id) s =
        .next ((filled (s.withdraw (q / 1024)) x false).endOp o (-fltUncorr.setWidth 64) 0)) ∧
      (free = true → bad = none → r.2 = true →
        exec (.cpydComplete o.id) s = .next ((filled (put s r.1) x true).endOp o (BitVec.ofNat 64 r.1.length) 0)) ∧
      (free = true → bad = none → r.2 = false → ∃ bs : List Byte, units bs r.1 ∧
        exec (.cpydComplete o.id) s = .next ((filled (put s bs).drawn x false).endOp o (-fltDecomp.setWidth 64) 0))) ∧
    (∀ src dst p a, o.kind = .bxform w src dst p a → XformOk w src dst → (∀ i ∈ a.todo, 64 * i < xOut w) →
      (a.kept ≠ [] → xCmd w = 2) → (∀ k ∈ a.kept, k.2.length = 64) →
      (a.todo = [] → exec (.bxformComplete o.id) s = .next (s.endOp o (BitVec.ofNat 64 (xOut w)) a.fl)) ∧
      (a.todo ≠ [] → ∃ i ∈ a.todo, ∃ out fl, XformTo w p (xSource s o src w a) out fl ∧
        let mate := if i % 2 = 0 then i + 1 else i - 1
        let c : XformAt := {
          todo := a.todo.erase i, fl := a.fl ||| xLineFlags w p (xSource s o src w a) i
          kept := (if xCmd w = 2 ∧ src = dst then
            (if (kvGet a.kept mate).isSome then a.kept.filter fun k => k.1 != mate
             else (i, s.spadBytes o.core o.owner (src + i * 64) 64) :: a.kept) else a.kept) }
        let t : State := { s.spadPut o.core o.owner (dst + i * 64) ((out.drop (i * 64)).take 64) with
          draw := s.draw + 1
          ops := s.ops.map fun (y : Op) => if y.id = o.id then { y with kind := .bxform w src dst p c } else y }
        exec (.bxformComplete o.id) s = .next (if c.todo = [] then t.endOp o (BitVec.ofNat 64 (xOut w)) c.fl else t))) ∧
    (∀ t lba status data q, (s.nvme.find? fun y => y.out.contains o.id) = some q →
      let m := n * q.lba
      let seen := s.storageSeen o.id status
      (o.kind = .sread w t lba id → data.length = m →
        (status = 0 → exec (.storageComplete o.id status data) s =
          .next ((filled (put seen data) x true).endOp o (BitVec.ofNat 64 m) 0)) ∧
        (status ≠ 0 → ∃ bs : List Byte, bs.length = m ∧
          (∀ u : Nat, (∀ i, (x.base + i) / 8 = u → bs[i]? = data[i]?) ∨
            (∀ i, (x.base + i) / 8 = u → bs[i]? = (seen.spadBytes o.core o.owner x.base m)[i]?)) ∧
          exec (.storageComplete o.id status data) s =
            .next ((filled (put seen bs).drawn x false).endOp o (-fltStorage.setWidth 64) 0))) ∧
      (o.kind = .swrite w t lba id →
        let broken := x.comp = true ∧ w.getLsbD 57 = false ∧ logical s o.core o.owner x m = none
        (broken → exec (.storageComplete o.id status data) s =
          .next ((drained1 seen x true).endOp o (-fltUncorr.setWidth 64) 0)) ∧
        (¬broken → status = 0 → exec (.storageComplete o.id status data) s =
          .next ((drained1 seen x (w.getLsbD 62)).endOp o (BitVec.ofNat 64 m) 0)) ∧
        (¬broken → status ≠ 0 → exec (.storageComplete o.id status data) s =
          .next ((drained1 seen x true).endOp o (-fltStorage.setWidth 64) 0)))))) ∧
  (∀ (id : Nat) (status : BitVec 16) (data : List Byte) (s : State),
    ((∀ y ∈ s.ops, y.id ≠ id) → exec (.storageComplete id status data) s = .next (s.storageSeen id status)) ∧
    (∀ q, s.nvme.find? (fun y => y.out.contains id) = some q →
      (s.storageSeen id status).nvme = s.nvme.map fun (y : NvmeQp) => if y.drive = q.drive ∧ y.qp = q.qp then
        { y with
          out := y.out.filter fun i => i != id, err := if status = 0 then y.err else status
          head := if q.head + 1 = q.depth then 0 else y.head + 1
          phase := if q.head + 1 = q.depth then !y.phase else y.phase } else y))

/-- R232-R236, R269, R360: xput and xsend set off with the bytes of their buffer, which drains; an xput of no bytes
needs no buffer. A relay sends a message on by its table, at most four times, or ends it with -FLT_ROUTE. A message
whose route meets a retired link or no package ends with -FLT_ROUTE; one for another package leaves over a port in
service of its first direction, whose retry buffer keeps its last flits; one whose route ends at its own package
acts there once the earlier ones of its thread on its route have: an xput's data, then its signal; an xsend's
records, as one push. Its token takes what was found, an xsend's once its push has entered the queue. A message that
another package sends here acts in the same way. The model's readings: port p leads in direction p / 4 (log 65), where
the errors of a signal or a queue show, and who a message from elsewhere is (log 40). -/
def Obligations.FabricMessages : Prop :=
  (∀ (r : BitVec 6) (t : Route) (s : State),
    let d := regOf6 r
    let k (i : Nat) : Word := val s (reg (r.toNat + i))
    let w := k 1
    let n := w.toNat % 2 ^ 22
    1 ≤ r.toNat → s.crew.spec = none → Unwatched s → FabricOk w t →
    (r.toNat ≤ 50 → (∀ i, 1 ≤ i → i ≤ 5 → Readable s (reg (r.toNat + i))) → w.extractLsb' 30 2 = 0 →
      (w.getLsbD 23 = true → (k 5).toNat / 2 ^ 32 = 2 ^ 30 ∧ (k 5).toNat % 8 = 0) →
      (n = 0 → TokenReady s d [] →
        exec (.xput r t) s = .next (accepted (sent s t w []) d (.xput w t none (k 3) (k 4) (k 5)) [])) ∧
      (∀ x : Buf, 0 < n → BufferNamed s (k 2) x → x.st = .full ∨ x.st = .draining → n ≤ x.size →
        (x.comp = true → n ≤ x.size / 4352 * 4096) →
        let rs : Ranges := [(.spad s.crew.coreIx, x.base, x.base + (if x.comp then images n else n), false)]
        TokenReady s d rs → exec (.xput r t) s = .next (accepted (drainingTo (sent s t w (carried s x n)) x) d (.xput w t (some x.id) (k 3) (k 4) (k 5)) rs))) ∧
    (r.toNat ≤ 52 → (∀ i, 1 ≤ i → i ≤ 3 → Readable s (reg (r.toNat + i))) → w.getLsbD 23 = false → 0 < n →
      ∀ x : Buf, BufferNamed s (k 2) x → x.st = .full ∨ x.st = .draining →
        let room := if x.comp then x.size / 4352 * 4096 else x.size
        let rs : Ranges := [(.spad s.crew.coreIx, x.base, x.base + x.size, false)]
        n * 8 ≤ room → TokenReady s d rs →
        let s1 := drainingTo (sent s t w (carried s x room)) x
        exec (.xsend r t) s = .next (accepted { s1 with thr := { s1.thr with pushes := s.thr.pushes + 1 } } d
          (.xsend w t x.id (k 3)) rs))) ∧
  (∀ (m : Msg) (s : State), s.msgs.find? (fun y => y.id == m.id) = some m → m.delivered = none → m.link = none →
    let fate (t : State) (y : Msg) : State := { t with msgs := t.msgs.map fun (z : Msg) => if z.id = m.id then y else z }
    let e := s.relay[Fin.ofNat 64 m.ridx.toNat]
    (2 ≤ s.stage.toNat → m.route.leg0 = .relay → (e.getLsbD 63 = false ∨ 4 ≤ m.relays →
        exec (.relayForward m.id) s = .next (fate s { m with delivered := some (-fltRoute.setWidth 64) })) ∧
      (∀ t, e.getLsbD 63 = true → m.relays < 4 → Route.ofCode (e.extractLsb' 0 18) = some t →
        exec (.relayForward m.id) s = .next (fate s { m with route := t, ridx := e.extractLsb' 24 6, relays := m.relays + 1 }))) ∧
    (∀ o : Op, s.ops.find? (fun y => y.id == m.op) = some o → s.msgBehind m o = false → s.noWay m = true →
      ∀ i, i = .xputDeliver (.own m.id) ∧ (∃ w t b h off sa, o.kind = .xput w t b h off sa) ∨
        i = .xsendDeliver (.own m.id) ∧ (∃ w t b h, o.kind = .xsend w t b h) →
      exec i s = .next (fate s { m with delivered := some (-fltRoute.setWidth 64) })) ∧
    (∀ (o : Op) (d : Fin 6) (n : Fin 8) (p : Fin 24), s.ops.find? (fun y => y.id == m.op) = some o → s.msgBehind m o = false →
      s.badMsg m o = none → s.endsHere m.route = false → m.route.leg0 = .hop d n → s.portFor d.val = some p →
      ∀ i, i = .xputDeliver (.own m.id) ∧ (∃ w t b h off sa, o.kind = .xput w t b h off sa) ∨
        i = .xsendDeliver (.own m.id) ∧ (∃ w t b h, o.kind = .xsend w t b h) →
      ∃ t, exec i s = .next t ∧ t.msgs = (fate s { m with link := some p.val }).msgs ∧ p.val / 4 = d.val ∧
        s.ports[p].trained = true ∧ s.ports[p].retired = false ∧
        let k := Nat.max 1 ((m.data.length + 239) / 240)
        t.ports[p].tx = s.ports[p].tx + BitVec.ofNat 12 k ∧ t.ports[p].sent.length ≤ 256 ∧
        (∀ j, j < k → k - j ≤ 256 → ∃ f ∈ t.ports[p].sent, f.msg = some m.id ∧ f.seq = s.ports[p].tx + BitVec.ofNat 12 j ∧
          f.bytes = (m.data.drop (240 * j)).take 240)) ∧
    (∀ o : Op, s.ops.find? (fun y => y.id == m.op) = some o → s.msgBehind m o = false → s.noWay m = false →
      s.endsHere m.route = true →
      (∀ (w : Word) (t : Route) (id : Nat) (h off sa : Word), o.kind = .xput w t (some id) h off sa →
        m.data.length < w.toNat % 2 ^ 22 →
        exec (.xputDeliver (.own m.id)) s = .next (fate s { m with delivered := some (-fltUncorr.setWidth 64) })) ∧
      (∀ (w : Word) (t : Route) (id : Option Nat) (h off sa : Word), o.kind = .xput w t id h off sa →
        m.data.length = w.toNat % 2 ^ 22 →
        XputAt s o w h off sa m.data fun v u => exec (.xputDeliver (.own m.id)) s = .next (fate u { m with delivered := some v })) ∧
      (∀ (w : Word) (t : Route) (id : Nat) (h : Word) (x : Buf), o.kind = .xsend w t id h →
        s.buf? o.core o.ctx id = some x →
        XsendAt s o m.id m.ordinal (if x.comp then x.size / 4352 * 4096 else x.size) w h m.data fun v u =>
          exec (.xsendDeliver (.own m.id)) s = .next (fate u { m with delivered := some v })))) ∧
  (∀ (x : Inbound) (s : State),
    (s.stage.toNat < 2 → exec (.xputDeliver (.inbound x)) s = .next s ∧ exec (.xsendDeliver (.inbound x)) s = .next s) ∧
    (2 ≤ s.stage.toNat →
      (x.ctl.toNat % 2 ^ 22 ≤ x.data.length →
        XputAt s (s.inboundOp x) x.ctl x.handle x.off x.sig (x.data.take (x.ctl.toNat % 2 ^ 22)) fun _ u =>
          exec (.xputDeliver (.inbound x)) s = .next u) ∧
      XsendAt { s with fresh := s.fresh + 1 } (s.inboundOp x) s.fresh 0 x.data.length x.ctl x.handle x.data fun _ u =>
        exec (.xsendDeliver (.inbound x)) s = .next u)) ∧
  (∀ (m : Msg) (o : Op) (v : Word) (x : Buf) (s : State), s.msgs.find? (fun y => y.id == m.id) = some m →
    s.ops.find? (fun y => y.id == m.op) = some o → (∀ p ∈ s.pushes, p.id ≠ m.id) →
    let gone : State := { s with msgs := s.msgs.filter fun y => y.id != m.id }
    (∀ w t id h off sa, o.kind = .xput w t (some id) h off sa ∨ o.kind = .xsend w t id h → s.buf? o.core o.ctx id = some x →
      (m.delivered = some v → ∀ u, exec (.fabricTokenReturn m.id u) s =
        .next ((drained1 gone x (v.getLsbD 63 || w.getLsbD 22)).endOp o v 0)) ∧
      (m.delivered = none → m.link ≠ none →
        exec (.fabricTokenReturn m.id v) s = .next ((drained1 gone x (v.getLsbD 63 || w.getLsbD 22)).endOp o v 0)) ∧
      (m.delivered = none → m.link = none → exec (.fabricTokenReturn m.id v) s = .next s)) ∧
    (∀ w t h off sa, o.kind = .xput w t none h off sa → m.delivered = some v → ∀ u,
      exec (.fabricTokenReturn m.id u) s = .next (gone.endOp o v 0))) ∧
  (∀ (m : Msg) (o : Op) (v u : Word) (s : State), s.msgs.find? (fun y => y.id == m.id) = some m →
    s.ops.find? (fun y => y.id == m.op) = some o → m.delivered = some v → (∃ p ∈ s.pushes, p.id = m.id) →
    exec (.fabricTokenReturn m.id u) s = .next s)

/-! ## The front end and the scheduler -/

/-- R21-R23, R304-R307: the front end. Writes to a queue's registers set them as EN allows, and too many packets stop
the queue with reason 7; the packet at HEAD is read, or refused for the first reason that holds; a launch splits its
elements in 64-element chunks; the first ready head starts when its slots are free, its tasks in crew-index order with
their registers, and otherwise asks the less urgent crews in its slots to yield; a saved task resumes on a free slot,
or its context is killed with FLT_UNCORR where its area cannot be read (R358). The model's choices: the ring lies in the
space of its context (log 71); idle slots, ties and the priority of a slot (log 42); where a prerequisite word is read
and that one once met stays met (log 41). -/
def Obligations.LaunchEvents : Prop :=
  (∀ (q : BitVec 12) (v : Word) (s : State),
    let l := s.lq q
    let qcfg := checkedQueue (if l.en then { l with en := v.getLsbD 0 } else { l with
      en := v.getLsbD 0, log2sz := v.extractLsb' 1 4, priocap := v.extractLsb' 10 3, ctx := v.extractLsb' 16 16 })
    let tail := checkedQueue { l with tail := v.setWidth 32 }
    exec (.tailWrite q v) s = .next (s.setLq tail) ∧ exec (.qcfgWrite q v) s = .next (s.setLq qcfg) ∧
    (∀ off : BitVec 21, off.toNat = 0x100000 + 32 * q.toNat →
      exec (.registerWrite off v) s = .next (if l.en then s else s.setLq { l with base := v }) ∧
      exec (.registerWrite (off + 8) v) s = .next (s.setLq qcfg) ∧ exec (.registerWrite (off + 16) v) s = .next (s.setLq tail) ∧
      exec (.registerWrite (off + 24) v) s = .next s) ∧
    ∀ (x : LQueue) (r : BitVec 12), (s.setLq x).lq r = if r = x.q then x else s.lq r) ∧
  (∀ (q : BitVec 12) (s : State),
    let l := s.lq q
    let bs := s.host.bytes ((l.ctx.toNat + 1) * 2 ^ 56 +
      (l.base.toNat + 256 * (l.head.toNat % 2 ^ l.log2sz.toNat)) % 2 ^ 56) 256
    let h := packetWord bs 0
    s.stage ≠ 0 → l.en = true → l.head ≠ l.tail → l.pending = none →
    (badHeader s h (packetWord bs 2) → exec (.launchPacketRead q) s = .next (refusedPacket s l bs 1)) ∧
    (¬badHeader s h (packetWord bs 2) →
      (¬addressesOk s l.ctx bs → exec (.launchPacketRead q) s = .next (refusedPacket s l bs 4)) ∧
      (addressesOk s l.ctx bs →
        (s.codeObj l.ctx (packetWord bs 1) = .bad → exec (.launchPacketRead q) s = .next (refusedPacket s l bs 2)) ∧
        (∀ cfg, s.codeObj l.ctx (packetWord bs 1) = .good cfg →
          let same : Prop := cfg.getLsbD 24 = h.getLsbD 24 ∧ cfg.extractLsb' 25 2 = h.extractLsb' 25 2 ∧
            cfg.extractLsb' 0 2 = h.extractLsb' 0 2
          let classOk : Prop := ∀ d c : Nat, d < 4 → c < 32 → h.getLsbD (40 + d) = true →
            (s.capOf (32 * d + c)).toNat ≤ (cfg.extractLsb' 28 2).toNat
          let prioOk := l.priocap.toNat ≤ (h.extractLsb' 32 3).toNat
          let ddlOk := 1024 ≤ (packetWord bs 3).toNat ∧ (packetWord bs 3).toNat < 2 ^ 32
          (¬same → exec (.launchPacketRead q) s = .next (refusedPacket s l bs 2)) ∧
          (same → ¬classOk → exec (.launchPacketRead q) s = .next (refusedPacket s l bs 3)) ∧
          (same → classOk → ¬prioOk → exec (.launchPacketRead q) s = .next (refusedPacket s l bs 5)) ∧
          (same → classOk → prioOk → ¬ddlOk → exec (.launchPacketRead q) s = .next (refusedPacket s l bs 6)) ∧
          (same → classOk → prioOk → ddlOk → exec (.launchPacketRead q) s = .next (s.setLq { l with
            head := l.head + 1
            pending := some {
              slot := BitVec.ofNat 16 (l.head.toNat % 2 ^ l.log2sz.toNat), ctx := l.ctx, entry := packetWord bs 1
              n := (packetWord bs 2).toNat, ddl := (packetWord bs 3).toNat, ts := packetWord bs 4, done := packetWord bs 5
              args := (List.range 12).map fun i => if i < (h.extractLsb' 48 4).toNat then packetWord bs (6 + i) else 0
              prqs := packetPrqs bs, dies := h.extractLsb' 40 4, prio := h.extractLsb' 32 3, crews := h.extractLsb' 25 2
              trio := h.getLsbD 24, count := h.extractLsb' 0 2, cfg := cfg } }))))) ) ∧
  (∀ n c : Nat, 0 < n → 0 < c →
    let t := taskCount n c
    taskFirst n t 0 = 0 ∧ taskFirst n t (t - 1) + taskElems n t (t - 1) = n ∧
    ∀ i, i < t → taskShare n t i = (taskElems n t i, taskFirst n t i) ∧ 0 < taskElems n t i ∧
      (i + 1 < t → taskFirst n t (i + 1) = taskFirst n t i + taskElems n t i ∧ taskElems n t i % 64 = 0)) ∧
  (∀ (q : BitVec 12) (p : Packet) (s : State),
    let l := s.lq q
    l.pending = some p → s.stage ≠ 0 →
    (l.chosen = false → s.isFirstHead q = false → exec (.launchStart q) s = .next s) ∧
    (l.chosen = true ∨ s.isFirstHead q = true →
      (s.canStart p = true → p.n = 0 → exec (.launchStart q) s = .next (State.addDone (State.setLq { s with fresh := s.fresh + 1 }
        { l with pending := none, chosen := false, served := s.stepNo + 1 }) p.ctx p.done 1)) ∧
      (s.canStart p = true → 0 < p.n → p.slots ≠ [] → s.rplOf p.ctx = none → p.entry.toNat < 2 ^ 56 →
        let t := taskCount p.n p.slots.length
        ∃ u, exec (.launchStart q) s = .next u ∧ u.lq q = { l with pending := none, chosen := false, served := s.stepNo + 1 } ∧
          u.launches = (s.launches.map fun (x : Launch) => { x with idle := x.idle.filter fun i =>
            !(p.slots.any fun y => y.1.toNat * 32 + y.2.1.toNat == i.1) }) ++ [{
            id := s.fresh, queue := some l.q, ctx := p.ctx, done := p.done, left := t, dies := p.dies
            idle := (p.slots.drop t).map fun x => (x.1.toNat * 32 + x.2.1.toNat, x.2.2), cfg := p.cfg, prio := p.prio }] ∧
          ∀ i x, i < t → p.slots[i]? = some x → ∃ c th ts, (c, th :: ts) ∈ u.crews ∧ c.launch = some s.fresh ∧ c.task = i ∧
            (c.die, c.core, c.slot) = x ∧ c.ctx = p.ctx ∧ c.priv = false ∧ c.trio = p.cfg.getLsbD 24 ∧ c.prio = p.prio ∧
            c.ddlInit = BitVec.ofNat 32 p.ddl ∧ th.csr.vl = BitVec.ofNat 18 (grantOf s.throt c.mvl.toNat (taskElems p.n t i) 4) ∧
            ∀ m ∈ th :: ts, m.pc.toNat = p.entry.toNat ∧ m.life = .run ∧ m.seed = seedOf i p.ts ∧
              m.get 1 = BitVec.ofNat 64 (taskElems p.n t i) ∧ m.get 2 = BitVec.ofNat 64 (taskFirst p.n t i) ∧
              (∀ k, k < 12 → m.get (3 + k) = p.args.getD k 0) ∧ m.get 15 = BitVec.ofNat 64 i ∧
              ∀ k, 16 ≤ k → k < 56 → m.get k = 0) ∧
      (s.canStart p = false → (∀ c ∈ s.crews, c.1.spec = none) → (s.crews.map fun c => c.1.id).Nodup →
        exec (.launchStart q) s = .next (State.mapCrews (if l.chosen then s else s.setLq { l with chosen := true }) fun d =>
          if p.dies.getLsbD d.die.toNat = true ∧ p.prio.toNat < s.slotPrio d ∧ d.prq = false ∧ d.stop = none then
            { d with prq := true, ddl := d.ddlInit }
          else d)))) ∧
  (∀ (p : Packet) (k d core : Nat) (die : BitVec 2), k < crewsOf p.crews → core < 32 → (diesOf p.dies)[d]? = some die →
    p.slots[(k * (diesOf p.dies).length + d) * 32 + core]? = some (die, BitVec.ofNat 5 core, BitVec.ofNat 2 k)) ∧
  (∀ (p : Packet) (s : State), s.canStart p = true ↔
    ((∃ c, s.ctxOf p.ctx = some c ∧ c.st ≠ .killed) ∧ (∀ x ∈ p.prqs, x.2.toNat ≤ s.prqWord p.ctx x.1) ∧
      (∀ c ∈ s.ctxs, ∀ a ∈ c.saved, a.resume = true → a.complete = true → p.dies.getLsbD a.die.toNat = true →
        p.prio.toNat < a.kept.prio.toNat) ∧
      ∀ x ∈ p.slots, s.dieRdy.getLsbD x.1.toNat = true ∧ (∀ c ∈ s.crews, c.1.coreIx ≠ x.1.toNat * 32 + x.2.1.toNat) ∧
        ∀ l ∈ s.launches, (∃ i ∈ l.idle, i.1 = x.1.toNat * 32 + x.2.1.toNat) → p.prio.toNat < l.prio.toNat)) ∧
  (∀ (q : BitVec 12) (s : State), s.isFirstHead q = true ↔ ∃ x ∈ s.readyHeads, x.1.q = q ∧
    (∀ l ∈ s.queues, l.chosen = true → ∀ t, l.pending = some t → t.dies &&& x.2.dies = 0) ∧
    ∀ y ∈ s.readyHeads, y.1.q ≠ q → y.2.dies &&& x.2.dies ≠ 0 → x.2.prio.toNat < y.2.prio.toNat ∨
      (x.2.prio = y.2.prio ∧ (x.1.served < y.1.served ∨ (x.1.served = y.1.served ∧ x.1.q.toNat < y.1.q.toNat)))) ∧
  (∀ (l : LQueue) (p : Packet) (s : State), (l, p) ∈ s.readyHeads ↔
    l ∈ s.queues ∧ l.pending = some p ∧ l.chosen = false ∧ ∀ x ∈ p.prqs, x.2.toNat ≤ s.prqWord p.ctx x.1) ∧
  (∀ (ctx : BitVec 16) (area : Nat) (p : Place) (c : Ctx) (a : SavedCrew) (s : State), s.ctxOf ctx = some c →
    c.saved.find? (fun x => x.area == area) = some a →
    (s.canResume a p = false → exec (.savedTaskResume ctx area p) s = .next s) ∧
    (∀ t, s.canResume a p = true → s.restoreCrew ctx area p.die p.core = .ok t →
      exec (.savedTaskResume ctx area p) s = .next t) ∧
    (∀ d, s.canResume a p = true → s.restoreCrew ctx area p.die p.core = .error (.uncorr d) →
      exec (.savedTaskResume ctx area p) s = .next ((s.withdraw (d / 1024)).kill ctx (bareFault fltUncorr))))

/-- R41, R243, R244, R254, R255, R321, R328, R349, R350: what happens to crews and threads by themselves: the forced
save at ddl 0, the save at yield once every thread has settled and what its threads have queued has committed (log 6),
the end of a save that takes 540,000 cycles, the watchdog, breakpoints and ended steps stop a crew or kill its context; a sleeping thread's words are checked after
every step, so that what has satisfied it stays, and it wakes once they suffice; a held scalar store and the elements
of committed vector stores perform. A saved crew leaves its slot with its registers in its context's save area. The
model's choices: where in its pool the area stands (log 70), and when a step has ended (log 45). -/
def Obligations.CrewEvents : Prop :=
  (∀ (crew : Nat) (s u : State), s.focusCrew crew = some u →
    let left : Prop := ∃ t ∈ u.team, t.vq ≠ []
    let yields : Prop := ∃ st, u.crew.stop = some st ∧ st.reason = 0
    let due : Prop := u.crew.stop = none ∧ (∀ t ∈ u.team, t.sleep ≠ none ∨ t.life ≠ .run) ∧ u.crew.prq = true
    exec (.preemptDeadlineExpiry crew) s = .next (if u.crew.prq = true ∧ u.crew.ddl = 0 ∧
        (u.crew.stop = none ∨ (yields ∧ left)) then (u.stopCrew 1 none false).trySave else s) ∧
    (∀ st, u.crew.stop = some st → st.reason ≠ 0 → exec (.crewSave crew) s = .next u.trySave) ∧
    (due ∨ yields → ¬left → exec (.crewSave crew) s = .next ((u.stopCrew 0 none false).trySave)) ∧
    (due → left → exec (.crewSave crew) s = .next (State.openArea { u with crew := { u.crew with
      stop := some { reason := 0, fault := none, dbg := false, area := none }, stallCycles := 0 } })) ∧
    (yields → left → exec (.crewSave crew) s = .next u.openArea) ∧
    (u.crew.stop = none → ((∃ t ∈ u.team, t.sleep = none ∧ t.life = .run) ∨ u.crew.prq = false) →
      exec (.crewSave crew) s = .next s) ∧
    exec (.saveTimeout crew) s = .next (if u.crew.stop ≠ none ∧ 540000 ≤ u.crew.stallCycles then
      u.kill u.crew.ctx (bareFault fltSaveTimeout) else s) ∧
    (let w := u.wdogOf u.crew.ctx
     exec (.hangWatchdogExpiry crew) s = .next (if u.crew.stop = none ∧ 0 < w ∧ w ≤ u.crew.stallCycles then
      (u.stopCrew 4 (some (bareFault fltHang)) false).trySave else s)) ∧
    (u.crew.stepping = none → exec (.stepComplete crew) s = .next s) ∧
    (u.crew.stepping = some 4 → u.thr.idx = 0 → u.mates = [] → u.crew.stop = none → u.thr.vq = [] → u.thr.unperf = [] →
      u.thr.held = none → u.thr.sleep = none → u.thr.life = .run → u.ops = [] → u.pushes = [] →
      exec (.stepComplete crew) s = .next (u.stopForDebug 2 none))) ∧
  (∀ (reason : BitVec 4) (cx : Ctx) (s : State), Savable s cx →
    ∃ sv th, let t := (s.stopCrew reason none false).trySave
      t.live = false ∧ (∃ cx1, t.ctxOf s.crew.ctx = some cx1 ∧ cx1.saved = cx.saved ++ [sv] ∧ cx1.st = .saved) ∧
      sv.area = s.poolTop s.crew.ctx ∧ sv.crewId = s.crew.id ∧ (sv.die, sv.core, sv.slot) = (s.crew.die, s.crew.core, s.crew.slot) ∧
      sv.complete = true ∧ (sv.resume = true ↔ reason = 0 ∨ reason = 1) ∧ sv.threads = [th] ∧ th.pc = s.thr.pc ∧
      th.regs = s.thr.regs ∧ th.csr = s.thr.csr ∧ th.fflags = s.thr.fflags ∧ th.iv = s.thr.iv ∧ th.pr = s.thr.pr) ∧
  (∀ (r : TRef) (s u : State), s.focus r = some u →
    let woken (v : Word) (d : Fin 56) : State :=
      let x := u.put (.s d) v
      State.countCore { x with thr := { x.thr with pc := x.thr.pc + 4, sleep := none } } u.crew.coreIx 221 1
        (some (whoOf u.crew u.thr))
    (∀ a v d x, u.thr.sleep = some (.waitc a v d (some x)) → exec (.waitcWake r) s = .next (woken x d)) ∧
    (∀ a v d, u.thr.sleep = some (.waitc a v d none) → u.crew.heldBack = [] →
      (a.toNat / 2 ^ 62 = 1 → a.extractLsb' 23 9 = u.pkg) →
      let now := seen u a 8
      exec (.waitcWake r) s = .next (if v.toNat ≤ now then woken (BitVec.ofNat 64 now) d else u)) ∧
    (∀ all es sn d, u.thr.sleep = some (.gc all es sn d) → es.length ≤ 64 → u.crew.heldBack = [] →
      (∀ e ∈ es, e.1.toNat / 2 ^ 62 = 1 → e.1.extractLsb' 23 9 = u.pkg) →
      let now := maskWord (es.map fun e => decide (e.2.toNat ≤ seen u e.1 8))
      let full := BitVec.ofNat 64 (2 ^ es.length - 1)
      let stays (v : Word) : State := { u with thr := { u.thr with sleep := some (.gc all es v d) } }
      (all = true → exec (.gcsleepWake r) s = .next
        (if sn = full ∨ sn ||| now = full then woken full d else stays (sn ||| now))) ∧
      (all = false → exec (.gcsleepWake r) s = .next
        (if sn ≠ 0 then woken sn d else if now ≠ 0 then woken now d else stays 0))) ∧
    (∀ w, u.thr.sleep = some w →
      ((∃ a ∈ w.words, a.toNat / 2 ^ 62 = 2) →
        exec (.hostWordPoll r) s = exec (match w with | .waitc _ _ _ _ => .waitcWake r | .gc _ _ _ _ => .gcsleepWake r) s) ∧
      ((∀ a ∈ w.words, a.toNat / 2 ^ 62 ≠ 2) → exec (.hostWordPoll r) s = .next s)) ∧
    (u.thr.sleep = none → exec (.waitcWake r) s = .next s ∧ exec (.gcsleepWake r) s = .next s ∧
      exec (.hostWordPoll r) s = .next s) ∧
    (u.thr.sleep = none → u.thr.life = .run ∨ (∃ w, u.thr.life = .stalled w) → u.crew.stop = none →
      u.breaks u.crew.ctx u.thr = true → Due u →
      exec (.breakpointStop r) s = .next (State.stopForDebug { u with thr := { u.thr with skipBrk := true } } 0
        (some (faultOf u.crew u.thr { code := 0 })))) ∧
    (u.breaks u.crew.ctx u.thr = false → exec (.breakpointStop r) s = .next s) ∧
    (∀ h, u.thr.held = some h → (∀ e ∈ u.thr.vq, h.seq < e.seq) → u.thr.unperf = [] → u.crew.speculating = false →
      (h.addr.toNat / 2 ^ 62 = 1 → h.addr.extractLsb' 23 9 = u.pkg) →
      exec (.accessPerformed r) s = .next (State.drawn (let x := sigUse (stored u h.addr h.bytes) h.addr 1
        { x with thr := { x.thr with held := none } }))) ∧
    (u.thr.held = none → u.thr.unperf = [] → exec (.accessPerformed r) s = .next s) ∧
    (u.thr.held = none → (∀ x ∈ u.thr.unperf, x.cells ≠ []) → u.thr.unperf ≠ [] → ∃ x ∈ u.thr.openStores, ∃ now rest k,
      (now ++ rest).Perm x.cells ∧ now ≠ [] ∧ u.thr.unperf[k]? = some x ∧
      exec (.accessPerformed r) s = .next (State.drawn (let y := performed u x now
        { y with thr := { y.thr with unperf :=
          if rest = [] then u.thr.unperf.eraseIdx k else u.thr.unperf.set k { x with cells := rest } } })))) ∧
  (∀ (a v : Word) (d : Fin 56) (s : State), s.thr.sleep = some (.waitc a v d none) → s.crew.heldBack = [] →
    let now := seen s a 8
    a.toNat / 2 ^ 62 = 0 ∨ (a.toNat / 2 ^ 62 = 1 ∧ a.extractLsb' 23 9 = s.pkg) →
      s.settled.thr.sleep = some (.waitc a v d (if v.toNat ≤ now then some (BitVec.ofNat 64 now) else none))) ∧
  (∀ (all : Bool) (es : List (Word × Word)) (sn : Word) (d : Fin 56) (s : State), s.thr.sleep = some (.gc all es sn d) →
    s.crew.heldBack = [] → es.length ≤ 64 →
    (∀ e ∈ es, e.1.toNat / 2 ^ 62 = 0 ∨ (e.1.toNat / 2 ^ 62 = 1 ∧ e.1.extractLsb' 23 9 = s.pkg)) →
    let now := maskWord (es.map fun e => decide (e.2.toNat ≤ seen s e.1 8))
    s.settled.thr.sleep = some (.gc all es (if all then sn ||| now else if sn = 0 then now else sn) d))

/-! ## The package and its mailbox -/

/-- R225, R302, R329-R331, R335, R337, R356-R364: what happens to the package. Power good leaves reset, a die whose core
fails its self-test retired; the stages follow one another, the second with a fabric map and a relay table; a port
trains, or is retired; a flit in sequence is taken, one that fails its CRC is NAKed, a NAKed one is sent again with all
later ones of the retry buffer, and the eighth failure in succession takes the link down; new readings lower issue
rates, and 115 °C saves every context and holds the package until every die is below 95 °C; a firmware fault kills every
context; an uncorrectable word kills the running context it hits, or is delivered to the tokens of the operations that
read it or to the driver, poisons and logs a vector register word, or withdraws a frame, and a core's second register
error retires its die; the peer window reads and writes scratchpads; an SPDM request is answered over the three
measurements. The model's choices: what is outside (log 1), how an SRAM word is numbered, whose an untagged line is and
what a self-test or a second register error retires (log 48), when a hold ends (log 47), and that the peer window
passes the owner tags (log 49). -/
def Obligations.PackageEvents : Prop :=
  (∀ s : State, ∃ bad : BitVec 4, exec .powerGood s = .next { State.reset with
    host := s.host, hostDenied := s.hostDenied, inputs := s.inputs, stepNo := s.stepNo, draw := s.draw + 1, fresh := s.fresh
    capclass := s.capclass, deadDies := s.deadDies ||| bad, pkg := s.pkg, xyz := s.xyz, lag := s.lag, slack := s.slack }) ∧
  (∀ (d : BitVec 2) (s : State),
    exec (.stage1Ready d) s = .next (if 1 ≤ s.stage.toNat ∧ s.deadDies.getLsbD d.toNat = false then
      { s with dieRdy := s.dieRdy ||| BitVec.ofNat 4 (2 ^ d.toNat) } else s) ∧
    (s.stage = 1 → ∃ f l r, let t : State := { s with stage := 2, fabric := f, badLinks := l, relay := r, draw := s.draw + 1 }
      s.pkg ∈ f ∧ RelayTable t ∧ exec .stage2Ready s = .next t) ∧
    (s.stage ≠ 1 → exec .stage2Ready s = .next s) ∧
    exec .stage3Ready s = .next (if s.stage = 2 then { s with stage := 3 } else s)) ∧
  (∀ (p : BitVec 5) (h : p.toNat < 24) (seq : BitVec 12) (s : State),
    let x := s.ports[p.toNat]
    (1 ≤ s.stage.toNat → x.retired = false → ∃ c, exec (.portTrained p) s = .next { s with
      phRdy := s.phRdy ||| BitVec.ofNat 24 (2 ^ p.toNat), draw := s.draw + 1
      ports := s.ports.set p.toNat { x with trained := true, comp := c } }) ∧
    (s.stage.toNat = 0 ∨ x.retired = true → exec (.portTrained p) s = .next s) ∧
    (x.trained = true → exec (.portTrainingTimeout p) s = .next s) ∧
    (x.trained = false → ∃ t, exec (.portTrainingTimeout p) s = .next t ∧ PortRetired s t p.toNat h) ∧
    (∃ t, exec (.linkDown p) s = .next t ∧ PortRetired s t p.toNat h) ∧
    (∃ t, exec (.uncorrectedCodewordLimit p) s = .next t ∧ PortRetired s t p.toNat h) ∧
    (x.trained = false → ∀ good, exec (.flitReceive p seq good) s = .next s ∧ exec (.flitNak p seq) s = .next s) ∧
    (x.trained = true → x.fails < 8 → x.txFails < 8 →
      let put (u : State) (y : Port) : State := { u with ports := s.ports.set p.toNat y }
      (seq ≠ x.rx → ∀ good, exec (.flitReceive p seq good) s = .next s) ∧
      (seq = x.rx → exec (.flitReceive p seq true) s =
        .next (put (s.countPort p.toNat 1 1) { x with rx := x.rx + 1, nak := false, fails := 0 })) ∧
      (seq = x.rx → x.fails < 7 → exec (.flitReceive p seq false) s = .next (put s { x with nak := true, fails := x.fails + 1 })) ∧
      (seq = x.rx → x.fails = 7 → ∃ t, exec (.flitReceive p seq false) s = .next t ∧
        PortRetired (put s { x with nak := true, fails := 8 }) t p.toNat h) ∧
      (let again := x.sent.dropWhile fun f => f.seq != seq
       let c := s.countPort p.toNat 2 again.length
       let k := if x.replayFrom = some seq then x.txFails + 1 else 1
       let y : Port := { x with replayFrom := some seq, txFails := k }
       (again = [] → exec (.flitNak p seq) s = .next s) ∧
       (again ≠ [] → k < 8 → exec (.flitNak p seq) s = .next (put c y)) ∧
       (again ≠ [] → k = 8 → ∃ t, exec (.flitNak p seq) s = .next t ∧ PortRetired (put c y) t p.toNat h)))) ∧
  (∀ (w : BitVec 16) (t : BitVec 48) (s : State),
    let low (p : BitVec 16) : Bool := decide (s.cap.toNat < p.toNat) || (List.range 6).any fun k => decide (105 < temp t k)
    ∀ (i : Instr) (p : BitVec 16),
      ((i = .powerThrottle w t ∨ i = .throttleEnd w t) ∧ p = w) ∨ ((i = .thermalTrip t ∨ i = .thermalRecovery t) ∧ p = s.power) →
      ((∀ k, k < 6 → temp t k < 115) →
        (s.hold = false ∨ (∃ k, k < 6 ∧ 95 ≤ temp t k) → exec i s = .next { s with power := p, temps := t, throt := low p }) ∧
        (s.hold = true → (∀ k, k < 6 → temp t k < 95) → exec i s = .next { s with
          power := p, temps := t, throt := low p, hold := false, stage := if s.fw = none then 0 else 1 })) ∧
      (∀ k, k < 6 → 115 ≤ temp t k → ∃ u, exec i s = .next u ∧ u.hold = true ∧ u.stage = 0 ∧ u.dieRdy = 0 ∧
        ((∀ c ∈ s.crews, c.1.spec = none ∧ c.2 ≠ [] ∧ ∀ x, c.1.stop = some x → x.fault = none ∨ x.reason = 2 ∨ x.reason = 4 ∨ x.dbg = true) →
          (s.crews.map fun c => c.1.id).Nodup → ∀ c ∈ u.crews, c.1.stop ≠ none))) ∧
  (∀ s : State, ∃ t, exec .firmwareFault s = .next t ∧ t.stage = 0 ∧ t.dieRdy = 0 ∧ t.fw = none ∧
    (∀ c ∈ t.ctxs, c.st = .killed) ∧ (∀ c ∈ s.ctxs, (∀ p ∈ t.crews, p.1.ctx ≠ c.ctx) ∧ ∀ o ∈ t.ops, o.ctx ≠ c.ctx)) ∧
  (∀ (n : Nat) (bad : List Nat) (s : State),
    exec (.sramScrub []) s = .next s ∧
    (∀ t, exec (.sramScrub [n]) s = .next t → exec (.sramScrub (n :: bad)) s = exec (.sramScrub bad) t) ∧
    (n < 2 ^ 29 → let tag := s.spadTag.get (n / 64)
      (tag = 0 → ∃ t, exec (.sramScrub [n]) s = .next t ∧ t.stage = 0 ∧ t.fw = none ∧ ∀ c ∈ t.ctxs, c.st = .killed) ∧
      (tag ≠ 0 → (∀ c ∈ s.ctxs, c.owner = tag → c.st = .killed) → exec (.sramScrub [n]) s = .next s) ∧
      (∀ c, tag ≠ 0 → s.ctxs.find? (fun x => x.owner == tag && x.st != .killed) = some c →
        let l := s.ops.filter fun o => o.ctx == c.ctx && o.core == n / 2 ^ 22 &&
          (match s.opReads o with | some r => decide (r.1 ≤ n % 2 ^ 22) && decide (n % 2 ^ 22 < r.2) | none => false)
        (c.st = .running → exec (.sramScrub [n]) s = .next (s.kill c.ctx (bareFault fltUncorr))) ∧
        (c.st ≠ .running → l = [] → exec (.sramScrub [n]) s = .next (s.report c.ctx (bareFault fltUncorr))) ∧
        (c.st ≠ .running → l ≠ [] → exec (.sramScrub [n]) s = .next (l.foldl (fun (u : State) o =>
          (match o.kind with
            | .cpy _ _ _ id | .swrite _ _ _ id => u.outEnd o id true
            | _ => u).endOp o (-fltUncorr.setWidth 64) 0) s)))) ∧
    (∀ core slot r e, core < 128 → slot < 4 → r < 128 → e < 32768 → n = 2 ^ 29 + ((core * 4 + slot) * 128 + r) * 32768 + e →
      ∃ t, exec (.sramScrub [n]) s = .next t ∧ t.spad = s.spad ∧
        (∀ p ∈ t.crews, p.1.coreIx = core → p.1.slot.toNat = slot → r < countOf p.1.count → e < p.1.mvl.toNat →
          ∃ w ∈ p.1.poison, w.reg = r ∧ w.elem = e) ∧
        (∀ p ∈ s.crews, p.1.coreIx = core → p.1.slot.toNat = slot → r < countOf p.1.count → e < p.1.mvl.toNat →
          (∀ q ∈ s.crews, q.1.coreIx = core → q.1.slot.toNat = slot → q = p) → (∀ w ∈ p.1.poison, ¬(w.reg = r ∧ w.elem = e)) →
          (∃ w, (p.1.ctx, w) ∈ t.latent ∧ w.reg = r ∧ w.elem = e) ∧
          (let die := BitVec.ofNat 4 (2 ^ (core / 32))
           (t.deadDies, t.dieRdy) = if s.regErrs.get core = 0 then (s.deadDies, s.dieRdy)
            else (s.deadDies ||| die, s.dieRdy &&& ~~~die)))) ∧
    (∀ core slot c cx, core < 128 → slot < 4 → n = 2 ^ 29 + 2 ^ 31 + slot * 1024 + core * 8 → s.crewIn core slot = some c →
      s.ctxOf c.ctx = some cx → cx.st = .running →
      exec (.sramScrub [n]) s = .next ((s.kill cx.ctx (bareFault fltUncorr)).regError core)) ∧
    (∀ k g cx, n = 2 ^ 29 + 2 ^ 31 + k * 4096 + 4 → kvGet s.sigOwn k = some g → s.ctxOf g = some cx → cx.st = .running →
      exec (.sramScrub [n]) s = .next (s.kill cx.ctx (bareFault fltUncorr))) ∧
    (∀ k x off cx, n = 2 ^ 29 + 2 ^ 31 + k * 4096 + 5 → s.extAt (k * 64) 64 = some (x, off) → s.ctxOf x.ctx = some cx →
      cx.st = .running → exec (.sramScrub [n]) s = .next (s.kill cx.ctx (bareFault fltUncorr))) ∧
    exec (.dramPatrolScrub []) s = .next s ∧
    (∃ t, exec (.dramPatrolScrub [n]) s = .next t ∧ n ∈ t.withdrawn ∧ (∃ k, k < 1024 ∧ n * 1024 + k ∈ t.dramBad) ∧
      (n ∉ s.withdrawn → ∀ c ∈ t.ctxs, ∀ p ∈ c.pools, ¬(p.1 ≤ n * 65536 ∧ n * 65536 < p.1 + p.2)) ∧
      ∀ x, s.exts.find? (fun y => y.parts.any fun p => decide (p.1 < (n + 1) * 65536) && decide (n * 65536 < p.1 + p.2)) = some x →
        ∀ c ∈ t.ctxs, c.ctx = x.ctx → c.st = .killed)) ∧
  (∀ (off : BitVec 29) (len : Nat) (bs : List (BitVec 8)) (s : State), s.spad.wf = true →
    exec (.peerWindowAccess off len none) s = .next { s with hostOut := (List.range len).map fun i =>
      if off.toNat + i < 2 ^ 29 ∧ (off.toNat + i) % 2 ^ 22 < 0x300000 then SMap.get (n := 8) s.spad (off.toNat + i) else 0 } ∧
    ∃ m : Mem, exec (.peerWindowAccess off len (some bs)) s = .next { s with spad := m } ∧
      ∀ k, SMap.get (n := 8) m k = if off.toNat ≤ k ∧ k < off.toNat + Nat.min len bs.length ∧ k < 2 ^ 29 ∧ k % 2 ^ 22 < 0x300000 then
        bs.getD (k - off.toNat) 0 else SMap.get (n := 8) s.spad k) ∧
  (∀ (req : List (BitVec 8)) (s : State), exec (.spdmRequest req) s = .next { s with
    spdm := Config.spdmAnswer req [Config.sha384 Config.bootRom,
      (match s.fw with | some f => f.digest | none => Config.sha384 []), Config.sha384 s.fuseWord] })

/-- R306, R331-R333, R335: the mailbox. A command that arrives while another executes is ignored; before its stage it
ends with NOTREADY, and with a reserved or an unnamed operand bit set with BADARG; an OP that no command has ends with
BADOP. A host write to the command register starts the command of its OP with the MBARG registers as operands, and does
what the command does that arrives over MCTP, but for the reply; one to an MBARG register sets it; read-only and
unassigned registers ignore writes. The host reads the registers at their offsets, MBSTAT as RUN, TAG and STATUS. The model's
choices: NOTREADY is found before BADARG (log 44), what an MCTP command and an unassigned register are (log 76), and
that a command of stage 1 needs a ready die (log 67). -/
def Obligations.MailboxProtocol : Prop :=
  (∀ (i : Instr) (op n : Nat) (a : MbArgs) (ms : List Word), cmdForm i = some (op, n, a, ms) →
    ∃ f : MbArgs → State → State, commandOf op = some f ∧ ∀ s : State,
      (s.mbox.run = true → exec i s = .next s) ∧
      (s.mbox.run = false → exec i s = .next (f a (started s op a true))) ∧
      (∀ m : Bool, let s1 := started s op a m
        (¬StageReached s n → f a s1 = answered s1 4 []) ∧
        (StageReached s n → ¬OperandsOk a ms → f a s1 = answered s1 3 [])) ∧
      (∀ v : Word, v.toNat % 65536 = op →
        (s.mbox.run = true → exec (.registerWrite 0 v) s = .next s) ∧
        (let g (k : Nat) : Word := s.mbox.args.getD k 0
         a = { tag := v.extractLsb' 48 16, rsv := v.extractLsb' 16 32, a0 := g 0, a1 := g 1, a2 := g 2, a3 := g 3, a4 := g 4
               a5 := g 5, a6 := g 6, a7 := g 7 } →
         s.mbox.run = false → exec (.registerWrite 0 v) s =
           .next (f a (started { s with mbox := { s.mbox with cmd := v } } op a false))))) ∧
  (∀ (op tag : BitVec 16) (v : Word) (s : State), (∀ i o n a ms, cmdForm i = some (o, n, a, ms) → o ≠ op.toNat) →
    (s.mbox.run = true → exec (.unknownOp op tag) s = .next s) ∧
    (s.mbox.run = false → ∃ a, a.tag = tag ∧ exec (.unknownOp op tag) s = .next (answered (started s op.toNat a true) 6 [])) ∧
    (s.mbox.run = false → v.toNat % 65536 = op.toNat → ∃ a, a.tag = v.extractLsb' 48 16 ∧ exec (.registerWrite 0 v) s =
      .next (answered (started { s with mbox := { s.mbox with cmd := v } } op.toNat a false) 6 []))) ∧
  (∀ (s : State) (k : Nat), k < 8 →
    s.registerRead 0 = s.mbox.cmd ∧ s.registerRead (8 + 8 * k) = s.mbox.args.getD k 0 ∧
    s.registerRead (0x48 + 8 * k) = s.mbox.res.getD k 0 ∧
    s.registerRead 0x88 = BitVec.ofNat 64 ((if s.mbox.run then 2 ^ 63 else 0) + s.mbox.tag.toNat * 2 ^ 32 + s.mbox.status.toNat) ∧
    s.registerRead 0x1000 = BitVec.ofNat 64 (s.phRdy.toNat * 2 ^ 8 + s.dieRdy.toNat * 2 ^ 4 + s.stage.toNat)) ∧
  (∀ (off : BitVec 21) (v : Word) (k : Nat) (s : State),
    (off.toNat = 8 * k → 1 ≤ k → k ≤ 8 → exec (.registerWrite off v) s =
      .next { s with mbox := { s.mbox with args := s.mbox.args.set (k - 1) v } }) ∧
    ((0x48 ≤ off.toNat ∧ off.toNat < 0x100000) ∨ 0x120000 ≤ off.toNat → exec (.registerWrite off v) s = .next s))

/-- R308, R310, R312, R313, R318, R321, R327, R333, R336, R337: what the commands on firmware and contexts do when they
are accepted, and the statuses that refuse them. The model's choices: statuses and ranges that the spec does not name
(log 44; the DRAM's addresses, log 9), where a saved area stands (log 70), and which signal lines a context gets (log
73). -/
def Obligations.ContextCommands : Prop :=
  ∀ (a : MbArgs) (s : State),
    let ctx : BitVec 16 := a.a0.setWidth 16
    let hi : BitVec 16 := a.a0.extractLsb' 16 16
    (Accepts s (.resync a) → let s0 := begun s (.resync a)
      (HostOk s a.a0 4096 4096 → exec (.resync a) s = .next (answered { s0 with host := s0.host.put a.a0.toNat s.summary } 0 []) ∧
        s.summary.length = 4096 ∧ leNat (s.summary.take 8) = s.phRdy.toNat * 2 ^ 8 + s.dieRdy.toNat * 2 ^ 4 + s.stage.toNat ∧
        (∀ f, s.fw = some f → leNat ((s.summary.drop 8).take 8) = f.version.toNat ∧
          leNat ((s.summary.drop 16).take 48) = f.digest.toNat) ∧
        ∀ k c, k < 248 → s.ctxs[k]? = some c → ∃ code, code = (match c.st with | .running => 0 | .saved => 1 | .killed => 2) ∧
          leNat ((s.summary.drop (128 + 16 * k)).take 4) = c.ctx.toNat + c.owner.toNat * 2 ^ 16 + code * 2 ^ 26) ∧
      (¬HostOk s a.a0 4096 4096 → exec (.resync a) s = .next (answered s0 3 []))) ∧
    (Accepts s (.fwload a) → let s0 := begun s (.fwload a)
      let bs := s.host.bytes a.a0.toNat a.a1.toNat
      (¬HostOk s a.a0 a.a1.toNat 1 → exec (.fwload a) s = .next (answered s0 3 [])) ∧
      (HostOk s a.a0 a.a1.toNat 1 → (∃ c ∈ s.ctxs, c.st ≠ .killed) → exec (.fwload a) s = .next (answered s0 1 [])) ∧
      (HostOk s a.a0 a.a1.toNat 1 → (∀ c ∈ s.ctxs, c.st = .killed) → exec (.fwload a) s = .next (if Config.signatureOk bs then
        answered { s0 with
          fw := some { version := Config.imageVersion bs, digest := Config.sha384 bs }
          stage := if s.hold then 0 else 1, dieRdy := 0 } 0 []
        else answered s0 2 []))) ∧
    (Accepts s (.ctxnew a) → let s0 := begun s (.ctxnew a)
      let owner : BitVec 10 := a.a0.extractLsb' 16 10
      (s.ctxOf ctx ≠ none ∨ 248 ≤ s.ctxs.length → exec (.ctxnew a) s = .next (answered s0 3 [])) ∧
      (s.ctxOf ctx = none → s.ctxs.length < 248 →
        ((s.keySlot owner).retired = true → exec (.ctxnew a) s = .next (answered s0 1 [])) ∧
        ((s.keySlot owner).retired = false → ∃ lines : List Nat, (∀ l ∈ lines, kvGet s.sigOwn l = none) ∧
          exec (.ctxnew a) s = .next (answered { s0 with
            ctxs := s.ctxs ++ [{
              ctx := ctx, owner := owner, translate := false, root := none, cab := [], bureau := [], pools := [], trap := none
              st := .running, faults := [], dbg := none, brks := [], trc := none, rpl := none, tlb := [], saved := [], images := [] }]
            sigOwn := s.sigOwn ++ lines.map fun l => (l, ctx)
            sig := s.sig.filter fun e => !lines.contains (e.1 / 64)
            draw := s.draw + 1 } 0 [])))) ∧
    (Accepts s (.ctxkill a) →
      (s.ctxOf ctx = none → exec (.ctxkill a) s = .next (answered (begun s (.ctxkill a)) 3 [])) ∧
      (∀ c, s.ctxOf ctx = some c → ∃ t, exec (.ctxkill a) s = .next (answered t 0 [BitVec.ofNat 64 (s.crews.countP fun p => p.1.ctx == ctx)]) ∧
        t.ctxOf ctx = none ∧ (∀ p ∈ t.crews, p.1.ctx ≠ ctx) ∧ (∀ o ∈ t.ops, o.ctx ≠ ctx) ∧ (∀ x ∈ t.exts, x.ctx ≠ ctx) ∧
        (∀ x ∈ t.bufs, x.ctx ≠ ctx) ∧ (∀ x ∈ t.tasks, x.ctx ≠ ctx) ∧ (∀ x ∈ t.launches, x.ctx ≠ ctx) ∧
        (∀ x ∈ t.queues, x.ctx = ctx → x.pending = none) ∧
        (c.owner ≠ 0 → (∀ d ∈ s.ctxs, d.ctx ≠ ctx → d.owner ≠ c.owner) → (t.keySlot c.owner).retired = true))) ∧
    (Accepts s (.xlate a) → let s0 := begun s (.xlate a)
      (s.ctxOf ctx = none ∨ a.a1.toNat % 2048 ≠ 0 ∨ 2 ^ 52 ≤ a.a1.toNat → exec (.xlate a) s = .next (answered s0 3 [])) ∧
      (s.ctxOf ctx ≠ none → a.a1.toNat % 2048 = 0 → a.a1.toNat < 2 ^ 52 → exec (.xlate a) s = .next (
        if s.crews.any (fun p => p.1.ctx == ctx) then answered s0 1 [] else
        answered (s0.modCtx ctx fun c => { c with root := some a.a1.toNat, translate := a.a2.getLsbD 0 }) 0 []))) ∧
    (Accepts s (.keyload a) → let s0 := begun s (.keyload a)
      let k : BitVec 10 := a.a0.setWidth 10
      (a.a0 = 0 ∨ ¬HostOk s a.a1 64 64 → exec (.keyload a) s = .next (answered s0 3 [])) ∧
      (a.a0 ≠ 0 → HostOk s a.a1 64 64 → ((s.keySlot k).retired = true → exec (.keyload a) s = .next (answered s0 1 [])) ∧
        ((s.keySlot k).retired = false → ∃ t, exec (.keyload a) s = .next (answered t 0 []) ∧
          (t.keySlot k).key = BitVec.ofNat 512 (leNat (s.host.bytes a.a1.toNat 64)) ∧ (t.keySlot k).retired = false ∧
          (∀ x ∈ s.keys, x.slot ≠ k → x ∈ t.keys) ∧ t.exts = s.exts ∧ t.crews = s.crews ∧
          List.Forall₂ (fun (c d : Ctx) => (c.owner ≠ k → d = c) ∧ ∃ l, d = { c with bureau := l } ∧
            List.Forall₂ (fun (x y : Nat × BEntry) => y.1 = x.1 ∧ ∃ rs cs, y.2 = { x.2 with recs := rs, claims := cs } ∧
              rs.length = x.2.recs.length ∧ (x.2.inSram = true → ∀ r ∈ x.2.recs, r.spilled = false → r ∈ rs)) c.bureau l)
            s.ctxs t.ctxs))) ∧
    (Accepts s (.purge a) → let k : BitVec 10 := a.a0.setWidth 10
      (a.a0 = 0 → exec (.purge a) s = .next (answered (begun s (.purge a)) 3 [])) ∧
      (a.a0 ≠ 0 → (∀ p ∈ s.crews, s.ownerOf p.1.ctx ≠ k) → s.spadTag.wf = true → ∃ t, exec (.purge a) s = .next (answered t 0 []) ∧
        (∀ l, SMap.get (n := 10) t.spadTag l = if SMap.get (n := 10) s.spadTag l = k then 0 else SMap.get (n := 10) s.spadTag l) ∧
        (∀ x ∈ t.spad, x ∈ s.spad ∧ SMap.get (n := 10) s.spadTag (x.1 / 64) ≠ k) ∧
        (∀ x ∈ s.spad, SMap.get (n := 10) s.spadTag (x.1 / 64) ≠ k → x ∈ t.spad) ∧
        (∀ l g, kvGet s.sigOwn l = some g → s.ownerOf g = k → ∀ x ∈ t.sig, x.1 / 64 ≠ l) ∧
        (∀ c ∈ t.ctxs, c.owner = k → ∀ q ∈ c.bureau, q.2.inSram = true → ∀ r ∈ q.2.recs, r.spilled = false → ∀ b ∈ r.data, b = 0) ∧
        (∀ p ∈ t.pushes, s.ownerOf p.q.ctx = k → ∀ r ∈ p.recs, ∀ b ∈ r, b = 0) ∧
        (t.keySlot k).retired = false)) ∧
    (Accepts s (.trapset a) → let s0 := begun s (.trapset a)
      let ok : Prop := s.ctxOf ctx ≠ none ∧ s.ctxOf hi ≠ none ∧ (∃ g, s.codeObj hi a.a1 = .good g) ∧ s.driverRun hi a.a2 ≠ none
      (¬ok → exec (.trapset a) s = .next (answered s0 3 [])) ∧
      (∀ d, ok → s.codeBad hi a.a1 = some d → exec (.trapset a) s = .next (answered (s0.withdraw (d / 1024)) 3 [])) ∧
      (ok → s.codeBad hi a.a1 = none → exec (.trapset a) s = .next (answered (s0.modCtx ctx fun c => { c with
        trap := some { entry := a.a1, drv := hi, pool := a.a2, wdog := a.a3.toNat } }) 0 []))) ∧
    (Accepts s (.save a) → let s0 := begun s (.save a)
      (s.ctxOf ctx = none ∨ (a.a1 ≠ allBits ∧ 512 ≤ a.a1.toNat) → exec (.save a) s = .next (answered s0 3 [])) ∧
      (s.ctxOf ctx ≠ none → a.a1 = allBits ∨ a.a1.toNat < 512 → s.poolExt ctx = none → exec (.save a) s = .next (answered s0 5 [])) ∧
      (s.poolExt ctx ≠ none → a.a1 = allBits → (∀ p ∈ s.crews, p.1.ctx ≠ ctx) →
        exec (.save a) s = .next (answered s0 0 [BitVec.ofNat 64 (s.poolTop ctx), 0])) ∧
      (∀ cx, Savable s cx → s.crew.ctx = ctx → s.crew.spec = none → (∀ x ∈ cx.saved, x.crewId ≠ s.crew.id) →
        a.a1 = allBits ∨ a.a1 = BitVec.ofNat 64 (s.crew.slot.toNat * 128 + s.crew.core.toNat * 4 + s.crew.die.toNat) →
        ∃ t sv, exec (.save a) s = .next (answered t 0 [BitVec.ofNat 64 (s.poolTop ctx), 1]) ∧ t.live = false ∧
          sv.area = s.poolTop ctx ∧ sv.crewId = s.crew.id ∧ ∃ c1, t.ctxOf ctx = some c1 ∧ c1.saved = cx.saved ++ [sv])) ∧
    (Accepts s (.restore a) → let s0 := begun s (.restore a)
      (s.ctxOf ctx = none → exec (.restore a) s = .next (answered s0 3 [])) ∧
      (∀ c, s.ctxOf ctx = some c → c.saved.find? (fun x => x.area == a.a1.toNat) = none → exec (.restore a) s = .next (answered s0 2 [])) ∧
      (∀ c x, s.ctxOf ctx = some c → c.saved.find? (fun x => x.area == a.a1.toNat) = some x →
        (x.slot ≠ a.a2.extractLsb' 7 2 → exec (.restore a) s = .next (answered s0 3 [])) ∧
        (x.slot = a.a2.extractLsb' 7 2 →
          let core := (a.a2.extractLsb' 0 2).toNat * 32 + (a.a2.extractLsb' 2 5).toNat
          let free : Prop := s.dieRdy.getLsbD (core / 32) = true ∧ s.slotFree core x.slot = true ∧ s.coreAgrees core x.kept.crews = true
          (∀ t, RestoredAs s0 t ctx a.a1.toNat core → exec (.restore a) s = .next (answered t 0 [])) ∧
          (x.complete = false → exec (.restore a) s = .next (answered s0 2 [])) ∧
          (x.complete = true → ¬free → exec (.restore a) s = .next (answered s0 1 [])) ∧
          (∀ e, x.complete = true → free → s0.restoreCrew ctx a.a1.toNat (a.a2.extractLsb' 0 2) (a.a2.extractLsb' 2 5) = .error e →
            exec (.restore a) s = .next (match e with
              | .incomplete => answered s0 2 []
              | .slot | .die => answered s0 3 []
              | .segments => answered s0 1 []
              | .capacity | .image => answered s0 5 [35]
              | .uncorr d => answered (s0.withdraw (d / 1024)) 5 [32]))))) ∧
    (Accepts s (.bpool a) → let s0 := begun s (.bpool a)
      let bad := s.ctxOf ctx = none ∨ a.a1.toNat % 65536 ≠ 0 ∨ a.a2.toNat % 65536 ≠ 0 ∨
        384 * 2 ^ 30 < a.a1.toNat + a.a2.toNat
      (bad → exec (.bpool a) s = .next (answered s0 3 [])) ∧
      (¬bad → s.withdrawn = [] → exec (.bpool a) s = .next (answered (s0.modCtx ctx fun c => { c with
        pools := c.pools ++ [(a.a1.toNat, a.a2.toNat)] }) 0 []))) ∧
    (Accepts s (.evict a) → let s0 := begun s (.evict a)
      (s.ctxOf ctx = none → exec (.evict a) s = .next (answered s0 3 [])) ∧
      (s.ctxOf ctx ≠ none → exec (.evict a) s = .next (if s.crews.any (fun p => p.1.ctx == ctx) then answered s0 1 [] else
        answered (s0.modCtx ctx fun c => { c with bureau := c.bureau.map fun p =>
          if p.2.live && p.2.pinned then (p.1, { p.2 with inSram := false }) else p }) 0 []))) ∧
    (Accepts s (.share a) → let s0 := begun s (.share a)
      (s.driverRun ctx a.a1 = none → exec (.share a) s = .next (answered s0 3 [])) ∧
      (∀ e, s.driverRun ctx a.a1 = some e →
        (s.ctxOf hi = none ∨ e.st ≠ .published → exec (.share a) s = .next (answered s0 3 [])) ∧
        (∀ i, s.ctxOf hi ≠ none → e.st = .published → s.freeIndex hi = some i →
          let g := if s.genAt hi i = 0xFFFF then 1 else s.genAt hi i + 1
          exec (.share a) s = .next (answered (s0.setEntry hi i { e with
            gen := g, shared := some (ctx, a.a1.toNat % 65536), spillOf := none, roots := [] }) 0 [BitVec.ofNat 64 (g.toNat * 65536 + i)]))))

/-- R308, R334, R340-R344, R346, R348, R350, R351, R355, R361, R363: what the commands on queues, queue pairs,
counters, trace, debugging, power and ports do when they are accepted, and the statuses that refuse them; a counter
counts what its control word lets it and wraps to its reload value, and a sweep captures every counter and writes its
total to the counter run. The model's choices: which events an input counts, the others being counted where they happen
(log 43), statuses that the spec does not name (log 44), and the operand words of TRCCFG, STEP, DBGSTOP and RPLCFG (log
45). -/
def Obligations.DeviceCommands : Prop :=
  (∀ (a : MbArgs) (s : State),
    let ctx : BitVec 16 := a.a0.setWidth 16
    let hi : BitVec 16 := a.a0.extractLsb' 16 16
    (Accepts s (.qbind a) → let s0 := begun s (.qbind a)
      let q : BitVec 12 := a.a0.setWidth 12
      (s.ctxOf hi = none ∨ s.boundAt q ≠ none → exec (.qbind a) s = .next (answered s0 3 [])) ∧
      (∀ i, s.ctxOf hi ≠ none → s.boundAt q = none → s.freeQueueIndex hi = some i →
        let g := if s.queueGen hi i = 0xFFFF then 1 else s.queueGen hi i + 1
        ∃ b, b.live = true ∧ b.gen = g ∧ b.kind = .launch ∧ b.launchQ = some q ∧ b.recs = [] ∧
          exec (.qbind a) s = .next (answered (s0.setQueue hi i b) 0 [BitVec.ofNat 64 (g.toNat * 65536 + i)]))) ∧
    (Accepts s (.qunbind a) → let s0 := begun s (.qunbind a)
      let q : BitVec 12 := a.a0.setWidth 12
      (s.boundAt q = none → exec (.qunbind a) s = .next (answered s0 3 [])) ∧
      (∀ r, s.boundAt q = some r →
        ((s.lq q).head = (s.lq q).tail → (s.lq q).pending = none → (∀ l ∈ s.launches, l.queue ≠ some q) →
          exec (.qunbind a) s = .next (answered (s0.modQueue r.ctx r.idx fun b => { b with live := false, launchQ := none }) 0 [])) ∧
        (¬((s.lq q).head = (s.lq q).tail ∧ (s.lq q).pending = none ∧ ∀ l ∈ s.launches, l.queue ≠ some q) →
          exec (.qunbind a) s = .next s0))) ∧
    (Accepts s (.nvmeqp a) → let s0 := begun s (.nvmeqp a)
      let d : BitVec 5 := a.a0.setWidth 5
      let q : BitVec 8 := a.a0.extractLsb' 8 8
      let depth := (a.a3.extractLsb' 16 11).toNat
      let core := (a.a3.extractLsb' 0 2).toNat * 32 + (a.a3.extractLsb' 2 5).toNat
      let ok : Prop := s.ctxOf hi ≠ none ∧ 2 ≤ depth ∧ depth ≤ 1024 ∧ (a.a6 = 512 ∨ a.a6 = 4096) ∧
        a.a4.toNat + 80 * depth ≤ 0x300000 ∧ (∀ b ∈ s.bufs, b.core = core → b.base + b.size ≤ a.a4.toNat ∨ a.a4.toNat + 80 * depth ≤ b.base) ∧
        s.nvme.find? (fun x => x.drive == d && x.qp == q) = none
      (¬ok → exec (.nvmeqp a) s = .next (answered s0 3 [])) ∧
      (ok → exec (.nvmeqp a) s = .next (answered { s0 with nvme := s.nvme ++ [{
        drive := d, qp := q, ctx := hi, die := a.a3.extractLsb' 0 2, core := a.a3.extractLsb' 2 5, depth := depth, sq := a.a4.toNat
        nsid := a.a5.setWidth 32, lba := a.a6.toNat, sqDb := a.a1, cqDb := a.a2, tail := 0, head := 0, phase := true
        out := [], err := 0 }] } 0 []))) ∧
    (∀ i, i = .nvmeunqp a ∨ i = .nvmeerr a → Accepts s i →
      let x := s.nvme.find? fun y => y.drive == a.a0.setWidth 5 && y.qp == a.a0.extractLsb' 8 8
      ((∀ y, x = some y → y.ctx ≠ hi) → exec i s = .next (answered (begun s i) 3 [])) ∧
      (∀ y, x = some y → y.ctx = hi →
        (i = .nvmeerr a → exec i s = .next (answered (begun s i) 0 [y.err.setWidth 64])) ∧
        (i = .nvmeunqp a → exec i s = .next (if y.out = [] then answered { begun s i with
          nvme := s.nvme.filter fun z => !(z.drive == y.drive && z.qp == y.qp) } 0 [] else begun s i)))) ∧
    (Accepts s (.cntcfg a) → exec (.cntcfg a) s = .next (if 1 ≤ a.a0.toNat ∧ a.a0.toNat ≤ 50 then
      answered { begun s (.cntcfg a) with cntPeriod := a.a0.toNat } 0 [] else answered (begun s (.cntcfg a)) 3 [])) ∧
    (¬CounterOk a → ∀ i, i = .cntread a ∨ i = .cntclr a ∨ i = .cntprog a → Accepts s i → exec i s = .next (answered (begun s i) 3 [])) ∧
    (CounterOk a →
      let now (i : Instr) : State := (begun s i).slipFor (a.a0.setWidth 8) (a.a0.extractLsb' 16 9)
      let c (i : Instr) : Counter := named (now i) a
      (Accepts s (.cntread a) → exec (.cntread a) s = .next (answered (now (.cntread a)) 0
        [BitVec.ofNat 64 ((c (.cntread a)).carry.toNat * 2 ^ 32 + (c (.cntread a)).cnt.toNat), (c (.cntread a)).total])) ∧
      (Accepts s (.cntclr a) → exec (.cntclr a) s = .next (answered ((now (.cntclr a)).setCounter (cleared (c (.cntclr a)))) 0 [])) ∧
      (Accepts s (.cntprog a) → exec (.cntprog a) s = .next (if a.a1.extractLsb' 0 14 = 0 ∧ (a.a1.extractLsb' 32 32).toNat ≤ 0xFFFF0000 then
        answered ((now (.cntprog a)).setCounter { cleared (c (.cntprog a)) with
          reload := a.a1.extractLsb' 32 32, ctx := a.a1.extractLsb' 16 16, filt := a.a1.getLsbD 15, sample := a.a1.getLsbD 14 }) 0 []
        else answered (begun s (.cntprog a)) 3 []))) ∧
    (Accepts s (.cntdump a) → let s0 := begun s (.cntdump a)
      (HostOk s a.a0 552960 4096 → exec (.cntdump a) s = .next (answered { s0 with host := s0.host.paste a.a0.toNat 552960 s.cntRun } 0 [])) ∧
      (¬HostOk s a.a0 552960 4096 → exec (.cntdump a) s = .next (answered s0 3 []))) ∧
    (Accepts s (.trccfg a) → let s0 := begun s (.trccfg a)
      let drv : BitVec 16 := a.a2.setWidth 16
      let ok : Prop := s.ctxOf ctx ≠ none ∧ ∃ e, s.driverRun drv a.a3 = some e ∧ e.rsz = 2 ∧ e.st = .opened
      (¬ok → exec (.trccfg a) s = .next (answered s0 3 [])) ∧
      (ok → exec (.trccfg a) s = .next (answered (s0.modCtx ctx fun c => { c with
        trc := some { mask := a.a1, drv := drv, run := a.a3, stopMode := a.a4.getLsbD 0 } }) 0 []))) ∧
    (Accepts s (.dbgattach a) → exec (.dbgattach a) s = .next (if s.ctxOf ctx = none then answered (begun s (.dbgattach a)) 3 [] else
      answered ((begun s (.dbgattach a)).modCtx ctx fun c => { c with dbg := some (a.a0.getLsbD 16) }) 0 [])) ∧
    (Accepts s (.brkset a) → let s0 := begun s (.brkset a)
      let b : Brk := { slot := a.a0.extractLsb' 0 3, kind := a.a0.extractLsb' 4 3, addr := a.a1, len := a.a2 }
      let k := (a.a0.extractLsb' 4 3).toNat
      let ok : Prop := k = 0 ∨ (k = 1 ∧ a.a1.toNat < 2 ^ 56) ∨
        ((k = 2 ∨ k = 3) ∧ a.a1.toNat < 0x300000 ∧ 1 ≤ a.a2.toNat ∧ a.a2.toNat ≤ 3145728) ∨ (k = 4 ∧ a.a1.toNat / 2 ^ 32 = 2 ^ 30)
      (s.ctxOf hi = none ∨ ¬ok → exec (.brkset a) s = .next (answered s0 3 [])) ∧
      (∀ c, s.ctxOf hi = some c → ok → exec (.brkset a) s = .next (if c.dbg = none then answered s0 5 [] else
        answered (s0.modCtx hi fun d => { d with brks := (d.brks.filter fun x => x.slot != b.slot) ++ (if k = 0 then [] else [b]) }) 0 []))) ∧
    (Accepts s (.step a) → let s0 := begun s (.step a)
      let area := a.a0.toNat / 65536 * 65536
      (s.ctxOf ctx = none → exec (.step a) s = .next (answered s0 3 [])) ∧
      (∀ c, s.ctxOf ctx = some c →
        (c.dbg = none → exec (.step a) s = .next (answered s0 5 [])) ∧
        (c.dbg ≠ none → c.saved.find? (fun x => x.area == area) = none → exec (.step a) s = .next (answered s0 2 [])) ∧
        (∀ x th t, c.dbg ≠ none → c.saved.find? (fun x => x.area == area) = some x → x.threads[a.a1.toNat % 4]? = some th →
          th.life ≠ .retired → RestoredAs s0 t ctx area (c.homeOf x) → c.homeOf x < 128 →
          exec (.step a) s = .next (answered { t with crew := { t.crew with stepping := some (th.idx % 4) } } 0 [])))) ∧
    (Accepts s (.dbgstop a) → let s0 := begun s (.dbgstop a)
      let at_ : Option Crew := s.crewAt ctx (a.a0.extractLsb' 16 2, a.a0.extractLsb' 18 5, a.a0.extractLsb' 23 2)
      (at_ = none → exec (.dbgstop a) s = .next (answered s0 3 [])) ∧
      (∀ c u, at_ = some c → s0.focusCrew c.id = some u → u.crew.stepping = none →
        exec (.dbgstop a) s = .next (answered (if u.crew.stop = none then u.stopForDebug 3 none else s0) 0 [])) ∧
      (∀ c u k v, at_ = some c → s0.focusCrew c.id = some u → u.crew.stepping = some k → u.focusIdx (k % 4) = some v →
        exec (.dbgstop a) s = .next (answered (if v.crew.stop = none then v.stopForDebug 3 none else s0) 0 []))) ∧
    (Accepts s (.rplcfg a) → let s0 := begun s (.rplcfg a)
      let m : BitVec 2 := a.a0.extractLsb' 16 2
      let drv : BitVec 16 := a.a1.setWidth 16
      let log : Prop := ∃ e, s.driverRun drv a.a2 = some e ∧ e.rsz = 1 ∧ (e.st = .opened ∨ (m ≠ 1 ∧ e.st = .published))
      (s.ctxOf ctx = none ∨ m = 3 ∨ (m ≠ 0 ∧ ¬log) → exec (.rplcfg a) s = .next (answered s0 3 [])) ∧
      (s.ctxOf ctx ≠ none → m = 0 → exec (.rplcfg a) s = .next (answered (s0.modCtx ctx fun c => { c with rpl := none }) 0 [])) ∧
      (s.ctxOf ctx ≠ none → m ≠ 0 → m ≠ 3 → log → exec (.rplcfg a) s = .next (answered (s0.modCtx ctx fun c => { c with
        rpl := some { mode := m, drv := drv, run := a.a2, used := [] } }) 0 []))) ∧
    (Accepts s (.pwrread a) → exec (.pwrread a) s = .next (answered (begun s (.pwrread a)) 0
      [BitVec.ofNat 64 (s.cap.toNat * 2 ^ 32 + (if s.throt then 2 ^ 31 else 0) + s.power.toNat), s.temps.setWidth 64])) ∧
    (Accepts s (.pwrcap a) → exec (.pwrcap a) s = .next (if 1500 ≤ a.a0.toNat ∧ a.a0.toNat ≤ 3000 then
      answered { begun s (.pwrcap a) with
        cap := a.a0.setWidth 16
        throt := decide (a.a0.toNat < s.power.toNat) || (List.range 6).any fun k => decide (105 < temp s.temps k) } 0 []
      else answered (begun s (.pwrcap a)) 3 [])) ∧
    (Accepts s (.retire a) →
      (24 ≤ a.a0.toNat → exec (.retire a) s = .next (answered (begun s (.retire a)) 3 [])) ∧
      (∀ h : a.a0.toNat < 24, ∃ t, exec (.retire a) s = .next (answered t 0 []) ∧ PortRetired (begun s (.retire a)) t a.a0.toNat h))) ∧
  (∀ (u : BitVec 8) (e : BitVec 9) (n : Nat) (w : Option Who) (s : State),
    let c := s.counter u e
    let left := c.cnt.toNat + n - 2 ^ 32
    let span := 2 ^ 32 - c.reload.toNat
    let mine : Prop := c.filt = false ∨ 128 ≤ c.unit.toNat ∨ ∃ x, w = some x ∧ x.ctx = c.ctx
    exec (.counterWrap u e n) s = .next (if n ≤ 16 ∧ wrapEvent u.toNat e.toNat = true then
      s.count u e n (if u.toNat < 128 then s.wrapWho u.toNat e.toNat else none) else s) ∧
    (n = 0 ∨ eventOk u.toNat e.toNat = false ∨ ¬mine → s.count u e n w = s) ∧
    (0 < n → eventOk u.toNat e.toNat = true → mine → c.sample = false →
      s.count u e n w = s.setCounter (if c.cnt.toNat + n < 2 ^ 32 then { c with cnt := c.cnt + BitVec.ofNat 32 n }
        else { c with cnt := BitVec.ofNat 32 (c.reload.toNat + left % span), carry := c.carry + BitVec.ofNat 16 (1 + left / span) })) ∧
    (∀ x : Counter, (s.setCounter x).counter x.unit x.ev = x ∧
      ((u, e) ≠ (x.unit, x.ev) → (s.setCounter x).counter u e = c))) ∧
  (∀ t : State, let s := t.slipAll
    (s.counters.map fun c => (c.unit, c.ev)).Nodup → (∀ c ∈ s.counters, eventOk c.unit.toNat c.ev.toNat = true) →
    ∃ m : Mem, exec .counterSweep t = .next { s with counters := s.counters.map captured1, cntSeq := s.cntSeq + 2, cntRun := m } ∧
      m.nat 0 8 = (s.cntSeq + 2) % 2 ^ 64 ∧ m.nat 8 8 = s.clk % 2 ^ 64 ∧
      ∀ c ∈ s.counters, m.word (4096 * (c.unit.toNat + 1) + 8 * c.ev.toNat) = (captured1 c).total)

/-! ## Decoding, steps and reset -/

/-- R56, R61: words written out from the specification's encodings decode to the instructions they stand for: scalar
arithmetic, control, strips and control registers, traps, loads, stores and atomics, fences, waits and the branch queue,
vector arithmetic, conversion, permutation and memory, complex lanes, matrix and accumulator, intervals, runs and their
operations, queues, tasks, fork, buffers, transfers and the fabric. An unassigned opcode, an unlisted selector and a
reserved field that is not zero are refused by name. -/
def Obligations.DecodeWords : Prop :=
  decodeWord 0x02408920 = .ok (.add (.s 16) (.s 17) (.s 18)) ∧
  decodeWord 0x3E540071 = .ok (.crd (.s 21) 7) ∧
  decodeWord 0x3E000005 = .ok .eret ∧
  decodeWord 0x3E000014 = .ok (.trap (.s 0) 1) ∧
  decodeWord 0x4450A968 = .ok (.amoAdd (.s 20) (.s 21) (.s 22) .d) ∧
  decodeWord 0x50000031 = .ok (.fenceVs .die) ∧
  decodeWord 0x5600A960 = .ok (.waitc (.s 0) (.s 21) (.s 22)) ∧
  decodeWord 0x5A008000 = .ok (.bqpush (.s 16)) ∧
  decodeWord 0x7F121064 = .ok (.vcvt (.v 4) (.v 2) false (.el .f32) false .bf16) ∧
  decodeWord 0xE3225038 = .ok (.vcadd (.v 8) (.v 10) (.s 3) true) ∧
  decodeWord 0xC6000000 = .ok (.mswap 0) ∧
  decodeWord 0xD00C0820 = .ok (.iadd (.s 3) (.s 1) (.s 2)) ∧
  decodeWord 0xD6080070 = .ok (.icmpLt (.s 2) (.s 0) (.s 7)) ∧
  decodeWord 0xE8508000 = .ok (.ropen (.s 20) (.s 16) (.s 0)) ∧
  decodeWord 0xF800A183 = .ok (.qarm (.s 20) (.s 24)) ∧
  decodeWord 0xF8500958 = .ok (.fork (.s 20) (.s 1) (.s 21)) ∧
  decodeWord 0xFC004826 = .ok (.brelSeal (.s 9)) ∧
  decodeWord 0x3E000805 = .error .unassignedSelector ∧
  decodeWord 0x0440892F = .error .unassignedSelector ∧
  decodeWord 0x380491FE = .ok (.strip (.s 1) (.s 18) 0 0x1FE) ∧
  decodeWord 0x3175200A = .ok (.bne 29 (.s 36) 10) ∧
  decodeWord 0x4040881B = .ok (.ld (.s 16) (.s 17) 3 .d) ∧
  decodeWord 0x6122490E = .ok (.vadd (.v 8) (.v 9) (.s 16) true .f32) ∧
  decodeWord 0x9A4A1113 = .ok (.vextr (.s 18) (.v 2) (.s 17) .i64) ∧
  decodeWord 0xA0E08146 = .ok (.vld (.ring 0) (.s 16) (.s 20) false .f32) ∧
  decodeWord 0xC24E4D02 = .ok (.mmas 1 3 (.v 9) (.v 16) .e4m3) ∧
  decodeWord 0xD2141842 = .ok (.cmul (.s 5) (.s 3) (.s 4)) ∧
  decodeWord 0xEE60A1A2 = .ok (.rmergeWadd (.s 24) (.s 20) (.s 26)) ∧
  decodeWord 0xF920A001 = .ok (.qpush (.v 8) (.s 20)) ∧
  decodeWord 0xFBA01430 = .ok (.xput 40 { leg0 := .hop 0 1, leg1 := .hop 2 0, leg2 := .null }) ∧
  decodeWord 0xFC609140 = .ok (.cpy (.s 24) (.s 18) (.s 20)) ∧
  decodeWord 0x00000000 = .error .unassignedOpcode

/-- R56, R61: decoding the word of a well-formed instruction gives the instruction back, with every operand at every
value that the encoding admits, and a well-formed instruction that a word decodes to has that word and no other; the
four bytes of a word stand in memory little-endian, and the bytes after them are left over. -/
def Obligations.EncodeDecode : Prop :=
  ∀ (i : Instr) (w : BitVec 32), i.wf = true →
    (encode i = some w ↔ decodeWord w = .ok i) ∧
    (encode i = some w → ∀ rest, decode ([w.extractLsb' 0 8, w.extractLsb' 8 8, w.extractLsb' 16 8, w.extractLsb' 24 8] ++ rest) =
      .ok (i, rest))

/-- R57, R290, R374: a step. Where the next input of the outside need not wait, time passes and it happens.
Otherwise one of the agents that can move does: an event is `exec` of it (the flags that a vector instruction
commits are counted); a thread that issues stalls while its vector queue is full, and otherwise fetches the word at
its pc, and where that decodes to a well-formed instruction, the step is `exec` of that instruction, and what
follows an issue is noted; any other word is an illegal instruction, and a pc without a readable page raises
FLT_PAGE, and one in a bad sub-beat FLT_UNCORR. After each, waiting threads and heads see what it wrote. The model's
choices: inputs come first (log 5), which agent moves is free (log 8), and which input waits (logs 5, 68). -/
def Obligations.StepRunsDecoded : Prop :=
  ∀ s : State,
    let ended (o : Host.Outcome State Fault Refusal) (f : State → State) : Host.Outcome State Fault Refusal :=
      match o with
      | .next t => .next (f t).settled
      | .fault x => .fault x
      | .refused x => .refused x
    (∀ i r, s.inputs = i :: r → s.tick.inputWaits i = false → step s = ended (exec i { s.tick with inputs := r }) id) ∧
    (∀ i, s.inputWaits i = true ↔ (isCommand i = true ∧ s.mbox.run = true) ∨
      ∃ op st data, i = .storageComplete op st data ∧ s.storageWaits op = true) ∧
    (s.inputs = [] → s.tick.agents = [] → step s = .next s.tick.settled) ∧
    (∀ k a, s.inputs = [] → k = Config.pick s.tick.stepNo % s.tick.agents.length → s.tick.agents[k]? = some a →
      (∀ i, a = .event i → (∀ r, i ≠ .vectorCommit r) → step s = ended (exec i s.tick) id) ∧
      (∀ r, a = .event (.vectorCommit r) → step s = ended (exec (.vectorCommit r) s.tick) fun t =>
        match s.tick.threadOf? r.crew r.idx with
        | some x => (match x.2.vq with
          | e :: _ => t.countFlags x.1 x.2 e.pc e.vl (s.tick.committedBy r (.vectorCommit r))
          | [] => t)
        | none => t) ∧
      (∀ r u, a = .issue r → s.tick.focus r = some u →
        (64 ≤ u.thr.vq.length → step s = .next (u.mark .vectorQueue).settled) ∧
        (u.thr.vq.length < 64 →
          (∀ w v, u.fetch = (.ok w, v) →
            let me : TRef := { crew := v.crew.id, idx := v.thr.idx }
            let ran (i : Instr) : Host.Outcome State Fault Refusal :=
              let v1 : State := { v with thr := v.thr.trying i }
              ended (exec i v1) fun t =>
                let t1 := t.noteIssue v.crew v.thr i
                if t.vseqOf me ≤ v.thr.vseq then t1
                else t1.countFlags v.crew v.thr v.thr.pc v.thr.csr.vl.toNat (v1.committedBy me i)
            (∀ i, decodeWord w = .ok i → i.wf = true → step s = ran i) ∧
            ((∀ i, decodeWord w = .ok i → i.wf = false) → step s = ran (.illegalInstruction w))) ∧
          (∀ e v, u.fetch = (.error e, v) → step s = .next (v.raise e).settled ∧ e.addr = v.thr.pc.setWidth 64 ∧
            (e.code = fltPage ∨ e.code = fltUncorr)))))

/-- R52, R55, R235, R306, R335, R340, R359: what reset leaves, of what the specification gives: stage 0, no
firmware, no context, no crew, queue configurations, counters and relay entries at zero, ports untrained; a thread's
control, interval and predicate registers at their reset values. Every memory has its canonical form (the content of
memories at power-on is the model's choice, log 7). -/
def Obligations.ResetState : Prop :=
  State.reset.memWf = true ∧ State.reset.live = false ∧ State.reset.others = [] ∧ State.reset.stage = 0 ∧
  State.reset.dieRdy = 0 ∧ State.reset.phRdy = 0 ∧ State.reset.fw = none ∧ State.reset.ctxs = [] ∧
  (∀ q : BitVec 12, let l := State.reset.lq q
    l.en = false ∧ l.log2sz = 0 ∧ l.priocap = 0 ∧ l.ctx = 0) ∧
  (∀ (u : BitVec 8) (e : BitVec 9), let c := State.reset.counter u e
    c.cnt = 0 ∧ c.base = 0 ∧ c.carry = 0 ∧ c.reload = 0 ∧ c.filt = false ∧ c.sample = false ∧ c.total = 0) ∧
  (∀ k : Fin 64, State.reset.relay[k] = 0) ∧
  (∀ k : Fin 24, State.reset.ports[k].trained = false) ∧
  (let t := Thread.init
   t.csr.wb = 0 ∧ t.csr.frm = 0 ∧ t.fflags = 0 ∧ t.iflags = 0 ∧ t.csr.icfg = 0x1A ∧
    (∀ k : Fin 32, t.iv[k] = { lo := 0x7FF0000000000000, hi := 0xFFF0000000000000 }) ∧ ∀ k : Fin 8, t.pr[k] = 3)

/-- The model's invariant: from every state whose memories are in canonical form, every step answers a next state, and
its memories are in canonical form again. No step stops. -/
def Obligations.MemoryForm : Prop :=
  ∀ s : State, s.memWf = true → ∃ t, step s = .next t ∧ t.memWf = true
end

