-- ==== Sys2Proof/Laws/Mem.lean ====
section
/-! SUPPORT. The laws of the sparse maps: what a read gives after each operation, and that each operation keeps the
canonical form. -/

namespace Sys2Proof.Machine

/-! ## Reading -/

theorem SMap.get_append {n : Nat} (a b : SMap n) (k : Nat) (h : ∀ x ∈ a, x.1 ≠ k) :
    SMap.get (a ++ b) k = SMap.get b k := by
  induction a with
  | nil => rfl
  | cons p r ih =>
    obtain ⟨x, v⟩ := p
    have hx : x ≠ k := h (x, v) (by simp)
    simp only [List.cons_append, SMap.get, if_neg hx]
    exact ih fun y hy => h y (by simp [hy])

theorem SMap.get_append_left {n : Nat} (a b : SMap n) (k : Nat) (h : ∀ x ∈ b, x.1 ≠ k) :
    SMap.get (a ++ b) k = SMap.get a k := by
  induction a with
  | nil =>
    induction b with
    | nil => rfl
    | cons p r ih =>
      obtain ⟨x, v⟩ := p
      have hx : x ≠ k := h (x, v) (by simp)
      simpa [SMap.get, hx] using ih fun y hy => h y (by simp [hy])
  | cons p r ih =>
    obtain ⟨x, v⟩ := p
    simp only [List.cons_append, SMap.get]
    rw [ih]

theorem SMap.mem_below {n : Nat} (m : SMap n) (k : Nat) (x : Nat × BitVec n) :
    x ∈ SMap.below m k ↔ x ∈ m ∧ x.1 < k := by
  induction m with
  | nil => simp [SMap.below]
  | cons p r ih =>
    obtain ⟨a, v⟩ := p
    simp only [SMap.below]
    split <;> rename_i h
    · simp only [List.mem_cons, ih]
      constructor
      · rintro (rfl | ⟨h1, h2⟩)
        · exact ⟨.inl rfl, h⟩
        · exact ⟨.inr h1, h2⟩
      · rintro ⟨rfl | h1, h2⟩
        · exact .inl rfl
        · exact .inr ⟨h1, h2⟩
    · rw [ih]
      constructor
      · rintro ⟨h1, h2⟩
        exact ⟨List.mem_cons_of_mem _ h1, h2⟩
      · rintro ⟨h1, h2⟩
        rcases List.mem_cons.1 h1 with rfl | h1
        · exact absurd h2 h
        · exact ⟨h1, h2⟩

theorem SMap.mem_above {n : Nat} (m : SMap n) (k : Nat) (x : Nat × BitVec n) :
    x ∈ SMap.above m k ↔ x ∈ m ∧ k ≤ x.1 := by
  induction m with
  | nil => simp [SMap.above]
  | cons p r ih =>
    obtain ⟨a, v⟩ := p
    simp only [SMap.above]
    split <;> rename_i h
    · rw [ih]
      constructor
      · rintro ⟨h1, h2⟩
        exact ⟨List.mem_cons_of_mem _ h1, h2⟩
      · rintro ⟨h1, h2⟩
        rcases List.mem_cons.1 h1 with rfl | h1
        · exact absurd h (by simpa using h2)
        · exact ⟨h1, h2⟩
    · simp only [List.mem_cons, ih]
      constructor
      · rintro (rfl | ⟨h1, h2⟩)
        · exact ⟨.inl rfl, by simpa using h⟩
        · exact ⟨.inr h1, h2⟩
      · rintro ⟨rfl | h1, h2⟩
        · exact .inl rfl
        · exact .inr ⟨h1, h2⟩

theorem SMap.get_below {n : Nat} (m : SMap n) (k j : Nat) :
    SMap.get (SMap.below m k) j = if j < k then SMap.get m j else 0 := by
  induction m with
  | nil => simp [SMap.below, SMap.get]
  | cons p r ih =>
    obtain ⟨a, v⟩ := p
    by_cases h : a < k
    · simp only [SMap.below, if_pos h, SMap.get, ih]
      by_cases e : a = j
      · subst e; simp [h]
      · simp [e]
    · simp only [SMap.below, if_neg h, ih, SMap.get]
      by_cases e : a = j
      · subst e; simp [h]
      · simp [e]

theorem SMap.get_above {n : Nat} (m : SMap n) (k j : Nat) :
    SMap.get (SMap.above m k) j = if k ≤ j then SMap.get m j else 0 := by
  induction m with
  | nil => simp [SMap.above, SMap.get]
  | cons p r ih =>
    obtain ⟨a, v⟩ := p
    by_cases h : a < k
    · simp only [SMap.above, if_pos h, ih, SMap.get]
      by_cases e : a = j
      · subst e; simp [Nat.not_le.2 h]
      · simp [e]
    · simp only [SMap.above, if_neg h, SMap.get, ih]
      by_cases e : a = j
      · subst e; simp [Nat.le_of_not_lt h]
      · simp [e]

theorem SMap.mem_ofList {n : Nat} (vs : List (BitVec n)) (k : Nat) (x : Nat × BitVec n) (h : x ∈ SMap.ofList k vs) :
    k ≤ x.1 ∧ x.1 < k + vs.length := by
  induction vs generalizing k with
  | nil => simp [SMap.ofList] at h
  | cons v r ih =>
    simp only [SMap.ofList] at h
    split at h
    · have := ih (k + 1) h
      simp only [List.length_cons]; omega
    · rcases List.mem_cons.1 h with rfl | h
      · simp
      · have := ih (k + 1) h
        simp only [List.length_cons]; omega

theorem SMap.get_ofList {n : Nat} (vs : List (BitVec n)) (k j : Nat) :
    SMap.get (SMap.ofList k vs) j = if k ≤ j then vs.getD (j - k) 0 else 0 := by
  induction vs generalizing k with
  | nil => simp [SMap.ofList, SMap.get]
  | cons v r ih =>
    have key : SMap.get (SMap.ofList k (v :: r)) j =
        if k = j then v else SMap.get (SMap.ofList (k + 1) r) j := by
      simp only [SMap.ofList]
      by_cases hv : v = 0
      · rw [if_pos hv]
        by_cases e : k = j
        · rw [if_pos e, ih, if_neg (by omega), hv]
        · rw [if_neg e]
      · rw [if_neg hv]; rfl
    rw [key, ih]
    by_cases e : k = j
    · subst e; simp
    · rw [if_neg e]
      by_cases h : k ≤ j
      · rw [if_pos h, if_pos (by omega)]
        have : j - k = (j - (k + 1)) + 1 := by omega
        rw [this]; simp
      · rw [if_neg h, if_neg (by omega)]

/-- A read after a write: the written values, and every other key as before. -/
theorem SMap.get_write {n : Nat} (m : SMap n) (k j : Nat) (vs : List (BitVec n)) :
    SMap.get (SMap.write m k vs) j = if k ≤ j ∧ j < k + vs.length then vs.getD (j - k) 0 else SMap.get m j := by
  unfold SMap.write
  by_cases h1 : j < k
  · rw [SMap.get_append_left, SMap.get_below, if_pos h1, if_neg (by omega)]
    intro x hx e
    rcases List.mem_append.1 hx with h | h
    · have := SMap.mem_ofList _ _ _ h; omega
    · have := (SMap.mem_above _ _ _).1 h; omega
  · rw [SMap.get_append]
    · by_cases h2 : j < k + vs.length
      · rw [SMap.get_append_left, SMap.get_ofList, if_pos (by omega), if_pos (by omega)]
        intro x hx e
        have := (SMap.mem_above _ _ _).1 hx; omega
      · rw [SMap.get_append, SMap.get_above, if_pos (by omega), if_neg (by omega)]
        intro x hx e
        have := SMap.mem_ofList _ _ _ hx; omega
    · intro x hx e
      have := (SMap.mem_below _ _ _).1 hx; omega

theorem SMap.get_clear {n : Nat} (m : SMap n) (lo hi j : Nat) :
    SMap.get (SMap.clear m lo hi) j = if lo ≤ j ∧ j < hi then 0 else SMap.get m j := by
  unfold SMap.clear
  by_cases h1 : j < lo
  · rw [SMap.get_append_left, SMap.get_below, if_pos h1, if_neg (by omega)]
    intro x hx e
    have := (SMap.mem_above _ _ _).1 hx
    split at this <;> omega
  · rw [SMap.get_append, SMap.get_above]
    · by_cases h2 : j < hi
      · rw [if_neg (by split <;> omega), if_pos (by omega)]
      · rw [if_pos (by split <;> omega), if_neg (by omega)]
    · intro x hx e
      have := (SMap.mem_below _ _ _).1 hx; omega

/-- A map whose keys are moved by an injective function. -/
theorem SMap.get_shift {n : Nat} (m : SMap n) (b j : Nat) :
    SMap.get (SMap.shift m b) j = if b ≤ j then SMap.get m (j - b) else 0 := by
  induction m with
  | nil => simp [SMap.shift, SMap.get]
  | cons p r ih =>
    obtain ⟨a, v⟩ := p
    simp only [SMap.shift, List.map_cons, SMap.get] at *
    rw [ih]
    by_cases e : a + b = j
    · subst e; simp
    · rw [if_neg e]
      by_cases h : b ≤ j
      · rw [if_pos h, if_pos h, if_neg (by omega)]
      · rw [if_neg h, if_neg h]

theorem SMap.get_slice {n : Nat} (m : SMap n) (lo hi j : Nat) :
    SMap.get (SMap.slice m lo hi) j = if lo + j < hi then SMap.get m (lo + j) else 0 := by
  have key : ∀ l : SMap n, (∀ x ∈ l, lo ≤ x.1) →
      SMap.get (l.map fun c => (c.1 - lo, c.2)) j = SMap.get l (lo + j) := by
    intro l hl
    induction l with
    | nil => rfl
    | cons p r ih =>
      obtain ⟨a, v⟩ := p
      have ha : lo ≤ a := hl (a, v) (by simp)
      simp only [List.map_cons, SMap.get]
      rw [ih fun x hx => hl x (by simp [hx])]
      by_cases e : a = lo + j
      · rw [if_pos (by omega), if_pos e]
      · rw [if_neg (by omega), if_neg e]
  rw [SMap.slice, key, SMap.get_below, SMap.get_above]
  · simp
  · intro x hx
    exact ((SMap.mem_above _ _ _).1 ((SMap.mem_below _ _ _).1 hx).1).2

/-- A read after a paste: the range from the other memory, and every other key as before. -/
theorem Mem.get_paste (m src : Mem) (k len j : Nat) :
    SMap.get (n := 8) (Mem.paste m k len src) j =
      if k ≤ j ∧ j < k + len then SMap.get (n := 8) src (j - k) else SMap.get (n := 8) m j := by
  have hs : ∀ x ∈ SMap.shift (n := 8) (SMap.below (n := 8) src len) k, k ≤ x.1 ∧ x.1 < k + len := by
    intro x hx
    obtain ⟨y, hy, rfl⟩ := List.mem_map.1 hx
    have := (SMap.mem_below _ _ _).1 hy
    simp only; omega
  unfold Mem.paste
  by_cases h1 : j < k
  · rw [SMap.get_append_left, SMap.get_below, if_pos h1, if_neg (by omega)]
    intro x hx e
    rcases List.mem_append.1 hx with h | h
    · have := hs x h; omega
    · have := (SMap.mem_above _ _ _).1 h; omega
  · rw [SMap.get_append]
    · by_cases h2 : j < k + len
      · rw [SMap.get_append_left, SMap.get_shift, if_pos (by omega), SMap.get_below, if_pos (by omega), if_pos (by omega)]
        intro x hx e
        have := (SMap.mem_above _ _ _).1 hx; omega
      · rw [SMap.get_append, SMap.get_above, if_pos (by omega), if_neg (by omega)]
        intro x hx e
        have := hs x hx; omega
    · intro x hx e
      have := (SMap.mem_below _ _ _).1 hx; omega

/-! ## The canonical form -/

theorem SMap.wfFrom_mono {n : Nat} (m : SMap n) (a b : Nat) (h : a ≤ b) (hm : SMap.wfFrom b m = true) :
    SMap.wfFrom a m = true := by
  cases m with
  | nil => rfl
  | cons p r =>
    obtain ⟨k, v⟩ := p
    simp only [SMap.wfFrom, Bool.and_eq_true, decide_eq_true_eq] at *
    exact ⟨⟨Nat.le_trans h hm.1.1, hm.1.2⟩, hm.2⟩

theorem SMap.wfFrom_key {n : Nat} (m : SMap n) (a : Nat) (hm : SMap.wfFrom a m = true) : ∀ x ∈ m, a ≤ x.1 := by
  induction m generalizing a with
  | nil => simp
  | cons p r ih =>
    obtain ⟨k, v⟩ := p
    simp only [SMap.wfFrom, Bool.and_eq_true, decide_eq_true_eq] at hm
    intro x hx
    rcases List.mem_cons.1 hx with rfl | hx
    · exact hm.1.1
    · have := ih (k + 1) hm.2 x hx; omega

/-- Two maps in canonical form, the keys of the first below those of the second, are one in canonical form. -/
theorem SMap.wfFrom_append {n : Nat} (a b : SMap n) (lo k : Nat) (ha : SMap.wfFrom lo a = true)
    (hb : SMap.wfFrom k b = true) (hlo : lo ≤ k) (hk : ∀ x ∈ a, x.1 < k) : SMap.wfFrom lo (a ++ b) = true := by
  induction a generalizing lo with
  | nil => exact SMap.wfFrom_mono b lo k hlo hb
  | cons p r ih =>
    obtain ⟨j, v⟩ := p
    simp only [SMap.wfFrom, List.cons_append, Bool.and_eq_true, decide_eq_true_eq] at *
    refine ⟨ha.1, ih (j + 1) ha.2 ?_ fun x hx => hk x (by simp [hx])⟩
    have := hk (j, v) (by simp); simpa using this

theorem SMap.wfFrom_below {n : Nat} (m : SMap n) (lo k : Nat) (h : SMap.wfFrom lo m = true) :
    SMap.wfFrom lo (SMap.below m k) = true := by
  induction m generalizing lo with
  | nil => rfl
  | cons p r ih =>
    obtain ⟨a, v⟩ := p
    simp only [SMap.wfFrom, Bool.and_eq_true, decide_eq_true_eq] at h
    simp only [SMap.below]
    split
    · simp only [SMap.wfFrom, Bool.and_eq_true, decide_eq_true_eq]
      exact ⟨h.1, ih (a + 1) h.2⟩
    · exact SMap.wfFrom_mono _ lo (a + 1) (by omega) (ih (a + 1) h.2)

theorem SMap.wfFrom_above {n : Nat} (m : SMap n) (lo k : Nat) (h : SMap.wfFrom lo m = true) :
    SMap.wfFrom (max lo k) (SMap.above m k) = true := by
  induction m generalizing lo with
  | nil => rfl
  | cons p r ih =>
    obtain ⟨a, v⟩ := p
    simp only [SMap.wfFrom, Bool.and_eq_true, decide_eq_true_eq] at h
    simp only [SMap.above]
    split
    · exact SMap.wfFrom_mono _ _ (max (a + 1) k) (by omega) (ih (a + 1) h.2)
    · simp only [SMap.wfFrom, Bool.and_eq_true, decide_eq_true_eq]
      refine ⟨⟨by omega, h.1.2⟩, ?_⟩
      exact SMap.wfFrom_mono _ _ (max (a + 1) k) (by omega) (ih (a + 1) h.2)

theorem SMap.wfFrom_ofList {n : Nat} (vs : List (BitVec n)) (k : Nat) : SMap.wfFrom k (SMap.ofList k vs) = true := by
  induction vs generalizing k with
  | nil => rfl
  | cons v r ih =>
    simp only [SMap.ofList]
    split
    · exact SMap.wfFrom_mono _ k (k + 1) (by omega) (ih (k + 1))
    · rename_i hv
      simp only [SMap.wfFrom, Bool.and_eq_true, decide_eq_true_eq]
      exact ⟨⟨Nat.le_refl k, hv⟩, ih (k + 1)⟩

/-- A write keeps the canonical form. -/
theorem SMap.write_wf {n : Nat} (m : SMap n) (k : Nat) (vs : List (BitVec n)) (h : SMap.wf m = true) :
    SMap.wf (SMap.write m k vs) = true := by
  refine SMap.wfFrom_append _ _ 0 k (SMap.wfFrom_below m 0 k h) ?_ (Nat.zero_le k) fun x hx =>
    ((SMap.mem_below _ _ _).1 hx).2
  refine SMap.wfFrom_append _ _ k (k + vs.length) (SMap.wfFrom_ofList vs k) ?_ (by omega) fun x hx =>
    (SMap.mem_ofList _ _ _ hx).2
  exact SMap.wfFrom_mono _ _ _ (by omega) (SMap.wfFrom_above m 0 (k + vs.length) h)

/-- Clearing a range keeps the canonical form. -/
theorem SMap.clear_wf {n : Nat} (m : SMap n) (lo hi : Nat) (h : SMap.wf m = true) :
    SMap.wf (SMap.clear m lo hi) = true := by
  refine SMap.wfFrom_append _ _ 0 lo (SMap.wfFrom_below m 0 lo h) ?_ (Nat.zero_le lo) fun x hx =>
    ((SMap.mem_below _ _ _).1 hx).2
  exact SMap.wfFrom_mono _ _ _ (by split <;> omega) (SMap.wfFrom_above m 0 _ h)

theorem SMap.wfFrom_shift {n : Nat} (m : SMap n) (lo b : Nat) (h : SMap.wfFrom lo m = true) :
    SMap.wfFrom (lo + b) (SMap.shift m b) = true := by
  induction m generalizing lo with
  | nil => rfl
  | cons p r ih =>
    obtain ⟨a, v⟩ := p
    simp only [SMap.wfFrom, Bool.and_eq_true, decide_eq_true_eq] at h
    simp only [SMap.shift, List.map_cons, SMap.wfFrom, Bool.and_eq_true, decide_eq_true_eq]
    refine ⟨⟨by omega, h.1.2⟩, ?_⟩
    have := ih (a + 1) h.2
    rwa [show a + 1 + b = a + b + 1 by omega] at this

/-- A slice of a map in canonical form is in canonical form. -/
theorem SMap.slice_wf {n : Nat} (m : SMap n) (lo hi : Nat) (h : SMap.wf m = true) :
    SMap.wf (SMap.slice m lo hi) = true := by
  have key : ∀ (l : SMap n) (k : Nat), lo ≤ k → SMap.wfFrom k l = true →
      SMap.wfFrom (k - lo) (l.map fun c => (c.1 - lo, c.2)) = true := by
    intro l
    induction l with
    | nil => intros; rfl
    | cons p r ih =>
      obtain ⟨a, v⟩ := p
      intro k hk hl
      simp only [SMap.wfFrom, List.map_cons, Bool.and_eq_true, decide_eq_true_eq] at *
      refine ⟨⟨by omega, hl.1.2⟩, ?_⟩
      have := ih (a + 1) (by omega) hl.2
      rwa [show a + 1 - lo = a - lo + 1 by omega] at this
  have := key _ (max 0 lo) (by omega) (SMap.wfFrom_below _ _ hi (SMap.wfFrom_above m 0 lo h))
  exact SMap.wfFrom_mono _ 0 _ (Nat.zero_le _) this

/-- A paste of a memory in canonical form keeps the canonical form. -/
theorem Mem.paste_wf (m src : Mem) (k len : Nat) (h : Mem.wf m = true) (hs : Mem.wf src = true) :
    Mem.wf (Mem.paste m k len src) = true := by
  refine SMap.wfFrom_append _ _ 0 k (SMap.wfFrom_below m 0 k h) ?_ (Nat.zero_le k) fun x hx =>
    ((SMap.mem_below _ _ _).1 hx).2
  refine SMap.wfFrom_append _ _ k (k + len) ?_ ?_ (by omega) ?_
  · have := SMap.wfFrom_shift _ 0 k (SMap.wfFrom_below src 0 len hs)
    rwa [Nat.zero_add] at this
  · exact SMap.wfFrom_mono _ _ _ (by omega) (SMap.wfFrom_above m 0 (k + len) h)
  · intro x hx
    obtain ⟨y, hy, rfl⟩ := List.mem_map.1 hx
    have := (SMap.mem_below _ _ _).1 hy
    simp only; omega

theorem Mem.put_wf (m : Mem) (k : Nat) (bs : List Byte) (h : Mem.wf m = true) : Mem.wf (Mem.put m k bs) = true :=
  SMap.write_wf m k bs h

theorem SMap.nil_wf (n : Nat) : SMap.wf (n := n) [] = true := rfl

/-! ## Bytes -/

theorem SMap.read_length {n : Nat} (m : SMap n) (k len : Nat) : (SMap.read m k len).length = len := by
  induction len generalizing k with
  | zero => rfl
  | succ l ih => simp [SMap.read, ih]

theorem SMap.read_getD {n : Nat} (m : SMap n) (k len i : Nat) (h : i < len) :
    (SMap.read m k len).getD i 0 = SMap.get m (k + i) := by
  induction len generalizing k i with
  | zero => omega
  | succ l ih =>
    cases i with
    | zero => simp [SMap.read]
    | succ j =>
      have := ih (k + 1) j (by omega)
      rw [SMap.read, List.getD_cons_succ, this]
      congr 1; omega

theorem Mem.bytes_length (m : Mem) (k len : Nat) : (m.bytes k len).length = len := SMap.read_length _ _ _

/-- Byte i of a range is what stands at the address k + i. -/
theorem Mem.bytes_getD (m : Mem) (k len i : Nat) (h : i < len) :
    (m.bytes k len).getD i 0 = SMap.get (n := 8) m (k + i) := by
  rw [Mem.bytes, SMap.read_getD _ _ _ _ h, SMap.get_below, SMap.get_above, if_pos (by omega), if_pos (by omega)]

theorem Mem.bytes_ext (m : Mem) (k : Nat) (bs : List Byte)
    (h : ∀ i, i < bs.length → SMap.get (n := 8) m (k + i) = bs.getD i 0) : m.bytes k bs.length = bs := by
  apply List.ext_getElem (Mem.bytes_length _ _ _)
  intro i h1 h2
  have := Mem.bytes_getD m k bs.length i h2
  rw [h i h2] at this
  simpa [List.getD_eq_getElem?_getD, h1, h2] using this

/-- The bytes read where bytes were put. -/
theorem Mem.bytes_put_same (m : Mem) (k : Nat) (bs : List Byte) : (m.put k bs).bytes k bs.length = bs := by
  apply Mem.bytes_ext
  intro i h
  rw [Mem.put, SMap.get_write, if_pos ⟨by omega, by omega⟩]
  congr 1; omega

/-- The bytes read elsewhere are unchanged by a put. -/
theorem Mem.bytes_put_other (m : Mem) (k j len : Nat) (bs : List Byte) (h : j + len ≤ k ∨ k + bs.length ≤ j) :
    (m.put k bs).bytes j len = m.bytes j len := by
  apply List.ext_getElem
  · rw [Mem.bytes_length, Mem.bytes_length]
  · intro i h1 h2
    have hi : i < len := by rwa [Mem.bytes_length] at h1
    have a := Mem.bytes_getD (m.put k bs) j len i hi
    have b := Mem.bytes_getD m j len i hi
    rw [show SMap.get (n := 8) (m.put k bs) (j + i) = _ from SMap.get_write m k (j + i) bs, if_neg (by omega), ← b] at a
    simpa [List.getD_eq_getElem?_getD, h1, h2] using a

theorem leBytes_length (n x : Nat) : (leBytes n x).length = n := by
  induction n generalizing x with
  | zero => rfl
  | succ k ih => simp [leBytes, ih]

/-- R3: a value is what its little-endian bytes say, as far as they reach. -/
theorem leNat_leBytes (n x : Nat) : leNat (leBytes n x) = x % 256 ^ n := by
  induction n generalizing x with
  | zero => simp [leBytes, leNat, Nat.mod_one]
  | succ k ih =>
    have e : 256 ^ (k + 1) = 256 * 256 ^ k := by rw [Nat.pow_succ, Nat.mul_comm]
    rw [leBytes, leNat, ih, BitVec.toNat_ofNat, e, Nat.mod_mul]

theorem leNat_lt (bs : List Byte) : leNat bs < 256 ^ bs.length := by
  induction bs with
  | nil => simp [leNat]
  | cons b r ih =>
    simp only [leNat, List.length_cons, Nat.pow_succ]
    have := b.isLt
    omega

/-- R3: bytes are the little-endian bytes of the value they say. -/
theorem leBytes_leNat (bs : List Byte) : leBytes bs.length (leNat bs) = bs := by
  induction bs with
  | nil => rfl
  | cons b r ih =>
    have hb := b.isLt
    have h1 : (b.toNat + 256 * leNat r) / 256 = leNat r := by omega
    have h2 : BitVec.ofNat 8 (b.toNat + 256 * leNat r) = b := by
      apply BitVec.eq_of_toNat_eq
      simp only [BitVec.toNat_ofNat]; omega
    simp only [leNat, List.length_cons, leBytes, h1, h2, ih]

end Sys2Proof.Machine
end

