-- ==== Sys2Proof/Laws/State.lean ====
section
/-! SUPPORT. What each small update of a state or of a thread does to each field, so that no proof unfolds a record
update. Every lemma is a simplification rule. -/

namespace Sys2Proof.Machine


/-! ### State.modThr -/

@[simp] theorem State.modThr_thr (s : State) (f : Thread → Thread) : (s.modThr f).thr = f s.thr := rfl
@[simp] theorem State.modThr_crew (s : State) (f : Thread → Thread) : (s.modThr f).crew = s.crew := rfl
@[simp] theorem State.modThr_mates (s : State) (f : Thread → Thread) : (s.modThr f).mates = s.mates := rfl
@[simp] theorem State.modThr_others (s : State) (f : Thread → Thread) : (s.modThr f).others = s.others := rfl
@[simp] theorem State.modThr_live (s : State) (f : Thread → Thread) : (s.modThr f).live = s.live := rfl
@[simp] theorem State.modThr_clk (s : State) (f : Thread → Thread) : (s.modThr f).clk = s.clk := rfl
@[simp] theorem State.modThr_stepNo (s : State) (f : Thread → Thread) : (s.modThr f).stepNo = s.stepNo := rfl
@[simp] theorem State.modThr_fresh (s : State) (f : Thread → Thread) : (s.modThr f).fresh = s.fresh := rfl
@[simp] theorem State.modThr_draw (s : State) (f : Thread → Thread) : (s.modThr f).draw = s.draw := rfl
@[simp] theorem State.modThr_lag (s : State) (f : Thread → Thread) : (s.modThr f).lag = s.lag := rfl
@[simp] theorem State.modThr_slack (s : State) (f : Thread → Thread) : (s.modThr f).slack = s.slack := rfl
@[simp] theorem State.modThr_inputs (s : State) (f : Thread → Thread) : (s.modThr f).inputs = s.inputs := rfl
@[simp] theorem State.modThr_spad (s : State) (f : Thread → Thread) : (s.modThr f).spad = s.spad := rfl
@[simp] theorem State.modThr_spadTag (s : State) (f : Thread → Thread) : (s.modThr f).spadTag = s.spadTag := rfl
@[simp] theorem State.modThr_bufs (s : State) (f : Thread → Thread) : (s.modThr f).bufs = s.bufs := rfl
@[simp] theorem State.modThr_acc (s : State) (f : Thread → Thread) : (s.modThr f).acc = s.acc := rfl
@[simp] theorem State.modThr_accInt (s : State) (f : Thread → Thread) : (s.modThr f).accInt = s.accInt := rfl
@[simp] theorem State.modThr_sig (s : State) (f : Thread → Thread) : (s.modThr f).sig = s.sig := rfl
@[simp] theorem State.modThr_sigOwn (s : State) (f : Thread → Thread) : (s.modThr f).sigOwn = s.sigOwn := rfl
@[simp] theorem State.modThr_host (s : State) (f : Thread → Thread) : (s.modThr f).host = s.host := rfl
@[simp] theorem State.modThr_hostDenied (s : State) (f : Thread → Thread) : (s.modThr f).hostDenied = s.hostDenied := rfl
@[simp] theorem State.modThr_dram (s : State) (f : Thread → Thread) : (s.modThr f).dram = s.dram := rfl
@[simp] theorem State.modThr_dramKey (s : State) (f : Thread → Thread) : (s.modThr f).dramKey = s.dramKey := rfl
@[simp] theorem State.modThr_dramBad (s : State) (f : Thread → Thread) : (s.modThr f).dramBad = s.dramBad := rfl
@[simp] theorem State.modThr_exts (s : State) (f : Thread → Thread) : (s.modThr f).exts = s.exts := rfl
@[simp] theorem State.modThr_withdrawn (s : State) (f : Thread → Thread) : (s.modThr f).withdrawn = s.withdrawn := rfl
@[simp] theorem State.modThr_ctxs (s : State) (f : Thread → Thread) : (s.modThr f).ctxs = s.ctxs := rfl
@[simp] theorem State.modThr_ops (s : State) (f : Thread → Thread) : (s.modThr f).ops = s.ops := rfl
@[simp] theorem State.modThr_msgs (s : State) (f : Thread → Thread) : (s.modThr f).msgs = s.msgs := rfl
@[simp] theorem State.modThr_pushes (s : State) (f : Thread → Thread) : (s.modThr f).pushes = s.pushes := rfl
@[simp] theorem State.modThr_tasks (s : State) (f : Thread → Thread) : (s.modThr f).tasks = s.tasks := rfl
@[simp] theorem State.modThr_misses (s : State) (f : Thread → Thread) : (s.modThr f).misses = s.misses := rfl
@[simp] theorem State.modThr_launches (s : State) (f : Thread → Thread) : (s.modThr f).launches = s.launches := rfl
@[simp] theorem State.modThr_queues (s : State) (f : Thread → Thread) : (s.modThr f).queues = s.queues := rfl
@[simp] theorem State.modThr_mbox (s : State) (f : Thread → Thread) : (s.modThr f).mbox = s.mbox := rfl
@[simp] theorem State.modThr_stage (s : State) (f : Thread → Thread) : (s.modThr f).stage = s.stage := rfl
@[simp] theorem State.modThr_dieRdy (s : State) (f : Thread → Thread) : (s.modThr f).dieRdy = s.dieRdy := rfl
@[simp] theorem State.modThr_phRdy (s : State) (f : Thread → Thread) : (s.modThr f).phRdy = s.phRdy := rfl
@[simp] theorem State.modThr_pkg (s : State) (f : Thread → Thread) : (s.modThr f).pkg = s.pkg := rfl
@[simp] theorem State.modThr_xyz (s : State) (f : Thread → Thread) : (s.modThr f).xyz = s.xyz := rfl
@[simp] theorem State.modThr_fabric (s : State) (f : Thread → Thread) : (s.modThr f).fabric = s.fabric := rfl
@[simp] theorem State.modThr_badLinks (s : State) (f : Thread → Thread) : (s.modThr f).badLinks = s.badLinks := rfl
@[simp] theorem State.modThr_fw (s : State) (f : Thread → Thread) : (s.modThr f).fw = s.fw := rfl
@[simp] theorem State.modThr_capclass (s : State) (f : Thread → Thread) : (s.modThr f).capclass = s.capclass := rfl
@[simp] theorem State.modThr_deadDies (s : State) (f : Thread → Thread) : (s.modThr f).deadDies = s.deadDies := rfl
@[simp] theorem State.modThr_regErrs (s : State) (f : Thread → Thread) : (s.modThr f).regErrs = s.regErrs := rfl
@[simp] theorem State.modThr_ports (s : State) (f : Thread → Thread) : (s.modThr f).ports = s.ports := rfl
@[simp] theorem State.modThr_relay (s : State) (f : Thread → Thread) : (s.modThr f).relay = s.relay := rfl
@[simp] theorem State.modThr_nvme (s : State) (f : Thread → Thread) : (s.modThr f).nvme = s.nvme := rfl
@[simp] theorem State.modThr_keys (s : State) (f : Thread → Thread) : (s.modThr f).keys = s.keys := rfl
@[simp] theorem State.modThr_counters (s : State) (f : Thread → Thread) : (s.modThr f).counters = s.counters := rfl
@[simp] theorem State.modThr_cntPeriod (s : State) (f : Thread → Thread) : (s.modThr f).cntPeriod = s.cntPeriod := rfl
@[simp] theorem State.modThr_cntSeq (s : State) (f : Thread → Thread) : (s.modThr f).cntSeq = s.cntSeq := rfl
@[simp] theorem State.modThr_cntRun (s : State) (f : Thread → Thread) : (s.modThr f).cntRun = s.cntRun := rfl
@[simp] theorem State.modThr_slipClk (s : State) (f : Thread → Thread) : (s.modThr f).slipClk = s.slipClk := rfl
@[simp] theorem State.modThr_trace (s : State) (f : Thread → Thread) : (s.modThr f).trace = s.trace := rfl
@[simp] theorem State.modThr_latent (s : State) (f : Thread → Thread) : (s.modThr f).latent = s.latent := rfl
@[simp] theorem State.modThr_power (s : State) (f : Thread → Thread) : (s.modThr f).power = s.power := rfl
@[simp] theorem State.modThr_cap (s : State) (f : Thread → Thread) : (s.modThr f).cap = s.cap := rfl
@[simp] theorem State.modThr_throt (s : State) (f : Thread → Thread) : (s.modThr f).throt = s.throt := rfl
@[simp] theorem State.modThr_temps (s : State) (f : Thread → Thread) : (s.modThr f).temps = s.temps := rfl
@[simp] theorem State.modThr_hold (s : State) (f : Thread → Thread) : (s.modThr f).hold = s.hold := rfl
@[simp] theorem State.modThr_spdm (s : State) (f : Thread → Thread) : (s.modThr f).spdm = s.spdm := rfl
@[simp] theorem State.modThr_mctp (s : State) (f : Thread → Thread) : (s.modThr f).mctp = s.mctp := rfl
@[simp] theorem State.modThr_hostOut (s : State) (f : Thread → Thread) : (s.modThr f).hostOut = s.hostOut := rfl

/-! ### State.modCrew -/

@[simp] theorem State.modCrew_thr (s : State) (f : Crew → Crew) : (s.modCrew f).thr = s.thr := rfl
@[simp] theorem State.modCrew_crew (s : State) (f : Crew → Crew) : (s.modCrew f).crew = f s.crew := rfl
@[simp] theorem State.modCrew_mates (s : State) (f : Crew → Crew) : (s.modCrew f).mates = s.mates := rfl
@[simp] theorem State.modCrew_others (s : State) (f : Crew → Crew) : (s.modCrew f).others = s.others := rfl
@[simp] theorem State.modCrew_live (s : State) (f : Crew → Crew) : (s.modCrew f).live = s.live := rfl
@[simp] theorem State.modCrew_clk (s : State) (f : Crew → Crew) : (s.modCrew f).clk = s.clk := rfl
@[simp] theorem State.modCrew_stepNo (s : State) (f : Crew → Crew) : (s.modCrew f).stepNo = s.stepNo := rfl
@[simp] theorem State.modCrew_fresh (s : State) (f : Crew → Crew) : (s.modCrew f).fresh = s.fresh := rfl
@[simp] theorem State.modCrew_draw (s : State) (f : Crew → Crew) : (s.modCrew f).draw = s.draw := rfl
@[simp] theorem State.modCrew_lag (s : State) (f : Crew → Crew) : (s.modCrew f).lag = s.lag := rfl
@[simp] theorem State.modCrew_slack (s : State) (f : Crew → Crew) : (s.modCrew f).slack = s.slack := rfl
@[simp] theorem State.modCrew_inputs (s : State) (f : Crew → Crew) : (s.modCrew f).inputs = s.inputs := rfl
@[simp] theorem State.modCrew_spad (s : State) (f : Crew → Crew) : (s.modCrew f).spad = s.spad := rfl
@[simp] theorem State.modCrew_spadTag (s : State) (f : Crew → Crew) : (s.modCrew f).spadTag = s.spadTag := rfl
@[simp] theorem State.modCrew_bufs (s : State) (f : Crew → Crew) : (s.modCrew f).bufs = s.bufs := rfl
@[simp] theorem State.modCrew_acc (s : State) (f : Crew → Crew) : (s.modCrew f).acc = s.acc := rfl
@[simp] theorem State.modCrew_accInt (s : State) (f : Crew → Crew) : (s.modCrew f).accInt = s.accInt := rfl
@[simp] theorem State.modCrew_sig (s : State) (f : Crew → Crew) : (s.modCrew f).sig = s.sig := rfl
@[simp] theorem State.modCrew_sigOwn (s : State) (f : Crew → Crew) : (s.modCrew f).sigOwn = s.sigOwn := rfl
@[simp] theorem State.modCrew_host (s : State) (f : Crew → Crew) : (s.modCrew f).host = s.host := rfl
@[simp] theorem State.modCrew_hostDenied (s : State) (f : Crew → Crew) : (s.modCrew f).hostDenied = s.hostDenied := rfl
@[simp] theorem State.modCrew_dram (s : State) (f : Crew → Crew) : (s.modCrew f).dram = s.dram := rfl
@[simp] theorem State.modCrew_dramKey (s : State) (f : Crew → Crew) : (s.modCrew f).dramKey = s.dramKey := rfl
@[simp] theorem State.modCrew_dramBad (s : State) (f : Crew → Crew) : (s.modCrew f).dramBad = s.dramBad := rfl
@[simp] theorem State.modCrew_exts (s : State) (f : Crew → Crew) : (s.modCrew f).exts = s.exts := rfl
@[simp] theorem State.modCrew_withdrawn (s : State) (f : Crew → Crew) : (s.modCrew f).withdrawn = s.withdrawn := rfl
@[simp] theorem State.modCrew_ctxs (s : State) (f : Crew → Crew) : (s.modCrew f).ctxs = s.ctxs := rfl
@[simp] theorem State.modCrew_ops (s : State) (f : Crew → Crew) : (s.modCrew f).ops = s.ops := rfl
@[simp] theorem State.modCrew_msgs (s : State) (f : Crew → Crew) : (s.modCrew f).msgs = s.msgs := rfl
@[simp] theorem State.modCrew_pushes (s : State) (f : Crew → Crew) : (s.modCrew f).pushes = s.pushes := rfl
@[simp] theorem State.modCrew_tasks (s : State) (f : Crew → Crew) : (s.modCrew f).tasks = s.tasks := rfl
@[simp] theorem State.modCrew_misses (s : State) (f : Crew → Crew) : (s.modCrew f).misses = s.misses := rfl
@[simp] theorem State.modCrew_launches (s : State) (f : Crew → Crew) : (s.modCrew f).launches = s.launches := rfl
@[simp] theorem State.modCrew_queues (s : State) (f : Crew → Crew) : (s.modCrew f).queues = s.queues := rfl
@[simp] theorem State.modCrew_mbox (s : State) (f : Crew → Crew) : (s.modCrew f).mbox = s.mbox := rfl
@[simp] theorem State.modCrew_stage (s : State) (f : Crew → Crew) : (s.modCrew f).stage = s.stage := rfl
@[simp] theorem State.modCrew_dieRdy (s : State) (f : Crew → Crew) : (s.modCrew f).dieRdy = s.dieRdy := rfl
@[simp] theorem State.modCrew_phRdy (s : State) (f : Crew → Crew) : (s.modCrew f).phRdy = s.phRdy := rfl
@[simp] theorem State.modCrew_pkg (s : State) (f : Crew → Crew) : (s.modCrew f).pkg = s.pkg := rfl
@[simp] theorem State.modCrew_xyz (s : State) (f : Crew → Crew) : (s.modCrew f).xyz = s.xyz := rfl
@[simp] theorem State.modCrew_fabric (s : State) (f : Crew → Crew) : (s.modCrew f).fabric = s.fabric := rfl
@[simp] theorem State.modCrew_badLinks (s : State) (f : Crew → Crew) : (s.modCrew f).badLinks = s.badLinks := rfl
@[simp] theorem State.modCrew_fw (s : State) (f : Crew → Crew) : (s.modCrew f).fw = s.fw := rfl
@[simp] theorem State.modCrew_capclass (s : State) (f : Crew → Crew) : (s.modCrew f).capclass = s.capclass := rfl
@[simp] theorem State.modCrew_deadDies (s : State) (f : Crew → Crew) : (s.modCrew f).deadDies = s.deadDies := rfl
@[simp] theorem State.modCrew_regErrs (s : State) (f : Crew → Crew) : (s.modCrew f).regErrs = s.regErrs := rfl
@[simp] theorem State.modCrew_ports (s : State) (f : Crew → Crew) : (s.modCrew f).ports = s.ports := rfl
@[simp] theorem State.modCrew_relay (s : State) (f : Crew → Crew) : (s.modCrew f).relay = s.relay := rfl
@[simp] theorem State.modCrew_nvme (s : State) (f : Crew → Crew) : (s.modCrew f).nvme = s.nvme := rfl
@[simp] theorem State.modCrew_keys (s : State) (f : Crew → Crew) : (s.modCrew f).keys = s.keys := rfl
@[simp] theorem State.modCrew_counters (s : State) (f : Crew → Crew) : (s.modCrew f).counters = s.counters := rfl
@[simp] theorem State.modCrew_cntPeriod (s : State) (f : Crew → Crew) : (s.modCrew f).cntPeriod = s.cntPeriod := rfl
@[simp] theorem State.modCrew_cntSeq (s : State) (f : Crew → Crew) : (s.modCrew f).cntSeq = s.cntSeq := rfl
@[simp] theorem State.modCrew_cntRun (s : State) (f : Crew → Crew) : (s.modCrew f).cntRun = s.cntRun := rfl
@[simp] theorem State.modCrew_slipClk (s : State) (f : Crew → Crew) : (s.modCrew f).slipClk = s.slipClk := rfl
@[simp] theorem State.modCrew_trace (s : State) (f : Crew → Crew) : (s.modCrew f).trace = s.trace := rfl
@[simp] theorem State.modCrew_latent (s : State) (f : Crew → Crew) : (s.modCrew f).latent = s.latent := rfl
@[simp] theorem State.modCrew_power (s : State) (f : Crew → Crew) : (s.modCrew f).power = s.power := rfl
@[simp] theorem State.modCrew_cap (s : State) (f : Crew → Crew) : (s.modCrew f).cap = s.cap := rfl
@[simp] theorem State.modCrew_throt (s : State) (f : Crew → Crew) : (s.modCrew f).throt = s.throt := rfl
@[simp] theorem State.modCrew_temps (s : State) (f : Crew → Crew) : (s.modCrew f).temps = s.temps := rfl
@[simp] theorem State.modCrew_hold (s : State) (f : Crew → Crew) : (s.modCrew f).hold = s.hold := rfl
@[simp] theorem State.modCrew_spdm (s : State) (f : Crew → Crew) : (s.modCrew f).spdm = s.spdm := rfl
@[simp] theorem State.modCrew_mctp (s : State) (f : Crew → Crew) : (s.modCrew f).mctp = s.mctp := rfl
@[simp] theorem State.modCrew_hostOut (s : State) (f : Crew → Crew) : (s.modCrew f).hostOut = s.hostOut := rfl

/-! ### State.adv -/

@[simp] theorem State.adv_thr (s : State) : (s.adv).thr = s.thr.next := rfl
@[simp] theorem State.adv_crew (s : State) : (s.adv).crew = s.crew := rfl
@[simp] theorem State.adv_mates (s : State) : (s.adv).mates = s.mates := rfl
@[simp] theorem State.adv_others (s : State) : (s.adv).others = s.others := rfl
@[simp] theorem State.adv_live (s : State) : (s.adv).live = s.live := rfl
@[simp] theorem State.adv_clk (s : State) : (s.adv).clk = s.clk := rfl
@[simp] theorem State.adv_stepNo (s : State) : (s.adv).stepNo = s.stepNo := rfl
@[simp] theorem State.adv_fresh (s : State) : (s.adv).fresh = s.fresh := rfl
@[simp] theorem State.adv_draw (s : State) : (s.adv).draw = s.draw := rfl
@[simp] theorem State.adv_lag (s : State) : (s.adv).lag = s.lag := rfl
@[simp] theorem State.adv_slack (s : State) : (s.adv).slack = s.slack := rfl
@[simp] theorem State.adv_inputs (s : State) : (s.adv).inputs = s.inputs := rfl
@[simp] theorem State.adv_spad (s : State) : (s.adv).spad = s.spad := rfl
@[simp] theorem State.adv_spadTag (s : State) : (s.adv).spadTag = s.spadTag := rfl
@[simp] theorem State.adv_bufs (s : State) : (s.adv).bufs = s.bufs := rfl
@[simp] theorem State.adv_acc (s : State) : (s.adv).acc = s.acc := rfl
@[simp] theorem State.adv_accInt (s : State) : (s.adv).accInt = s.accInt := rfl
@[simp] theorem State.adv_sig (s : State) : (s.adv).sig = s.sig := rfl
@[simp] theorem State.adv_sigOwn (s : State) : (s.adv).sigOwn = s.sigOwn := rfl
@[simp] theorem State.adv_host (s : State) : (s.adv).host = s.host := rfl
@[simp] theorem State.adv_hostDenied (s : State) : (s.adv).hostDenied = s.hostDenied := rfl
@[simp] theorem State.adv_dram (s : State) : (s.adv).dram = s.dram := rfl
@[simp] theorem State.adv_dramKey (s : State) : (s.adv).dramKey = s.dramKey := rfl
@[simp] theorem State.adv_dramBad (s : State) : (s.adv).dramBad = s.dramBad := rfl
@[simp] theorem State.adv_exts (s : State) : (s.adv).exts = s.exts := rfl
@[simp] theorem State.adv_withdrawn (s : State) : (s.adv).withdrawn = s.withdrawn := rfl
@[simp] theorem State.adv_ctxs (s : State) : (s.adv).ctxs = s.ctxs := rfl
@[simp] theorem State.adv_ops (s : State) : (s.adv).ops = s.ops := rfl
@[simp] theorem State.adv_msgs (s : State) : (s.adv).msgs = s.msgs := rfl
@[simp] theorem State.adv_pushes (s : State) : (s.adv).pushes = s.pushes := rfl
@[simp] theorem State.adv_tasks (s : State) : (s.adv).tasks = s.tasks := rfl
@[simp] theorem State.adv_misses (s : State) : (s.adv).misses = s.misses := rfl
@[simp] theorem State.adv_launches (s : State) : (s.adv).launches = s.launches := rfl
@[simp] theorem State.adv_queues (s : State) : (s.adv).queues = s.queues := rfl
@[simp] theorem State.adv_mbox (s : State) : (s.adv).mbox = s.mbox := rfl
@[simp] theorem State.adv_stage (s : State) : (s.adv).stage = s.stage := rfl
@[simp] theorem State.adv_dieRdy (s : State) : (s.adv).dieRdy = s.dieRdy := rfl
@[simp] theorem State.adv_phRdy (s : State) : (s.adv).phRdy = s.phRdy := rfl
@[simp] theorem State.adv_pkg (s : State) : (s.adv).pkg = s.pkg := rfl
@[simp] theorem State.adv_xyz (s : State) : (s.adv).xyz = s.xyz := rfl
@[simp] theorem State.adv_fabric (s : State) : (s.adv).fabric = s.fabric := rfl
@[simp] theorem State.adv_badLinks (s : State) : (s.adv).badLinks = s.badLinks := rfl
@[simp] theorem State.adv_fw (s : State) : (s.adv).fw = s.fw := rfl
@[simp] theorem State.adv_capclass (s : State) : (s.adv).capclass = s.capclass := rfl
@[simp] theorem State.adv_deadDies (s : State) : (s.adv).deadDies = s.deadDies := rfl
@[simp] theorem State.adv_regErrs (s : State) : (s.adv).regErrs = s.regErrs := rfl
@[simp] theorem State.adv_ports (s : State) : (s.adv).ports = s.ports := rfl
@[simp] theorem State.adv_relay (s : State) : (s.adv).relay = s.relay := rfl
@[simp] theorem State.adv_nvme (s : State) : (s.adv).nvme = s.nvme := rfl
@[simp] theorem State.adv_keys (s : State) : (s.adv).keys = s.keys := rfl
@[simp] theorem State.adv_counters (s : State) : (s.adv).counters = s.counters := rfl
@[simp] theorem State.adv_cntPeriod (s : State) : (s.adv).cntPeriod = s.cntPeriod := rfl
@[simp] theorem State.adv_cntSeq (s : State) : (s.adv).cntSeq = s.cntSeq := rfl
@[simp] theorem State.adv_cntRun (s : State) : (s.adv).cntRun = s.cntRun := rfl
@[simp] theorem State.adv_slipClk (s : State) : (s.adv).slipClk = s.slipClk := rfl
@[simp] theorem State.adv_trace (s : State) : (s.adv).trace = s.trace := rfl
@[simp] theorem State.adv_latent (s : State) : (s.adv).latent = s.latent := rfl
@[simp] theorem State.adv_power (s : State) : (s.adv).power = s.power := rfl
@[simp] theorem State.adv_cap (s : State) : (s.adv).cap = s.cap := rfl
@[simp] theorem State.adv_throt (s : State) : (s.adv).throt = s.throt := rfl
@[simp] theorem State.adv_temps (s : State) : (s.adv).temps = s.temps := rfl
@[simp] theorem State.adv_hold (s : State) : (s.adv).hold = s.hold := rfl
@[simp] theorem State.adv_spdm (s : State) : (s.adv).spdm = s.spdm := rfl
@[simp] theorem State.adv_mctp (s : State) : (s.adv).mctp = s.mctp := rfl
@[simp] theorem State.adv_hostOut (s : State) : (s.adv).hostOut = s.hostOut := rfl

/-! ### State.mark -/

@[simp] theorem State.mark_thr (s : State) (w : Why) : (s.mark w).thr = { s.thr with life := .stalled w } := rfl
@[simp] theorem State.mark_crew (s : State) (w : Why) : (s.mark w).crew = s.crew := rfl
@[simp] theorem State.mark_mates (s : State) (w : Why) : (s.mark w).mates = s.mates := rfl
@[simp] theorem State.mark_others (s : State) (w : Why) : (s.mark w).others = s.others := rfl
@[simp] theorem State.mark_live (s : State) (w : Why) : (s.mark w).live = s.live := rfl
@[simp] theorem State.mark_clk (s : State) (w : Why) : (s.mark w).clk = s.clk := rfl
@[simp] theorem State.mark_stepNo (s : State) (w : Why) : (s.mark w).stepNo = s.stepNo := rfl
@[simp] theorem State.mark_fresh (s : State) (w : Why) : (s.mark w).fresh = s.fresh := rfl
@[simp] theorem State.mark_draw (s : State) (w : Why) : (s.mark w).draw = s.draw := rfl
@[simp] theorem State.mark_lag (s : State) (w : Why) : (s.mark w).lag = s.lag := rfl
@[simp] theorem State.mark_slack (s : State) (w : Why) : (s.mark w).slack = s.slack := rfl
@[simp] theorem State.mark_inputs (s : State) (w : Why) : (s.mark w).inputs = s.inputs := rfl
@[simp] theorem State.mark_spad (s : State) (w : Why) : (s.mark w).spad = s.spad := rfl
@[simp] theorem State.mark_spadTag (s : State) (w : Why) : (s.mark w).spadTag = s.spadTag := rfl
@[simp] theorem State.mark_bufs (s : State) (w : Why) : (s.mark w).bufs = s.bufs := rfl
@[simp] theorem State.mark_acc (s : State) (w : Why) : (s.mark w).acc = s.acc := rfl
@[simp] theorem State.mark_accInt (s : State) (w : Why) : (s.mark w).accInt = s.accInt := rfl
@[simp] theorem State.mark_sig (s : State) (w : Why) : (s.mark w).sig = s.sig := rfl
@[simp] theorem State.mark_sigOwn (s : State) (w : Why) : (s.mark w).sigOwn = s.sigOwn := rfl
@[simp] theorem State.mark_host (s : State) (w : Why) : (s.mark w).host = s.host := rfl
@[simp] theorem State.mark_hostDenied (s : State) (w : Why) : (s.mark w).hostDenied = s.hostDenied := rfl
@[simp] theorem State.mark_dram (s : State) (w : Why) : (s.mark w).dram = s.dram := rfl
@[simp] theorem State.mark_dramKey (s : State) (w : Why) : (s.mark w).dramKey = s.dramKey := rfl
@[simp] theorem State.mark_dramBad (s : State) (w : Why) : (s.mark w).dramBad = s.dramBad := rfl
@[simp] theorem State.mark_exts (s : State) (w : Why) : (s.mark w).exts = s.exts := rfl
@[simp] theorem State.mark_withdrawn (s : State) (w : Why) : (s.mark w).withdrawn = s.withdrawn := rfl
@[simp] theorem State.mark_ctxs (s : State) (w : Why) : (s.mark w).ctxs = s.ctxs := rfl
@[simp] theorem State.mark_ops (s : State) (w : Why) : (s.mark w).ops = s.ops := rfl
@[simp] theorem State.mark_msgs (s : State) (w : Why) : (s.mark w).msgs = s.msgs := rfl
@[simp] theorem State.mark_pushes (s : State) (w : Why) : (s.mark w).pushes = s.pushes := rfl
@[simp] theorem State.mark_tasks (s : State) (w : Why) : (s.mark w).tasks = s.tasks := rfl
@[simp] theorem State.mark_misses (s : State) (w : Why) : (s.mark w).misses = s.misses := rfl
@[simp] theorem State.mark_launches (s : State) (w : Why) : (s.mark w).launches = s.launches := rfl
@[simp] theorem State.mark_queues (s : State) (w : Why) : (s.mark w).queues = s.queues := rfl
@[simp] theorem State.mark_mbox (s : State) (w : Why) : (s.mark w).mbox = s.mbox := rfl
@[simp] theorem State.mark_stage (s : State) (w : Why) : (s.mark w).stage = s.stage := rfl
@[simp] theorem State.mark_dieRdy (s : State) (w : Why) : (s.mark w).dieRdy = s.dieRdy := rfl
@[simp] theorem State.mark_phRdy (s : State) (w : Why) : (s.mark w).phRdy = s.phRdy := rfl
@[simp] theorem State.mark_pkg (s : State) (w : Why) : (s.mark w).pkg = s.pkg := rfl
@[simp] theorem State.mark_xyz (s : State) (w : Why) : (s.mark w).xyz = s.xyz := rfl
@[simp] theorem State.mark_fabric (s : State) (w : Why) : (s.mark w).fabric = s.fabric := rfl
@[simp] theorem State.mark_badLinks (s : State) (w : Why) : (s.mark w).badLinks = s.badLinks := rfl
@[simp] theorem State.mark_fw (s : State) (w : Why) : (s.mark w).fw = s.fw := rfl
@[simp] theorem State.mark_capclass (s : State) (w : Why) : (s.mark w).capclass = s.capclass := rfl
@[simp] theorem State.mark_deadDies (s : State) (w : Why) : (s.mark w).deadDies = s.deadDies := rfl
@[simp] theorem State.mark_regErrs (s : State) (w : Why) : (s.mark w).regErrs = s.regErrs := rfl
@[simp] theorem State.mark_ports (s : State) (w : Why) : (s.mark w).ports = s.ports := rfl
@[simp] theorem State.mark_relay (s : State) (w : Why) : (s.mark w).relay = s.relay := rfl
@[simp] theorem State.mark_nvme (s : State) (w : Why) : (s.mark w).nvme = s.nvme := rfl
@[simp] theorem State.mark_keys (s : State) (w : Why) : (s.mark w).keys = s.keys := rfl
@[simp] theorem State.mark_counters (s : State) (w : Why) : (s.mark w).counters = s.counters := rfl
@[simp] theorem State.mark_cntPeriod (s : State) (w : Why) : (s.mark w).cntPeriod = s.cntPeriod := rfl
@[simp] theorem State.mark_cntSeq (s : State) (w : Why) : (s.mark w).cntSeq = s.cntSeq := rfl
@[simp] theorem State.mark_cntRun (s : State) (w : Why) : (s.mark w).cntRun = s.cntRun := rfl
@[simp] theorem State.mark_slipClk (s : State) (w : Why) : (s.mark w).slipClk = s.slipClk := rfl
@[simp] theorem State.mark_trace (s : State) (w : Why) : (s.mark w).trace = s.trace := rfl
@[simp] theorem State.mark_latent (s : State) (w : Why) : (s.mark w).latent = s.latent := rfl
@[simp] theorem State.mark_power (s : State) (w : Why) : (s.mark w).power = s.power := rfl
@[simp] theorem State.mark_cap (s : State) (w : Why) : (s.mark w).cap = s.cap := rfl
@[simp] theorem State.mark_throt (s : State) (w : Why) : (s.mark w).throt = s.throt := rfl
@[simp] theorem State.mark_temps (s : State) (w : Why) : (s.mark w).temps = s.temps := rfl
@[simp] theorem State.mark_hold (s : State) (w : Why) : (s.mark w).hold = s.hold := rfl
@[simp] theorem State.mark_spdm (s : State) (w : Why) : (s.mark w).spdm = s.spdm := rfl
@[simp] theorem State.mark_mctp (s : State) (w : Why) : (s.mark w).mctp = s.mctp := rfl
@[simp] theorem State.mark_hostOut (s : State) (w : Why) : (s.mark w).hostOut = s.hostOut := rfl

/-! ### State.drawn -/

@[simp] theorem State.drawn_thr (s : State) : (s.drawn).thr = s.thr := rfl
@[simp] theorem State.drawn_crew (s : State) : (s.drawn).crew = s.crew := rfl
@[simp] theorem State.drawn_mates (s : State) : (s.drawn).mates = s.mates := rfl
@[simp] theorem State.drawn_others (s : State) : (s.drawn).others = s.others := rfl
@[simp] theorem State.drawn_live (s : State) : (s.drawn).live = s.live := rfl
@[simp] theorem State.drawn_clk (s : State) : (s.drawn).clk = s.clk := rfl
@[simp] theorem State.drawn_stepNo (s : State) : (s.drawn).stepNo = s.stepNo := rfl
@[simp] theorem State.drawn_fresh (s : State) : (s.drawn).fresh = s.fresh := rfl
@[simp] theorem State.drawn_draw (s : State) : (s.drawn).draw = s.draw + 1 := rfl
@[simp] theorem State.drawn_lag (s : State) : (s.drawn).lag = s.lag := rfl
@[simp] theorem State.drawn_slack (s : State) : (s.drawn).slack = s.slack := rfl
@[simp] theorem State.drawn_inputs (s : State) : (s.drawn).inputs = s.inputs := rfl
@[simp] theorem State.drawn_spad (s : State) : (s.drawn).spad = s.spad := rfl
@[simp] theorem State.drawn_spadTag (s : State) : (s.drawn).spadTag = s.spadTag := rfl
@[simp] theorem State.drawn_bufs (s : State) : (s.drawn).bufs = s.bufs := rfl
@[simp] theorem State.drawn_acc (s : State) : (s.drawn).acc = s.acc := rfl
@[simp] theorem State.drawn_accInt (s : State) : (s.drawn).accInt = s.accInt := rfl
@[simp] theorem State.drawn_sig (s : State) : (s.drawn).sig = s.sig := rfl
@[simp] theorem State.drawn_sigOwn (s : State) : (s.drawn).sigOwn = s.sigOwn := rfl
@[simp] theorem State.drawn_host (s : State) : (s.drawn).host = s.host := rfl
@[simp] theorem State.drawn_hostDenied (s : State) : (s.drawn).hostDenied = s.hostDenied := rfl
@[simp] theorem State.drawn_dram (s : State) : (s.drawn).dram = s.dram := rfl
@[simp] theorem State.drawn_dramKey (s : State) : (s.drawn).dramKey = s.dramKey := rfl
@[simp] theorem State.drawn_dramBad (s : State) : (s.drawn).dramBad = s.dramBad := rfl
@[simp] theorem State.drawn_exts (s : State) : (s.drawn).exts = s.exts := rfl
@[simp] theorem State.drawn_withdrawn (s : State) : (s.drawn).withdrawn = s.withdrawn := rfl
@[simp] theorem State.drawn_ctxs (s : State) : (s.drawn).ctxs = s.ctxs := rfl
@[simp] theorem State.drawn_ops (s : State) : (s.drawn).ops = s.ops := rfl
@[simp] theorem State.drawn_msgs (s : State) : (s.drawn).msgs = s.msgs := rfl
@[simp] theorem State.drawn_pushes (s : State) : (s.drawn).pushes = s.pushes := rfl
@[simp] theorem State.drawn_tasks (s : State) : (s.drawn).tasks = s.tasks := rfl
@[simp] theorem State.drawn_misses (s : State) : (s.drawn).misses = s.misses := rfl
@[simp] theorem State.drawn_launches (s : State) : (s.drawn).launches = s.launches := rfl
@[simp] theorem State.drawn_queues (s : State) : (s.drawn).queues = s.queues := rfl
@[simp] theorem State.drawn_mbox (s : State) : (s.drawn).mbox = s.mbox := rfl
@[simp] theorem State.drawn_stage (s : State) : (s.drawn).stage = s.stage := rfl
@[simp] theorem State.drawn_dieRdy (s : State) : (s.drawn).dieRdy = s.dieRdy := rfl
@[simp] theorem State.drawn_phRdy (s : State) : (s.drawn).phRdy = s.phRdy := rfl
@[simp] theorem State.drawn_pkg (s : State) : (s.drawn).pkg = s.pkg := rfl
@[simp] theorem State.drawn_xyz (s : State) : (s.drawn).xyz = s.xyz := rfl
@[simp] theorem State.drawn_fabric (s : State) : (s.drawn).fabric = s.fabric := rfl
@[simp] theorem State.drawn_badLinks (s : State) : (s.drawn).badLinks = s.badLinks := rfl
@[simp] theorem State.drawn_fw (s : State) : (s.drawn).fw = s.fw := rfl
@[simp] theorem State.drawn_capclass (s : State) : (s.drawn).capclass = s.capclass := rfl
@[simp] theorem State.drawn_deadDies (s : State) : (s.drawn).deadDies = s.deadDies := rfl
@[simp] theorem State.drawn_regErrs (s : State) : (s.drawn).regErrs = s.regErrs := rfl
@[simp] theorem State.drawn_ports (s : State) : (s.drawn).ports = s.ports := rfl
@[simp] theorem State.drawn_relay (s : State) : (s.drawn).relay = s.relay := rfl
@[simp] theorem State.drawn_nvme (s : State) : (s.drawn).nvme = s.nvme := rfl
@[simp] theorem State.drawn_keys (s : State) : (s.drawn).keys = s.keys := rfl
@[simp] theorem State.drawn_counters (s : State) : (s.drawn).counters = s.counters := rfl
@[simp] theorem State.drawn_cntPeriod (s : State) : (s.drawn).cntPeriod = s.cntPeriod := rfl
@[simp] theorem State.drawn_cntSeq (s : State) : (s.drawn).cntSeq = s.cntSeq := rfl
@[simp] theorem State.drawn_cntRun (s : State) : (s.drawn).cntRun = s.cntRun := rfl
@[simp] theorem State.drawn_slipClk (s : State) : (s.drawn).slipClk = s.slipClk := rfl
@[simp] theorem State.drawn_trace (s : State) : (s.drawn).trace = s.trace := rfl
@[simp] theorem State.drawn_latent (s : State) : (s.drawn).latent = s.latent := rfl
@[simp] theorem State.drawn_power (s : State) : (s.drawn).power = s.power := rfl
@[simp] theorem State.drawn_cap (s : State) : (s.drawn).cap = s.cap := rfl
@[simp] theorem State.drawn_throt (s : State) : (s.drawn).throt = s.throt := rfl
@[simp] theorem State.drawn_temps (s : State) : (s.drawn).temps = s.temps := rfl
@[simp] theorem State.drawn_hold (s : State) : (s.drawn).hold = s.hold := rfl
@[simp] theorem State.drawn_spdm (s : State) : (s.drawn).spdm = s.spdm := rfl
@[simp] theorem State.drawn_mctp (s : State) : (s.drawn).mctp = s.mctp := rfl
@[simp] theorem State.drawn_hostOut (s : State) : (s.drawn).hostOut = s.hostOut := rfl

/-! ### State.modCtx -/

@[simp] theorem State.modCtx_thr (s : State) (n : BitVec 16) (f : Ctx → Ctx) : (s.modCtx n f).thr = s.thr := rfl
@[simp] theorem State.modCtx_crew (s : State) (n : BitVec 16) (f : Ctx → Ctx) : (s.modCtx n f).crew = s.crew := rfl
@[simp] theorem State.modCtx_mates (s : State) (n : BitVec 16) (f : Ctx → Ctx) : (s.modCtx n f).mates = s.mates := rfl
@[simp] theorem State.modCtx_others (s : State) (n : BitVec 16) (f : Ctx → Ctx) : (s.modCtx n f).others = s.others := rfl
@[simp] theorem State.modCtx_live (s : State) (n : BitVec 16) (f : Ctx → Ctx) : (s.modCtx n f).live = s.live := rfl
@[simp] theorem State.modCtx_clk (s : State) (n : BitVec 16) (f : Ctx → Ctx) : (s.modCtx n f).clk = s.clk := rfl
@[simp] theorem State.modCtx_stepNo (s : State) (n : BitVec 16) (f : Ctx → Ctx) : (s.modCtx n f).stepNo = s.stepNo := rfl
@[simp] theorem State.modCtx_fresh (s : State) (n : BitVec 16) (f : Ctx → Ctx) : (s.modCtx n f).fresh = s.fresh := rfl
@[simp] theorem State.modCtx_draw (s : State) (n : BitVec 16) (f : Ctx → Ctx) : (s.modCtx n f).draw = s.draw := rfl
@[simp] theorem State.modCtx_lag (s : State) (n : BitVec 16) (f : Ctx → Ctx) : (s.modCtx n f).lag = s.lag := rfl
@[simp] theorem State.modCtx_slack (s : State) (n : BitVec 16) (f : Ctx → Ctx) : (s.modCtx n f).slack = s.slack := rfl
@[simp] theorem State.modCtx_inputs (s : State) (n : BitVec 16) (f : Ctx → Ctx) : (s.modCtx n f).inputs = s.inputs := rfl
@[simp] theorem State.modCtx_spad (s : State) (n : BitVec 16) (f : Ctx → Ctx) : (s.modCtx n f).spad = s.spad := rfl
@[simp] theorem State.modCtx_spadTag (s : State) (n : BitVec 16) (f : Ctx → Ctx) : (s.modCtx n f).spadTag = s.spadTag := rfl
@[simp] theorem State.modCtx_bufs (s : State) (n : BitVec 16) (f : Ctx → Ctx) : (s.modCtx n f).bufs = s.bufs := rfl
@[simp] theorem State.modCtx_acc (s : State) (n : BitVec 16) (f : Ctx → Ctx) : (s.modCtx n f).acc = s.acc := rfl
@[simp] theorem State.modCtx_accInt (s : State) (n : BitVec 16) (f : Ctx → Ctx) : (s.modCtx n f).accInt = s.accInt := rfl
@[simp] theorem State.modCtx_sig (s : State) (n : BitVec 16) (f : Ctx → Ctx) : (s.modCtx n f).sig = s.sig := rfl
@[simp] theorem State.modCtx_sigOwn (s : State) (n : BitVec 16) (f : Ctx → Ctx) : (s.modCtx n f).sigOwn = s.sigOwn := rfl
@[simp] theorem State.modCtx_host (s : State) (n : BitVec 16) (f : Ctx → Ctx) : (s.modCtx n f).host = s.host := rfl
@[simp] theorem State.modCtx_hostDenied (s : State) (n : BitVec 16) (f : Ctx → Ctx) : (s.modCtx n f).hostDenied = s.hostDenied := rfl
@[simp] theorem State.modCtx_dram (s : State) (n : BitVec 16) (f : Ctx → Ctx) : (s.modCtx n f).dram = s.dram := rfl
@[simp] theorem State.modCtx_dramKey (s : State) (n : BitVec 16) (f : Ctx → Ctx) : (s.modCtx n f).dramKey = s.dramKey := rfl
@[simp] theorem State.modCtx_dramBad (s : State) (n : BitVec 16) (f : Ctx → Ctx) : (s.modCtx n f).dramBad = s.dramBad := rfl
@[simp] theorem State.modCtx_exts (s : State) (n : BitVec 16) (f : Ctx → Ctx) : (s.modCtx n f).exts = s.exts := rfl
@[simp] theorem State.modCtx_withdrawn (s : State) (n : BitVec 16) (f : Ctx → Ctx) : (s.modCtx n f).withdrawn = s.withdrawn := rfl
@[simp] theorem State.modCtx_ctxs (s : State) (n : BitVec 16) (f : Ctx → Ctx) : (s.modCtx n f).ctxs = s.ctxs.map fun c => if c.ctx = n then f c else c := rfl
@[simp] theorem State.modCtx_ops (s : State) (n : BitVec 16) (f : Ctx → Ctx) : (s.modCtx n f).ops = s.ops := rfl
@[simp] theorem State.modCtx_msgs (s : State) (n : BitVec 16) (f : Ctx → Ctx) : (s.modCtx n f).msgs = s.msgs := rfl
@[simp] theorem State.modCtx_pushes (s : State) (n : BitVec 16) (f : Ctx → Ctx) : (s.modCtx n f).pushes = s.pushes := rfl
@[simp] theorem State.modCtx_tasks (s : State) (n : BitVec 16) (f : Ctx → Ctx) : (s.modCtx n f).tasks = s.tasks := rfl
@[simp] theorem State.modCtx_misses (s : State) (n : BitVec 16) (f : Ctx → Ctx) : (s.modCtx n f).misses = s.misses := rfl
@[simp] theorem State.modCtx_launches (s : State) (n : BitVec 16) (f : Ctx → Ctx) : (s.modCtx n f).launches = s.launches := rfl
@[simp] theorem State.modCtx_queues (s : State) (n : BitVec 16) (f : Ctx → Ctx) : (s.modCtx n f).queues = s.queues := rfl
@[simp] theorem State.modCtx_mbox (s : State) (n : BitVec 16) (f : Ctx → Ctx) : (s.modCtx n f).mbox = s.mbox := rfl
@[simp] theorem State.modCtx_stage (s : State) (n : BitVec 16) (f : Ctx → Ctx) : (s.modCtx n f).stage = s.stage := rfl
@[simp] theorem State.modCtx_dieRdy (s : State) (n : BitVec 16) (f : Ctx → Ctx) : (s.modCtx n f).dieRdy = s.dieRdy := rfl
@[simp] theorem State.modCtx_phRdy (s : State) (n : BitVec 16) (f : Ctx → Ctx) : (s.modCtx n f).phRdy = s.phRdy := rfl
@[simp] theorem State.modCtx_pkg (s : State) (n : BitVec 16) (f : Ctx → Ctx) : (s.modCtx n f).pkg = s.pkg := rfl
@[simp] theorem State.modCtx_xyz (s : State) (n : BitVec 16) (f : Ctx → Ctx) : (s.modCtx n f).xyz = s.xyz := rfl
@[simp] theorem State.modCtx_fabric (s : State) (n : BitVec 16) (f : Ctx → Ctx) : (s.modCtx n f).fabric = s.fabric := rfl
@[simp] theorem State.modCtx_badLinks (s : State) (n : BitVec 16) (f : Ctx → Ctx) : (s.modCtx n f).badLinks = s.badLinks := rfl
@[simp] theorem State.modCtx_fw (s : State) (n : BitVec 16) (f : Ctx → Ctx) : (s.modCtx n f).fw = s.fw := rfl
@[simp] theorem State.modCtx_capclass (s : State) (n : BitVec 16) (f : Ctx → Ctx) : (s.modCtx n f).capclass = s.capclass := rfl
@[simp] theorem State.modCtx_deadDies (s : State) (n : BitVec 16) (f : Ctx → Ctx) : (s.modCtx n f).deadDies = s.deadDies := rfl
@[simp] theorem State.modCtx_regErrs (s : State) (n : BitVec 16) (f : Ctx → Ctx) : (s.modCtx n f).regErrs = s.regErrs := rfl
@[simp] theorem State.modCtx_ports (s : State) (n : BitVec 16) (f : Ctx → Ctx) : (s.modCtx n f).ports = s.ports := rfl
@[simp] theorem State.modCtx_relay (s : State) (n : BitVec 16) (f : Ctx → Ctx) : (s.modCtx n f).relay = s.relay := rfl
@[simp] theorem State.modCtx_nvme (s : State) (n : BitVec 16) (f : Ctx → Ctx) : (s.modCtx n f).nvme = s.nvme := rfl
@[simp] theorem State.modCtx_keys (s : State) (n : BitVec 16) (f : Ctx → Ctx) : (s.modCtx n f).keys = s.keys := rfl
@[simp] theorem State.modCtx_counters (s : State) (n : BitVec 16) (f : Ctx → Ctx) : (s.modCtx n f).counters = s.counters := rfl
@[simp] theorem State.modCtx_cntPeriod (s : State) (n : BitVec 16) (f : Ctx → Ctx) : (s.modCtx n f).cntPeriod = s.cntPeriod := rfl
@[simp] theorem State.modCtx_cntSeq (s : State) (n : BitVec 16) (f : Ctx → Ctx) : (s.modCtx n f).cntSeq = s.cntSeq := rfl
@[simp] theorem State.modCtx_cntRun (s : State) (n : BitVec 16) (f : Ctx → Ctx) : (s.modCtx n f).cntRun = s.cntRun := rfl
@[simp] theorem State.modCtx_slipClk (s : State) (n : BitVec 16) (f : Ctx → Ctx) : (s.modCtx n f).slipClk = s.slipClk := rfl
@[simp] theorem State.modCtx_trace (s : State) (n : BitVec 16) (f : Ctx → Ctx) : (s.modCtx n f).trace = s.trace := rfl
@[simp] theorem State.modCtx_latent (s : State) (n : BitVec 16) (f : Ctx → Ctx) : (s.modCtx n f).latent = s.latent := rfl
@[simp] theorem State.modCtx_power (s : State) (n : BitVec 16) (f : Ctx → Ctx) : (s.modCtx n f).power = s.power := rfl
@[simp] theorem State.modCtx_cap (s : State) (n : BitVec 16) (f : Ctx → Ctx) : (s.modCtx n f).cap = s.cap := rfl
@[simp] theorem State.modCtx_throt (s : State) (n : BitVec 16) (f : Ctx → Ctx) : (s.modCtx n f).throt = s.throt := rfl
@[simp] theorem State.modCtx_temps (s : State) (n : BitVec 16) (f : Ctx → Ctx) : (s.modCtx n f).temps = s.temps := rfl
@[simp] theorem State.modCtx_hold (s : State) (n : BitVec 16) (f : Ctx → Ctx) : (s.modCtx n f).hold = s.hold := rfl
@[simp] theorem State.modCtx_spdm (s : State) (n : BitVec 16) (f : Ctx → Ctx) : (s.modCtx n f).spdm = s.spdm := rfl
@[simp] theorem State.modCtx_mctp (s : State) (n : BitVec 16) (f : Ctx → Ctx) : (s.modCtx n f).mctp = s.mctp := rfl
@[simp] theorem State.modCtx_hostOut (s : State) (n : BitVec 16) (f : Ctx → Ctx) : (s.modCtx n f).hostOut = s.hostOut := rfl

/-! ### State.setEntry -/

@[simp] theorem State.setEntry_thr (s : State) (n : BitVec 16) (i : Nat) (e : CabEntry) : (s.setEntry n i e).thr = s.thr := rfl
@[simp] theorem State.setEntry_crew (s : State) (n : BitVec 16) (i : Nat) (e : CabEntry) : (s.setEntry n i e).crew = s.crew := rfl
@[simp] theorem State.setEntry_mates (s : State) (n : BitVec 16) (i : Nat) (e : CabEntry) : (s.setEntry n i e).mates = s.mates := rfl
@[simp] theorem State.setEntry_others (s : State) (n : BitVec 16) (i : Nat) (e : CabEntry) : (s.setEntry n i e).others = s.others := rfl
@[simp] theorem State.setEntry_live (s : State) (n : BitVec 16) (i : Nat) (e : CabEntry) : (s.setEntry n i e).live = s.live := rfl
@[simp] theorem State.setEntry_clk (s : State) (n : BitVec 16) (i : Nat) (e : CabEntry) : (s.setEntry n i e).clk = s.clk := rfl
@[simp] theorem State.setEntry_stepNo (s : State) (n : BitVec 16) (i : Nat) (e : CabEntry) : (s.setEntry n i e).stepNo = s.stepNo := rfl
@[simp] theorem State.setEntry_fresh (s : State) (n : BitVec 16) (i : Nat) (e : CabEntry) : (s.setEntry n i e).fresh = s.fresh := rfl
@[simp] theorem State.setEntry_draw (s : State) (n : BitVec 16) (i : Nat) (e : CabEntry) : (s.setEntry n i e).draw = s.draw := rfl
@[simp] theorem State.setEntry_lag (s : State) (n : BitVec 16) (i : Nat) (e : CabEntry) : (s.setEntry n i e).lag = s.lag := rfl
@[simp] theorem State.setEntry_slack (s : State) (n : BitVec 16) (i : Nat) (e : CabEntry) : (s.setEntry n i e).slack = s.slack := rfl
@[simp] theorem State.setEntry_inputs (s : State) (n : BitVec 16) (i : Nat) (e : CabEntry) : (s.setEntry n i e).inputs = s.inputs := rfl
@[simp] theorem State.setEntry_spad (s : State) (n : BitVec 16) (i : Nat) (e : CabEntry) : (s.setEntry n i e).spad = s.spad := rfl
@[simp] theorem State.setEntry_spadTag (s : State) (n : BitVec 16) (i : Nat) (e : CabEntry) : (s.setEntry n i e).spadTag = s.spadTag := rfl
@[simp] theorem State.setEntry_bufs (s : State) (n : BitVec 16) (i : Nat) (e : CabEntry) : (s.setEntry n i e).bufs = s.bufs := rfl
@[simp] theorem State.setEntry_acc (s : State) (n : BitVec 16) (i : Nat) (e : CabEntry) : (s.setEntry n i e).acc = s.acc := rfl
@[simp] theorem State.setEntry_accInt (s : State) (n : BitVec 16) (i : Nat) (e : CabEntry) : (s.setEntry n i e).accInt = s.accInt := rfl
@[simp] theorem State.setEntry_sig (s : State) (n : BitVec 16) (i : Nat) (e : CabEntry) : (s.setEntry n i e).sig = s.sig := rfl
@[simp] theorem State.setEntry_sigOwn (s : State) (n : BitVec 16) (i : Nat) (e : CabEntry) : (s.setEntry n i e).sigOwn = s.sigOwn := rfl
@[simp] theorem State.setEntry_host (s : State) (n : BitVec 16) (i : Nat) (e : CabEntry) : (s.setEntry n i e).host = s.host := rfl
@[simp] theorem State.setEntry_hostDenied (s : State) (n : BitVec 16) (i : Nat) (e : CabEntry) : (s.setEntry n i e).hostDenied = s.hostDenied := rfl
@[simp] theorem State.setEntry_dram (s : State) (n : BitVec 16) (i : Nat) (e : CabEntry) : (s.setEntry n i e).dram = s.dram := rfl
@[simp] theorem State.setEntry_dramKey (s : State) (n : BitVec 16) (i : Nat) (e : CabEntry) : (s.setEntry n i e).dramKey = s.dramKey := rfl
@[simp] theorem State.setEntry_dramBad (s : State) (n : BitVec 16) (i : Nat) (e : CabEntry) : (s.setEntry n i e).dramBad = s.dramBad := rfl
@[simp] theorem State.setEntry_exts (s : State) (n : BitVec 16) (i : Nat) (e : CabEntry) : (s.setEntry n i e).exts = s.exts := rfl
@[simp] theorem State.setEntry_withdrawn (s : State) (n : BitVec 16) (i : Nat) (e : CabEntry) : (s.setEntry n i e).withdrawn = s.withdrawn := rfl
@[simp] theorem State.setEntry_ctxs (s : State) (n : BitVec 16) (i : Nat) (e : CabEntry) : (s.setEntry n i e).ctxs = s.ctxs.map fun c => if c.ctx = n then { c with cab := kvSet c.cab i e } else c := rfl
@[simp] theorem State.setEntry_ops (s : State) (n : BitVec 16) (i : Nat) (e : CabEntry) : (s.setEntry n i e).ops = s.ops := rfl
@[simp] theorem State.setEntry_msgs (s : State) (n : BitVec 16) (i : Nat) (e : CabEntry) : (s.setEntry n i e).msgs = s.msgs := rfl
@[simp] theorem State.setEntry_pushes (s : State) (n : BitVec 16) (i : Nat) (e : CabEntry) : (s.setEntry n i e).pushes = s.pushes := rfl
@[simp] theorem State.setEntry_tasks (s : State) (n : BitVec 16) (i : Nat) (e : CabEntry) : (s.setEntry n i e).tasks = s.tasks := rfl
@[simp] theorem State.setEntry_misses (s : State) (n : BitVec 16) (i : Nat) (e : CabEntry) : (s.setEntry n i e).misses = s.misses := rfl
@[simp] theorem State.setEntry_launches (s : State) (n : BitVec 16) (i : Nat) (e : CabEntry) : (s.setEntry n i e).launches = s.launches := rfl
@[simp] theorem State.setEntry_queues (s : State) (n : BitVec 16) (i : Nat) (e : CabEntry) : (s.setEntry n i e).queues = s.queues := rfl
@[simp] theorem State.setEntry_mbox (s : State) (n : BitVec 16) (i : Nat) (e : CabEntry) : (s.setEntry n i e).mbox = s.mbox := rfl
@[simp] theorem State.setEntry_stage (s : State) (n : BitVec 16) (i : Nat) (e : CabEntry) : (s.setEntry n i e).stage = s.stage := rfl
@[simp] theorem State.setEntry_dieRdy (s : State) (n : BitVec 16) (i : Nat) (e : CabEntry) : (s.setEntry n i e).dieRdy = s.dieRdy := rfl
@[simp] theorem State.setEntry_phRdy (s : State) (n : BitVec 16) (i : Nat) (e : CabEntry) : (s.setEntry n i e).phRdy = s.phRdy := rfl
@[simp] theorem State.setEntry_pkg (s : State) (n : BitVec 16) (i : Nat) (e : CabEntry) : (s.setEntry n i e).pkg = s.pkg := rfl
@[simp] theorem State.setEntry_xyz (s : State) (n : BitVec 16) (i : Nat) (e : CabEntry) : (s.setEntry n i e).xyz = s.xyz := rfl
@[simp] theorem State.setEntry_fabric (s : State) (n : BitVec 16) (i : Nat) (e : CabEntry) : (s.setEntry n i e).fabric = s.fabric := rfl
@[simp] theorem State.setEntry_badLinks (s : State) (n : BitVec 16) (i : Nat) (e : CabEntry) : (s.setEntry n i e).badLinks = s.badLinks := rfl
@[simp] theorem State.setEntry_fw (s : State) (n : BitVec 16) (i : Nat) (e : CabEntry) : (s.setEntry n i e).fw = s.fw := rfl
@[simp] theorem State.setEntry_capclass (s : State) (n : BitVec 16) (i : Nat) (e : CabEntry) : (s.setEntry n i e).capclass = s.capclass := rfl
@[simp] theorem State.setEntry_deadDies (s : State) (n : BitVec 16) (i : Nat) (e : CabEntry) : (s.setEntry n i e).deadDies = s.deadDies := rfl
@[simp] theorem State.setEntry_regErrs (s : State) (n : BitVec 16) (i : Nat) (e : CabEntry) : (s.setEntry n i e).regErrs = s.regErrs := rfl
@[simp] theorem State.setEntry_ports (s : State) (n : BitVec 16) (i : Nat) (e : CabEntry) : (s.setEntry n i e).ports = s.ports := rfl
@[simp] theorem State.setEntry_relay (s : State) (n : BitVec 16) (i : Nat) (e : CabEntry) : (s.setEntry n i e).relay = s.relay := rfl
@[simp] theorem State.setEntry_nvme (s : State) (n : BitVec 16) (i : Nat) (e : CabEntry) : (s.setEntry n i e).nvme = s.nvme := rfl
@[simp] theorem State.setEntry_keys (s : State) (n : BitVec 16) (i : Nat) (e : CabEntry) : (s.setEntry n i e).keys = s.keys := rfl
@[simp] theorem State.setEntry_counters (s : State) (n : BitVec 16) (i : Nat) (e : CabEntry) : (s.setEntry n i e).counters = s.counters := rfl
@[simp] theorem State.setEntry_cntPeriod (s : State) (n : BitVec 16) (i : Nat) (e : CabEntry) : (s.setEntry n i e).cntPeriod = s.cntPeriod := rfl
@[simp] theorem State.setEntry_cntSeq (s : State) (n : BitVec 16) (i : Nat) (e : CabEntry) : (s.setEntry n i e).cntSeq = s.cntSeq := rfl
@[simp] theorem State.setEntry_cntRun (s : State) (n : BitVec 16) (i : Nat) (e : CabEntry) : (s.setEntry n i e).cntRun = s.cntRun := rfl
@[simp] theorem State.setEntry_slipClk (s : State) (n : BitVec 16) (i : Nat) (e : CabEntry) : (s.setEntry n i e).slipClk = s.slipClk := rfl
@[simp] theorem State.setEntry_trace (s : State) (n : BitVec 16) (i : Nat) (e : CabEntry) : (s.setEntry n i e).trace = s.trace := rfl
@[simp] theorem State.setEntry_latent (s : State) (n : BitVec 16) (i : Nat) (e : CabEntry) : (s.setEntry n i e).latent = s.latent := rfl
@[simp] theorem State.setEntry_power (s : State) (n : BitVec 16) (i : Nat) (e : CabEntry) : (s.setEntry n i e).power = s.power := rfl
@[simp] theorem State.setEntry_cap (s : State) (n : BitVec 16) (i : Nat) (e : CabEntry) : (s.setEntry n i e).cap = s.cap := rfl
@[simp] theorem State.setEntry_throt (s : State) (n : BitVec 16) (i : Nat) (e : CabEntry) : (s.setEntry n i e).throt = s.throt := rfl
@[simp] theorem State.setEntry_temps (s : State) (n : BitVec 16) (i : Nat) (e : CabEntry) : (s.setEntry n i e).temps = s.temps := rfl
@[simp] theorem State.setEntry_hold (s : State) (n : BitVec 16) (i : Nat) (e : CabEntry) : (s.setEntry n i e).hold = s.hold := rfl
@[simp] theorem State.setEntry_spdm (s : State) (n : BitVec 16) (i : Nat) (e : CabEntry) : (s.setEntry n i e).spdm = s.spdm := rfl
@[simp] theorem State.setEntry_mctp (s : State) (n : BitVec 16) (i : Nat) (e : CabEntry) : (s.setEntry n i e).mctp = s.mctp := rfl
@[simp] theorem State.setEntry_hostOut (s : State) (n : BitVec 16) (i : Nat) (e : CabEntry) : (s.setEntry n i e).hostOut = s.hostOut := rfl

/-! ### State.setBuf -/

@[simp] theorem State.setBuf_thr (s : State) (b : Buf) : (s.setBuf b).thr = s.thr := rfl
@[simp] theorem State.setBuf_crew (s : State) (b : Buf) : (s.setBuf b).crew = s.crew := rfl
@[simp] theorem State.setBuf_mates (s : State) (b : Buf) : (s.setBuf b).mates = s.mates := rfl
@[simp] theorem State.setBuf_others (s : State) (b : Buf) : (s.setBuf b).others = s.others := rfl
@[simp] theorem State.setBuf_live (s : State) (b : Buf) : (s.setBuf b).live = s.live := rfl
@[simp] theorem State.setBuf_clk (s : State) (b : Buf) : (s.setBuf b).clk = s.clk := rfl
@[simp] theorem State.setBuf_stepNo (s : State) (b : Buf) : (s.setBuf b).stepNo = s.stepNo := rfl
@[simp] theorem State.setBuf_fresh (s : State) (b : Buf) : (s.setBuf b).fresh = s.fresh := rfl
@[simp] theorem State.setBuf_draw (s : State) (b : Buf) : (s.setBuf b).draw = s.draw := rfl
@[simp] theorem State.setBuf_lag (s : State) (b : Buf) : (s.setBuf b).lag = s.lag := rfl
@[simp] theorem State.setBuf_slack (s : State) (b : Buf) : (s.setBuf b).slack = s.slack := rfl
@[simp] theorem State.setBuf_inputs (s : State) (b : Buf) : (s.setBuf b).inputs = s.inputs := rfl
@[simp] theorem State.setBuf_spad (s : State) (b : Buf) : (s.setBuf b).spad = s.spad := rfl
@[simp] theorem State.setBuf_spadTag (s : State) (b : Buf) : (s.setBuf b).spadTag = s.spadTag := rfl
@[simp] theorem State.setBuf_bufs (s : State) (b : Buf) : (s.setBuf b).bufs = s.bufs.map fun x => if x.core = b.core ∧ x.ctx = b.ctx ∧ x.id = b.id then b else x := rfl
@[simp] theorem State.setBuf_acc (s : State) (b : Buf) : (s.setBuf b).acc = s.acc := rfl
@[simp] theorem State.setBuf_accInt (s : State) (b : Buf) : (s.setBuf b).accInt = s.accInt := rfl
@[simp] theorem State.setBuf_sig (s : State) (b : Buf) : (s.setBuf b).sig = s.sig := rfl
@[simp] theorem State.setBuf_sigOwn (s : State) (b : Buf) : (s.setBuf b).sigOwn = s.sigOwn := rfl
@[simp] theorem State.setBuf_host (s : State) (b : Buf) : (s.setBuf b).host = s.host := rfl
@[simp] theorem State.setBuf_hostDenied (s : State) (b : Buf) : (s.setBuf b).hostDenied = s.hostDenied := rfl
@[simp] theorem State.setBuf_dram (s : State) (b : Buf) : (s.setBuf b).dram = s.dram := rfl
@[simp] theorem State.setBuf_dramKey (s : State) (b : Buf) : (s.setBuf b).dramKey = s.dramKey := rfl
@[simp] theorem State.setBuf_dramBad (s : State) (b : Buf) : (s.setBuf b).dramBad = s.dramBad := rfl
@[simp] theorem State.setBuf_exts (s : State) (b : Buf) : (s.setBuf b).exts = s.exts := rfl
@[simp] theorem State.setBuf_withdrawn (s : State) (b : Buf) : (s.setBuf b).withdrawn = s.withdrawn := rfl
@[simp] theorem State.setBuf_ctxs (s : State) (b : Buf) : (s.setBuf b).ctxs = s.ctxs := rfl
@[simp] theorem State.setBuf_ops (s : State) (b : Buf) : (s.setBuf b).ops = s.ops := rfl
@[simp] theorem State.setBuf_msgs (s : State) (b : Buf) : (s.setBuf b).msgs = s.msgs := rfl
@[simp] theorem State.setBuf_pushes (s : State) (b : Buf) : (s.setBuf b).pushes = s.pushes := rfl
@[simp] theorem State.setBuf_tasks (s : State) (b : Buf) : (s.setBuf b).tasks = s.tasks := rfl
@[simp] theorem State.setBuf_misses (s : State) (b : Buf) : (s.setBuf b).misses = s.misses := rfl
@[simp] theorem State.setBuf_launches (s : State) (b : Buf) : (s.setBuf b).launches = s.launches := rfl
@[simp] theorem State.setBuf_queues (s : State) (b : Buf) : (s.setBuf b).queues = s.queues := rfl
@[simp] theorem State.setBuf_mbox (s : State) (b : Buf) : (s.setBuf b).mbox = s.mbox := rfl
@[simp] theorem State.setBuf_stage (s : State) (b : Buf) : (s.setBuf b).stage = s.stage := rfl
@[simp] theorem State.setBuf_dieRdy (s : State) (b : Buf) : (s.setBuf b).dieRdy = s.dieRdy := rfl
@[simp] theorem State.setBuf_phRdy (s : State) (b : Buf) : (s.setBuf b).phRdy = s.phRdy := rfl
@[simp] theorem State.setBuf_pkg (s : State) (b : Buf) : (s.setBuf b).pkg = s.pkg := rfl
@[simp] theorem State.setBuf_xyz (s : State) (b : Buf) : (s.setBuf b).xyz = s.xyz := rfl
@[simp] theorem State.setBuf_fabric (s : State) (b : Buf) : (s.setBuf b).fabric = s.fabric := rfl
@[simp] theorem State.setBuf_badLinks (s : State) (b : Buf) : (s.setBuf b).badLinks = s.badLinks := rfl
@[simp] theorem State.setBuf_fw (s : State) (b : Buf) : (s.setBuf b).fw = s.fw := rfl
@[simp] theorem State.setBuf_capclass (s : State) (b : Buf) : (s.setBuf b).capclass = s.capclass := rfl
@[simp] theorem State.setBuf_deadDies (s : State) (b : Buf) : (s.setBuf b).deadDies = s.deadDies := rfl
@[simp] theorem State.setBuf_regErrs (s : State) (b : Buf) : (s.setBuf b).regErrs = s.regErrs := rfl
@[simp] theorem State.setBuf_ports (s : State) (b : Buf) : (s.setBuf b).ports = s.ports := rfl
@[simp] theorem State.setBuf_relay (s : State) (b : Buf) : (s.setBuf b).relay = s.relay := rfl
@[simp] theorem State.setBuf_nvme (s : State) (b : Buf) : (s.setBuf b).nvme = s.nvme := rfl
@[simp] theorem State.setBuf_keys (s : State) (b : Buf) : (s.setBuf b).keys = s.keys := rfl
@[simp] theorem State.setBuf_counters (s : State) (b : Buf) : (s.setBuf b).counters = s.counters := rfl
@[simp] theorem State.setBuf_cntPeriod (s : State) (b : Buf) : (s.setBuf b).cntPeriod = s.cntPeriod := rfl
@[simp] theorem State.setBuf_cntSeq (s : State) (b : Buf) : (s.setBuf b).cntSeq = s.cntSeq := rfl
@[simp] theorem State.setBuf_cntRun (s : State) (b : Buf) : (s.setBuf b).cntRun = s.cntRun := rfl
@[simp] theorem State.setBuf_slipClk (s : State) (b : Buf) : (s.setBuf b).slipClk = s.slipClk := rfl
@[simp] theorem State.setBuf_trace (s : State) (b : Buf) : (s.setBuf b).trace = s.trace := rfl
@[simp] theorem State.setBuf_latent (s : State) (b : Buf) : (s.setBuf b).latent = s.latent := rfl
@[simp] theorem State.setBuf_power (s : State) (b : Buf) : (s.setBuf b).power = s.power := rfl
@[simp] theorem State.setBuf_cap (s : State) (b : Buf) : (s.setBuf b).cap = s.cap := rfl
@[simp] theorem State.setBuf_throt (s : State) (b : Buf) : (s.setBuf b).throt = s.throt := rfl
@[simp] theorem State.setBuf_temps (s : State) (b : Buf) : (s.setBuf b).temps = s.temps := rfl
@[simp] theorem State.setBuf_hold (s : State) (b : Buf) : (s.setBuf b).hold = s.hold := rfl
@[simp] theorem State.setBuf_spdm (s : State) (b : Buf) : (s.setBuf b).spdm = s.spdm := rfl
@[simp] theorem State.setBuf_mctp (s : State) (b : Buf) : (s.setBuf b).mctp = s.mctp := rfl
@[simp] theorem State.setBuf_hostOut (s : State) (b : Buf) : (s.setBuf b).hostOut = s.hostOut := rfl

/-! ### State.setLq -/

@[simp] theorem State.setLq_thr (s : State) (l : LQueue) : (s.setLq l).thr = s.thr := rfl
@[simp] theorem State.setLq_crew (s : State) (l : LQueue) : (s.setLq l).crew = s.crew := rfl
@[simp] theorem State.setLq_mates (s : State) (l : LQueue) : (s.setLq l).mates = s.mates := rfl
@[simp] theorem State.setLq_others (s : State) (l : LQueue) : (s.setLq l).others = s.others := rfl
@[simp] theorem State.setLq_live (s : State) (l : LQueue) : (s.setLq l).live = s.live := rfl
@[simp] theorem State.setLq_clk (s : State) (l : LQueue) : (s.setLq l).clk = s.clk := rfl
@[simp] theorem State.setLq_stepNo (s : State) (l : LQueue) : (s.setLq l).stepNo = s.stepNo := rfl
@[simp] theorem State.setLq_fresh (s : State) (l : LQueue) : (s.setLq l).fresh = s.fresh := rfl
@[simp] theorem State.setLq_draw (s : State) (l : LQueue) : (s.setLq l).draw = s.draw := rfl
@[simp] theorem State.setLq_lag (s : State) (l : LQueue) : (s.setLq l).lag = s.lag := rfl
@[simp] theorem State.setLq_slack (s : State) (l : LQueue) : (s.setLq l).slack = s.slack := rfl
@[simp] theorem State.setLq_inputs (s : State) (l : LQueue) : (s.setLq l).inputs = s.inputs := rfl
@[simp] theorem State.setLq_spad (s : State) (l : LQueue) : (s.setLq l).spad = s.spad := rfl
@[simp] theorem State.setLq_spadTag (s : State) (l : LQueue) : (s.setLq l).spadTag = s.spadTag := rfl
@[simp] theorem State.setLq_bufs (s : State) (l : LQueue) : (s.setLq l).bufs = s.bufs := rfl
@[simp] theorem State.setLq_acc (s : State) (l : LQueue) : (s.setLq l).acc = s.acc := rfl
@[simp] theorem State.setLq_accInt (s : State) (l : LQueue) : (s.setLq l).accInt = s.accInt := rfl
@[simp] theorem State.setLq_sig (s : State) (l : LQueue) : (s.setLq l).sig = s.sig := rfl
@[simp] theorem State.setLq_sigOwn (s : State) (l : LQueue) : (s.setLq l).sigOwn = s.sigOwn := rfl
@[simp] theorem State.setLq_host (s : State) (l : LQueue) : (s.setLq l).host = s.host := rfl
@[simp] theorem State.setLq_hostDenied (s : State) (l : LQueue) : (s.setLq l).hostDenied = s.hostDenied := rfl
@[simp] theorem State.setLq_dram (s : State) (l : LQueue) : (s.setLq l).dram = s.dram := rfl
@[simp] theorem State.setLq_dramKey (s : State) (l : LQueue) : (s.setLq l).dramKey = s.dramKey := rfl
@[simp] theorem State.setLq_dramBad (s : State) (l : LQueue) : (s.setLq l).dramBad = s.dramBad := rfl
@[simp] theorem State.setLq_exts (s : State) (l : LQueue) : (s.setLq l).exts = s.exts := rfl
@[simp] theorem State.setLq_withdrawn (s : State) (l : LQueue) : (s.setLq l).withdrawn = s.withdrawn := rfl
@[simp] theorem State.setLq_ctxs (s : State) (l : LQueue) : (s.setLq l).ctxs = s.ctxs := rfl
@[simp] theorem State.setLq_ops (s : State) (l : LQueue) : (s.setLq l).ops = s.ops := rfl
@[simp] theorem State.setLq_msgs (s : State) (l : LQueue) : (s.setLq l).msgs = s.msgs := rfl
@[simp] theorem State.setLq_pushes (s : State) (l : LQueue) : (s.setLq l).pushes = s.pushes := rfl
@[simp] theorem State.setLq_tasks (s : State) (l : LQueue) : (s.setLq l).tasks = s.tasks := rfl
@[simp] theorem State.setLq_misses (s : State) (l : LQueue) : (s.setLq l).misses = s.misses := rfl
@[simp] theorem State.setLq_launches (s : State) (l : LQueue) : (s.setLq l).launches = s.launches := rfl
@[simp] theorem State.setLq_queues (s : State) (l : LQueue) : (s.setLq l).queues = putQueue l s.queues := rfl
@[simp] theorem State.setLq_mbox (s : State) (l : LQueue) : (s.setLq l).mbox = s.mbox := rfl
@[simp] theorem State.setLq_stage (s : State) (l : LQueue) : (s.setLq l).stage = s.stage := rfl
@[simp] theorem State.setLq_dieRdy (s : State) (l : LQueue) : (s.setLq l).dieRdy = s.dieRdy := rfl
@[simp] theorem State.setLq_phRdy (s : State) (l : LQueue) : (s.setLq l).phRdy = s.phRdy := rfl
@[simp] theorem State.setLq_pkg (s : State) (l : LQueue) : (s.setLq l).pkg = s.pkg := rfl
@[simp] theorem State.setLq_xyz (s : State) (l : LQueue) : (s.setLq l).xyz = s.xyz := rfl
@[simp] theorem State.setLq_fabric (s : State) (l : LQueue) : (s.setLq l).fabric = s.fabric := rfl
@[simp] theorem State.setLq_badLinks (s : State) (l : LQueue) : (s.setLq l).badLinks = s.badLinks := rfl
@[simp] theorem State.setLq_fw (s : State) (l : LQueue) : (s.setLq l).fw = s.fw := rfl
@[simp] theorem State.setLq_capclass (s : State) (l : LQueue) : (s.setLq l).capclass = s.capclass := rfl
@[simp] theorem State.setLq_deadDies (s : State) (l : LQueue) : (s.setLq l).deadDies = s.deadDies := rfl
@[simp] theorem State.setLq_regErrs (s : State) (l : LQueue) : (s.setLq l).regErrs = s.regErrs := rfl
@[simp] theorem State.setLq_ports (s : State) (l : LQueue) : (s.setLq l).ports = s.ports := rfl
@[simp] theorem State.setLq_relay (s : State) (l : LQueue) : (s.setLq l).relay = s.relay := rfl
@[simp] theorem State.setLq_nvme (s : State) (l : LQueue) : (s.setLq l).nvme = s.nvme := rfl
@[simp] theorem State.setLq_keys (s : State) (l : LQueue) : (s.setLq l).keys = s.keys := rfl
@[simp] theorem State.setLq_counters (s : State) (l : LQueue) : (s.setLq l).counters = s.counters := rfl
@[simp] theorem State.setLq_cntPeriod (s : State) (l : LQueue) : (s.setLq l).cntPeriod = s.cntPeriod := rfl
@[simp] theorem State.setLq_cntSeq (s : State) (l : LQueue) : (s.setLq l).cntSeq = s.cntSeq := rfl
@[simp] theorem State.setLq_cntRun (s : State) (l : LQueue) : (s.setLq l).cntRun = s.cntRun := rfl
@[simp] theorem State.setLq_slipClk (s : State) (l : LQueue) : (s.setLq l).slipClk = s.slipClk := rfl
@[simp] theorem State.setLq_trace (s : State) (l : LQueue) : (s.setLq l).trace = s.trace := rfl
@[simp] theorem State.setLq_latent (s : State) (l : LQueue) : (s.setLq l).latent = s.latent := rfl
@[simp] theorem State.setLq_power (s : State) (l : LQueue) : (s.setLq l).power = s.power := rfl
@[simp] theorem State.setLq_cap (s : State) (l : LQueue) : (s.setLq l).cap = s.cap := rfl
@[simp] theorem State.setLq_throt (s : State) (l : LQueue) : (s.setLq l).throt = s.throt := rfl
@[simp] theorem State.setLq_temps (s : State) (l : LQueue) : (s.setLq l).temps = s.temps := rfl
@[simp] theorem State.setLq_hold (s : State) (l : LQueue) : (s.setLq l).hold = s.hold := rfl
@[simp] theorem State.setLq_spdm (s : State) (l : LQueue) : (s.setLq l).spdm = s.spdm := rfl
@[simp] theorem State.setLq_mctp (s : State) (l : LQueue) : (s.setLq l).mctp = s.mctp := rfl
@[simp] theorem State.setLq_hostOut (s : State) (l : LQueue) : (s.setLq l).hostOut = s.hostOut := rfl

/-! ### State.setCounter -/

@[simp] theorem State.setCounter_thr (s : State) (c : Counter) : (s.setCounter c).thr = s.thr := rfl
@[simp] theorem State.setCounter_crew (s : State) (c : Counter) : (s.setCounter c).crew = s.crew := rfl
@[simp] theorem State.setCounter_mates (s : State) (c : Counter) : (s.setCounter c).mates = s.mates := rfl
@[simp] theorem State.setCounter_others (s : State) (c : Counter) : (s.setCounter c).others = s.others := rfl
@[simp] theorem State.setCounter_live (s : State) (c : Counter) : (s.setCounter c).live = s.live := rfl
@[simp] theorem State.setCounter_clk (s : State) (c : Counter) : (s.setCounter c).clk = s.clk := rfl
@[simp] theorem State.setCounter_stepNo (s : State) (c : Counter) : (s.setCounter c).stepNo = s.stepNo := rfl
@[simp] theorem State.setCounter_fresh (s : State) (c : Counter) : (s.setCounter c).fresh = s.fresh := rfl
@[simp] theorem State.setCounter_draw (s : State) (c : Counter) : (s.setCounter c).draw = s.draw := rfl
@[simp] theorem State.setCounter_lag (s : State) (c : Counter) : (s.setCounter c).lag = s.lag := rfl
@[simp] theorem State.setCounter_slack (s : State) (c : Counter) : (s.setCounter c).slack = s.slack := rfl
@[simp] theorem State.setCounter_inputs (s : State) (c : Counter) : (s.setCounter c).inputs = s.inputs := rfl
@[simp] theorem State.setCounter_spad (s : State) (c : Counter) : (s.setCounter c).spad = s.spad := rfl
@[simp] theorem State.setCounter_spadTag (s : State) (c : Counter) : (s.setCounter c).spadTag = s.spadTag := rfl
@[simp] theorem State.setCounter_bufs (s : State) (c : Counter) : (s.setCounter c).bufs = s.bufs := rfl
@[simp] theorem State.setCounter_acc (s : State) (c : Counter) : (s.setCounter c).acc = s.acc := rfl
@[simp] theorem State.setCounter_accInt (s : State) (c : Counter) : (s.setCounter c).accInt = s.accInt := rfl
@[simp] theorem State.setCounter_sig (s : State) (c : Counter) : (s.setCounter c).sig = s.sig := rfl
@[simp] theorem State.setCounter_sigOwn (s : State) (c : Counter) : (s.setCounter c).sigOwn = s.sigOwn := rfl
@[simp] theorem State.setCounter_host (s : State) (c : Counter) : (s.setCounter c).host = s.host := rfl
@[simp] theorem State.setCounter_hostDenied (s : State) (c : Counter) : (s.setCounter c).hostDenied = s.hostDenied := rfl
@[simp] theorem State.setCounter_dram (s : State) (c : Counter) : (s.setCounter c).dram = s.dram := rfl
@[simp] theorem State.setCounter_dramKey (s : State) (c : Counter) : (s.setCounter c).dramKey = s.dramKey := rfl
@[simp] theorem State.setCounter_dramBad (s : State) (c : Counter) : (s.setCounter c).dramBad = s.dramBad := rfl
@[simp] theorem State.setCounter_exts (s : State) (c : Counter) : (s.setCounter c).exts = s.exts := rfl
@[simp] theorem State.setCounter_withdrawn (s : State) (c : Counter) : (s.setCounter c).withdrawn = s.withdrawn := rfl
@[simp] theorem State.setCounter_ctxs (s : State) (c : Counter) : (s.setCounter c).ctxs = s.ctxs := rfl
@[simp] theorem State.setCounter_ops (s : State) (c : Counter) : (s.setCounter c).ops = s.ops := rfl
@[simp] theorem State.setCounter_msgs (s : State) (c : Counter) : (s.setCounter c).msgs = s.msgs := rfl
@[simp] theorem State.setCounter_pushes (s : State) (c : Counter) : (s.setCounter c).pushes = s.pushes := rfl
@[simp] theorem State.setCounter_tasks (s : State) (c : Counter) : (s.setCounter c).tasks = s.tasks := rfl
@[simp] theorem State.setCounter_misses (s : State) (c : Counter) : (s.setCounter c).misses = s.misses := rfl
@[simp] theorem State.setCounter_launches (s : State) (c : Counter) : (s.setCounter c).launches = s.launches := rfl
@[simp] theorem State.setCounter_queues (s : State) (c : Counter) : (s.setCounter c).queues = s.queues := rfl
@[simp] theorem State.setCounter_mbox (s : State) (c : Counter) : (s.setCounter c).mbox = s.mbox := rfl
@[simp] theorem State.setCounter_stage (s : State) (c : Counter) : (s.setCounter c).stage = s.stage := rfl
@[simp] theorem State.setCounter_dieRdy (s : State) (c : Counter) : (s.setCounter c).dieRdy = s.dieRdy := rfl
@[simp] theorem State.setCounter_phRdy (s : State) (c : Counter) : (s.setCounter c).phRdy = s.phRdy := rfl
@[simp] theorem State.setCounter_pkg (s : State) (c : Counter) : (s.setCounter c).pkg = s.pkg := rfl
@[simp] theorem State.setCounter_xyz (s : State) (c : Counter) : (s.setCounter c).xyz = s.xyz := rfl
@[simp] theorem State.setCounter_fabric (s : State) (c : Counter) : (s.setCounter c).fabric = s.fabric := rfl
@[simp] theorem State.setCounter_badLinks (s : State) (c : Counter) : (s.setCounter c).badLinks = s.badLinks := rfl
@[simp] theorem State.setCounter_fw (s : State) (c : Counter) : (s.setCounter c).fw = s.fw := rfl
@[simp] theorem State.setCounter_capclass (s : State) (c : Counter) : (s.setCounter c).capclass = s.capclass := rfl
@[simp] theorem State.setCounter_deadDies (s : State) (c : Counter) : (s.setCounter c).deadDies = s.deadDies := rfl
@[simp] theorem State.setCounter_regErrs (s : State) (c : Counter) : (s.setCounter c).regErrs = s.regErrs := rfl
@[simp] theorem State.setCounter_ports (s : State) (c : Counter) : (s.setCounter c).ports = s.ports := rfl
@[simp] theorem State.setCounter_relay (s : State) (c : Counter) : (s.setCounter c).relay = s.relay := rfl
@[simp] theorem State.setCounter_nvme (s : State) (c : Counter) : (s.setCounter c).nvme = s.nvme := rfl
@[simp] theorem State.setCounter_keys (s : State) (c : Counter) : (s.setCounter c).keys = s.keys := rfl
@[simp] theorem State.setCounter_counters (s : State) (c : Counter) : (s.setCounter c).counters = putCounter c s.counters := rfl
@[simp] theorem State.setCounter_cntPeriod (s : State) (c : Counter) : (s.setCounter c).cntPeriod = s.cntPeriod := rfl
@[simp] theorem State.setCounter_cntSeq (s : State) (c : Counter) : (s.setCounter c).cntSeq = s.cntSeq := rfl
@[simp] theorem State.setCounter_cntRun (s : State) (c : Counter) : (s.setCounter c).cntRun = s.cntRun := rfl
@[simp] theorem State.setCounter_slipClk (s : State) (c : Counter) : (s.setCounter c).slipClk = s.slipClk := rfl
@[simp] theorem State.setCounter_trace (s : State) (c : Counter) : (s.setCounter c).trace = s.trace := rfl
@[simp] theorem State.setCounter_latent (s : State) (c : Counter) : (s.setCounter c).latent = s.latent := rfl
@[simp] theorem State.setCounter_power (s : State) (c : Counter) : (s.setCounter c).power = s.power := rfl
@[simp] theorem State.setCounter_cap (s : State) (c : Counter) : (s.setCounter c).cap = s.cap := rfl
@[simp] theorem State.setCounter_throt (s : State) (c : Counter) : (s.setCounter c).throt = s.throt := rfl
@[simp] theorem State.setCounter_temps (s : State) (c : Counter) : (s.setCounter c).temps = s.temps := rfl
@[simp] theorem State.setCounter_hold (s : State) (c : Counter) : (s.setCounter c).hold = s.hold := rfl
@[simp] theorem State.setCounter_spdm (s : State) (c : Counter) : (s.setCounter c).spdm = s.spdm := rfl
@[simp] theorem State.setCounter_mctp (s : State) (c : Counter) : (s.setCounter c).mctp = s.mctp := rfl
@[simp] theorem State.setCounter_hostOut (s : State) (c : Counter) : (s.setCounter c).hostOut = s.hostOut := rfl

/-! ### State.put -/

@[simp] theorem State.put_thr (s : State) (n : Fin 56) (v : Word) : (s.put (.s n) v).thr = s.thr.set n.val v := rfl
@[simp] theorem State.put_crew (s : State) (o : Opd) (v : Word) : (s.put o v).crew = s.crew := by cases o <;> rfl
@[simp] theorem State.put_mates (s : State) (o : Opd) (v : Word) : (s.put o v).mates = s.mates := by cases o <;> rfl
@[simp] theorem State.put_others (s : State) (o : Opd) (v : Word) : (s.put o v).others = s.others := by cases o <;> rfl
@[simp] theorem State.put_live (s : State) (o : Opd) (v : Word) : (s.put o v).live = s.live := by cases o <;> rfl
@[simp] theorem State.put_clk (s : State) (o : Opd) (v : Word) : (s.put o v).clk = s.clk := by cases o <;> rfl
@[simp] theorem State.put_stepNo (s : State) (o : Opd) (v : Word) : (s.put o v).stepNo = s.stepNo := by cases o <;> rfl
@[simp] theorem State.put_fresh (s : State) (o : Opd) (v : Word) : (s.put o v).fresh = s.fresh := by cases o <;> rfl
@[simp] theorem State.put_draw (s : State) (o : Opd) (v : Word) : (s.put o v).draw = s.draw := by cases o <;> rfl
@[simp] theorem State.put_lag (s : State) (o : Opd) (v : Word) : (s.put o v).lag = s.lag := by cases o <;> rfl
@[simp] theorem State.put_slack (s : State) (o : Opd) (v : Word) : (s.put o v).slack = s.slack := by cases o <;> rfl
@[simp] theorem State.put_inputs (s : State) (o : Opd) (v : Word) : (s.put o v).inputs = s.inputs := by cases o <;> rfl
@[simp] theorem State.put_spad (s : State) (o : Opd) (v : Word) : (s.put o v).spad = s.spad := by cases o <;> rfl
@[simp] theorem State.put_spadTag (s : State) (o : Opd) (v : Word) : (s.put o v).spadTag = s.spadTag := by cases o <;> rfl
@[simp] theorem State.put_bufs (s : State) (o : Opd) (v : Word) : (s.put o v).bufs = s.bufs := by cases o <;> rfl
@[simp] theorem State.put_acc (s : State) (o : Opd) (v : Word) : (s.put o v).acc = s.acc := by cases o <;> rfl
@[simp] theorem State.put_accInt (s : State) (o : Opd) (v : Word) : (s.put o v).accInt = s.accInt := by cases o <;> rfl
@[simp] theorem State.put_sig (s : State) (o : Opd) (v : Word) : (s.put o v).sig = s.sig := by cases o <;> rfl
@[simp] theorem State.put_sigOwn (s : State) (o : Opd) (v : Word) : (s.put o v).sigOwn = s.sigOwn := by cases o <;> rfl
@[simp] theorem State.put_host (s : State) (o : Opd) (v : Word) : (s.put o v).host = s.host := by cases o <;> rfl
@[simp] theorem State.put_hostDenied (s : State) (o : Opd) (v : Word) : (s.put o v).hostDenied = s.hostDenied := by cases o <;> rfl
@[simp] theorem State.put_dram (s : State) (o : Opd) (v : Word) : (s.put o v).dram = s.dram := by cases o <;> rfl
@[simp] theorem State.put_dramKey (s : State) (o : Opd) (v : Word) : (s.put o v).dramKey = s.dramKey := by cases o <;> rfl
@[simp] theorem State.put_dramBad (s : State) (o : Opd) (v : Word) : (s.put o v).dramBad = s.dramBad := by cases o <;> rfl
@[simp] theorem State.put_exts (s : State) (o : Opd) (v : Word) : (s.put o v).exts = s.exts := by cases o <;> rfl
@[simp] theorem State.put_withdrawn (s : State) (o : Opd) (v : Word) : (s.put o v).withdrawn = s.withdrawn := by cases o <;> rfl
@[simp] theorem State.put_ctxs (s : State) (o : Opd) (v : Word) : (s.put o v).ctxs = s.ctxs := by cases o <;> rfl
@[simp] theorem State.put_ops (s : State) (o : Opd) (v : Word) : (s.put o v).ops = s.ops := by cases o <;> rfl
@[simp] theorem State.put_msgs (s : State) (o : Opd) (v : Word) : (s.put o v).msgs = s.msgs := by cases o <;> rfl
@[simp] theorem State.put_pushes (s : State) (o : Opd) (v : Word) : (s.put o v).pushes = s.pushes := by cases o <;> rfl
@[simp] theorem State.put_tasks (s : State) (o : Opd) (v : Word) : (s.put o v).tasks = s.tasks := by cases o <;> rfl
@[simp] theorem State.put_misses (s : State) (o : Opd) (v : Word) : (s.put o v).misses = s.misses := by cases o <;> rfl
@[simp] theorem State.put_launches (s : State) (o : Opd) (v : Word) : (s.put o v).launches = s.launches := by cases o <;> rfl
@[simp] theorem State.put_queues (s : State) (o : Opd) (v : Word) : (s.put o v).queues = s.queues := by cases o <;> rfl
@[simp] theorem State.put_mbox (s : State) (o : Opd) (v : Word) : (s.put o v).mbox = s.mbox := by cases o <;> rfl
@[simp] theorem State.put_stage (s : State) (o : Opd) (v : Word) : (s.put o v).stage = s.stage := by cases o <;> rfl
@[simp] theorem State.put_dieRdy (s : State) (o : Opd) (v : Word) : (s.put o v).dieRdy = s.dieRdy := by cases o <;> rfl
@[simp] theorem State.put_phRdy (s : State) (o : Opd) (v : Word) : (s.put o v).phRdy = s.phRdy := by cases o <;> rfl
@[simp] theorem State.put_pkg (s : State) (o : Opd) (v : Word) : (s.put o v).pkg = s.pkg := by cases o <;> rfl
@[simp] theorem State.put_xyz (s : State) (o : Opd) (v : Word) : (s.put o v).xyz = s.xyz := by cases o <;> rfl
@[simp] theorem State.put_fabric (s : State) (o : Opd) (v : Word) : (s.put o v).fabric = s.fabric := by cases o <;> rfl
@[simp] theorem State.put_badLinks (s : State) (o : Opd) (v : Word) : (s.put o v).badLinks = s.badLinks := by cases o <;> rfl
@[simp] theorem State.put_fw (s : State) (o : Opd) (v : Word) : (s.put o v).fw = s.fw := by cases o <;> rfl
@[simp] theorem State.put_capclass (s : State) (o : Opd) (v : Word) : (s.put o v).capclass = s.capclass := by cases o <;> rfl
@[simp] theorem State.put_deadDies (s : State) (o : Opd) (v : Word) : (s.put o v).deadDies = s.deadDies := by cases o <;> rfl
@[simp] theorem State.put_regErrs (s : State) (o : Opd) (v : Word) : (s.put o v).regErrs = s.regErrs := by cases o <;> rfl
@[simp] theorem State.put_ports (s : State) (o : Opd) (v : Word) : (s.put o v).ports = s.ports := by cases o <;> rfl
@[simp] theorem State.put_relay (s : State) (o : Opd) (v : Word) : (s.put o v).relay = s.relay := by cases o <;> rfl
@[simp] theorem State.put_nvme (s : State) (o : Opd) (v : Word) : (s.put o v).nvme = s.nvme := by cases o <;> rfl
@[simp] theorem State.put_keys (s : State) (o : Opd) (v : Word) : (s.put o v).keys = s.keys := by cases o <;> rfl
@[simp] theorem State.put_counters (s : State) (o : Opd) (v : Word) : (s.put o v).counters = s.counters := by cases o <;> rfl
@[simp] theorem State.put_cntPeriod (s : State) (o : Opd) (v : Word) : (s.put o v).cntPeriod = s.cntPeriod := by cases o <;> rfl
@[simp] theorem State.put_cntSeq (s : State) (o : Opd) (v : Word) : (s.put o v).cntSeq = s.cntSeq := by cases o <;> rfl
@[simp] theorem State.put_cntRun (s : State) (o : Opd) (v : Word) : (s.put o v).cntRun = s.cntRun := by cases o <;> rfl
@[simp] theorem State.put_slipClk (s : State) (o : Opd) (v : Word) : (s.put o v).slipClk = s.slipClk := by cases o <;> rfl
@[simp] theorem State.put_trace (s : State) (o : Opd) (v : Word) : (s.put o v).trace = s.trace := by cases o <;> rfl
@[simp] theorem State.put_latent (s : State) (o : Opd) (v : Word) : (s.put o v).latent = s.latent := by cases o <;> rfl
@[simp] theorem State.put_power (s : State) (o : Opd) (v : Word) : (s.put o v).power = s.power := by cases o <;> rfl
@[simp] theorem State.put_cap (s : State) (o : Opd) (v : Word) : (s.put o v).cap = s.cap := by cases o <;> rfl
@[simp] theorem State.put_throt (s : State) (o : Opd) (v : Word) : (s.put o v).throt = s.throt := by cases o <;> rfl
@[simp] theorem State.put_temps (s : State) (o : Opd) (v : Word) : (s.put o v).temps = s.temps := by cases o <;> rfl
@[simp] theorem State.put_hold (s : State) (o : Opd) (v : Word) : (s.put o v).hold = s.hold := by cases o <;> rfl
@[simp] theorem State.put_spdm (s : State) (o : Opd) (v : Word) : (s.put o v).spdm = s.spdm := by cases o <;> rfl
@[simp] theorem State.put_mctp (s : State) (o : Opd) (v : Word) : (s.put o v).mctp = s.mctp := by cases o <;> rfl
@[simp] theorem State.put_hostOut (s : State) (o : Opd) (v : Word) : (s.put o v).hostOut = s.hostOut := by cases o <;> rfl

/-! ### Thread.next -/

@[simp] theorem Thread.next_idx (t : Thread) : (t.next).idx = t.idx := rfl
@[simp] theorem Thread.next_role (t : Thread) : (t.next).role = t.role := rfl
@[simp] theorem Thread.next_parent (t : Thread) : (t.next).parent = t.parent := rfl
@[simp] theorem Thread.next_pc (t : Thread) : (t.next).pc = t.pc + 4 := rfl
@[simp] theorem Thread.next_regs (t : Thread) : (t.next).regs = t.regs := rfl
@[simp] theorem Thread.next_csr (t : Thread) : (t.next).csr = t.csr := rfl
@[simp] theorem Thread.next_needVl (t : Thread) : (t.next).needVl = t.needVl := rfl
@[simp] theorem Thread.next_fflags (t : Thread) : (t.next).fflags = t.fflags := rfl
@[simp] theorem Thread.next_iflags (t : Thread) : (t.next).iflags = t.iflags := rfl
@[simp] theorem Thread.next_seed (t : Thread) : (t.next).seed = t.seed := rfl
@[simp] theorem Thread.next_scaleLen (t : Thread) : (t.next).scaleLen = t.scaleLen := rfl
@[simp] theorem Thread.next_scaleSz (t : Thread) : (t.next).scaleSz = t.scaleSz := rfl
@[simp] theorem Thread.next_lgBase (t : Thread) : (t.next).lgBase = t.lgBase := rfl
@[simp] theorem Thread.next_lgCnt (t : Thread) : (t.next).lgCnt = t.lgCnt := rfl
@[simp] theorem Thread.next_depth (t : Thread) : (t.next).depth = t.depth := rfl
@[simp] theorem Thread.next_iv (t : Thread) : (t.next).iv = t.iv := rfl
@[simp] theorem Thread.next_pr (t : Thread) : (t.next).pr = t.pr := rfl
@[simp] theorem Thread.next_vq (t : Thread) : (t.next).vq = t.vq := rfl
@[simp] theorem Thread.next_hist (t : Thread) : (t.next).hist = t.hist := rfl
@[simp] theorem Thread.next_unperf (t : Thread) : (t.next).unperf = t.unperf := rfl
@[simp] theorem Thread.next_held (t : Thread) : (t.next).held = t.held := rfl
@[simp] theorem Thread.next_interval (t : Thread) : (t.next).interval = t.interval := rfl
@[simp] theorem Thread.next_need (t : Thread) : (t.next).need = t.need := rfl
@[simp] theorem Thread.next_strips (t : Thread) : (t.next).strips = t.strips := rfl
@[simp] theorem Thread.next_pushes (t : Thread) : (t.next).pushes = t.pushes := rfl
@[simp] theorem Thread.next_vseq (t : Thread) : (t.next).vseq = t.vseq := rfl
@[simp] theorem Thread.next_cmask (t : Thread) : (t.next).cmask = t.cmask := rfl
@[simp] theorem Thread.next_sleep (t : Thread) : (t.next).sleep = t.sleep := rfl
@[simp] theorem Thread.next_cover (t : Thread) : (t.next).cover = t.cover := rfl
@[simp] theorem Thread.next_vsFence (t : Thread) : (t.next).vsFence = t.vsFence := rfl
@[simp] theorem Thread.next_eeWait (t : Thread) : (t.next).eeWait = t.eeWait := rfl
@[simp] theorem Thread.next_tfWait (t : Thread) : (t.next).tfWait = t.tfWait := rfl
@[simp] theorem Thread.next_lockSeq (t : Thread) : (t.next).lockSeq = t.lockSeq := rfl
@[simp] theorem Thread.next_skipBrk (t : Thread) : (t.next).skipBrk = t.skipBrk := rfl
@[simp] theorem Thread.next_life (t : Thread) : (t.next).life = t.life := rfl

/-! ### Thread.record -/

@[simp] theorem Thread.record_idx (t : Thread) (u : Undo) : (t.record u).idx = t.idx := by unfold Thread.record; split <;> rfl
@[simp] theorem Thread.record_role (t : Thread) (u : Undo) : (t.record u).role = t.role := by unfold Thread.record; split <;> rfl
@[simp] theorem Thread.record_parent (t : Thread) (u : Undo) : (t.record u).parent = t.parent := by unfold Thread.record; split <;> rfl
@[simp] theorem Thread.record_pc (t : Thread) (u : Undo) : (t.record u).pc = t.pc := by unfold Thread.record; split <;> rfl
@[simp] theorem Thread.record_regs (t : Thread) (u : Undo) : (t.record u).regs = t.regs := by unfold Thread.record; split <;> rfl
@[simp] theorem Thread.record_csr (t : Thread) (u : Undo) : (t.record u).csr = t.csr := by unfold Thread.record; split <;> rfl
@[simp] theorem Thread.record_needVl (t : Thread) (u : Undo) : (t.record u).needVl = t.needVl := by unfold Thread.record; split <;> rfl
@[simp] theorem Thread.record_fflags (t : Thread) (u : Undo) : (t.record u).fflags = t.fflags := by unfold Thread.record; split <;> rfl
@[simp] theorem Thread.record_iflags (t : Thread) (u : Undo) : (t.record u).iflags = t.iflags := by unfold Thread.record; split <;> rfl
@[simp] theorem Thread.record_seed (t : Thread) (u : Undo) : (t.record u).seed = t.seed := by unfold Thread.record; split <;> rfl
@[simp] theorem Thread.record_scaleLen (t : Thread) (u : Undo) : (t.record u).scaleLen = t.scaleLen := by unfold Thread.record; split <;> rfl
@[simp] theorem Thread.record_scaleSz (t : Thread) (u : Undo) : (t.record u).scaleSz = t.scaleSz := by unfold Thread.record; split <;> rfl
@[simp] theorem Thread.record_lgBase (t : Thread) (u : Undo) : (t.record u).lgBase = t.lgBase := by unfold Thread.record; split <;> rfl
@[simp] theorem Thread.record_lgCnt (t : Thread) (u : Undo) : (t.record u).lgCnt = t.lgCnt := by unfold Thread.record; split <;> rfl
@[simp] theorem Thread.record_depth (t : Thread) (u : Undo) : (t.record u).depth = t.depth := by unfold Thread.record; split <;> rfl
@[simp] theorem Thread.record_iv (t : Thread) (u : Undo) : (t.record u).iv = t.iv := by unfold Thread.record; split <;> rfl
@[simp] theorem Thread.record_pr (t : Thread) (u : Undo) : (t.record u).pr = t.pr := by unfold Thread.record; split <;> rfl
@[simp] theorem Thread.record_vq (t : Thread) (u : Undo) : (t.record u).vq = t.vq := by unfold Thread.record; split <;> rfl
@[simp] theorem Thread.record_unperf (t : Thread) (u : Undo) : (t.record u).unperf = t.unperf := by unfold Thread.record; split <;> rfl
@[simp] theorem Thread.record_held (t : Thread) (u : Undo) : (t.record u).held = t.held := by unfold Thread.record; split <;> rfl
@[simp] theorem Thread.record_interval (t : Thread) (u : Undo) : (t.record u).interval = t.interval := by unfold Thread.record; split <;> rfl
@[simp] theorem Thread.record_need (t : Thread) (u : Undo) : (t.record u).need = t.need := by unfold Thread.record; split <;> rfl
@[simp] theorem Thread.record_strips (t : Thread) (u : Undo) : (t.record u).strips = t.strips := by unfold Thread.record; split <;> rfl
@[simp] theorem Thread.record_pushes (t : Thread) (u : Undo) : (t.record u).pushes = t.pushes := by unfold Thread.record; split <;> rfl
@[simp] theorem Thread.record_vseq (t : Thread) (u : Undo) : (t.record u).vseq = t.vseq := by unfold Thread.record; split <;> rfl
@[simp] theorem Thread.record_cmask (t : Thread) (u : Undo) : (t.record u).cmask = t.cmask := by unfold Thread.record; split <;> rfl
@[simp] theorem Thread.record_sleep (t : Thread) (u : Undo) : (t.record u).sleep = t.sleep := by unfold Thread.record; split <;> rfl
@[simp] theorem Thread.record_cover (t : Thread) (u : Undo) : (t.record u).cover = t.cover := by unfold Thread.record; split <;> rfl
@[simp] theorem Thread.record_vsFence (t : Thread) (u : Undo) : (t.record u).vsFence = t.vsFence := by unfold Thread.record; split <;> rfl
@[simp] theorem Thread.record_eeWait (t : Thread) (u : Undo) : (t.record u).eeWait = t.eeWait := by unfold Thread.record; split <;> rfl
@[simp] theorem Thread.record_tfWait (t : Thread) (u : Undo) : (t.record u).tfWait = t.tfWait := by unfold Thread.record; split <;> rfl
@[simp] theorem Thread.record_lockSeq (t : Thread) (u : Undo) : (t.record u).lockSeq = t.lockSeq := by unfold Thread.record; split <;> rfl
@[simp] theorem Thread.record_skipBrk (t : Thread) (u : Undo) : (t.record u).skipBrk = t.skipBrk := by unfold Thread.record; split <;> rfl
@[simp] theorem Thread.record_life (t : Thread) (u : Undo) : (t.record u).life = t.life := by unfold Thread.record; split <;> rfl

/-! ### Thread.set -/

@[simp] theorem Thread.set_idx (t : Thread) (n : Nat) (v : Word) : (t.set n v).idx = t.idx := by unfold Thread.set; split <;> simp
@[simp] theorem Thread.set_role (t : Thread) (n : Nat) (v : Word) : (t.set n v).role = t.role := by unfold Thread.set; split <;> simp
@[simp] theorem Thread.set_parent (t : Thread) (n : Nat) (v : Word) : (t.set n v).parent = t.parent := by unfold Thread.set; split <;> simp
@[simp] theorem Thread.set_pc (t : Thread) (n : Nat) (v : Word) : (t.set n v).pc = t.pc := by unfold Thread.set; split <;> simp
@[simp] theorem Thread.set_csr (t : Thread) (n : Nat) (v : Word) : (t.set n v).csr = t.csr := by unfold Thread.set; split <;> simp
@[simp] theorem Thread.set_needVl (t : Thread) (n : Nat) (v : Word) : (t.set n v).needVl = t.needVl := by unfold Thread.set; split <;> simp
@[simp] theorem Thread.set_fflags (t : Thread) (n : Nat) (v : Word) : (t.set n v).fflags = t.fflags := by unfold Thread.set; split <;> simp
@[simp] theorem Thread.set_iflags (t : Thread) (n : Nat) (v : Word) : (t.set n v).iflags = t.iflags := by unfold Thread.set; split <;> simp
@[simp] theorem Thread.set_seed (t : Thread) (n : Nat) (v : Word) : (t.set n v).seed = t.seed := by unfold Thread.set; split <;> simp
@[simp] theorem Thread.set_scaleLen (t : Thread) (n : Nat) (v : Word) : (t.set n v).scaleLen = t.scaleLen := by unfold Thread.set; split <;> simp
@[simp] theorem Thread.set_scaleSz (t : Thread) (n : Nat) (v : Word) : (t.set n v).scaleSz = t.scaleSz := by unfold Thread.set; split <;> simp
@[simp] theorem Thread.set_lgBase (t : Thread) (n : Nat) (v : Word) : (t.set n v).lgBase = t.lgBase := by unfold Thread.set; split <;> simp
@[simp] theorem Thread.set_lgCnt (t : Thread) (n : Nat) (v : Word) : (t.set n v).lgCnt = t.lgCnt := by unfold Thread.set; split <;> simp
@[simp] theorem Thread.set_depth (t : Thread) (n : Nat) (v : Word) : (t.set n v).depth = t.depth := by unfold Thread.set; split <;> simp
@[simp] theorem Thread.set_iv (t : Thread) (n : Nat) (v : Word) : (t.set n v).iv = t.iv := by unfold Thread.set; split <;> simp
@[simp] theorem Thread.set_pr (t : Thread) (n : Nat) (v : Word) : (t.set n v).pr = t.pr := by unfold Thread.set; split <;> simp
@[simp] theorem Thread.set_vq (t : Thread) (n : Nat) (v : Word) : (t.set n v).vq = t.vq := by unfold Thread.set; split <;> simp
@[simp] theorem Thread.set_unperf (t : Thread) (n : Nat) (v : Word) : (t.set n v).unperf = t.unperf := by unfold Thread.set; split <;> simp
@[simp] theorem Thread.set_held (t : Thread) (n : Nat) (v : Word) : (t.set n v).held = t.held := by unfold Thread.set; split <;> simp
@[simp] theorem Thread.set_interval (t : Thread) (n : Nat) (v : Word) : (t.set n v).interval = t.interval := by unfold Thread.set; split <;> simp
@[simp] theorem Thread.set_need (t : Thread) (n : Nat) (v : Word) : (t.set n v).need = t.need := by unfold Thread.set; split <;> simp
@[simp] theorem Thread.set_strips (t : Thread) (n : Nat) (v : Word) : (t.set n v).strips = t.strips := by unfold Thread.set; split <;> simp
@[simp] theorem Thread.set_pushes (t : Thread) (n : Nat) (v : Word) : (t.set n v).pushes = t.pushes := by unfold Thread.set; split <;> simp
@[simp] theorem Thread.set_vseq (t : Thread) (n : Nat) (v : Word) : (t.set n v).vseq = t.vseq := by unfold Thread.set; split <;> simp
@[simp] theorem Thread.set_cmask (t : Thread) (n : Nat) (v : Word) : (t.set n v).cmask = t.cmask := by unfold Thread.set; split <;> simp
@[simp] theorem Thread.set_sleep (t : Thread) (n : Nat) (v : Word) : (t.set n v).sleep = t.sleep := by unfold Thread.set; split <;> simp
@[simp] theorem Thread.set_cover (t : Thread) (n : Nat) (v : Word) : (t.set n v).cover = t.cover := by unfold Thread.set; split <;> simp
@[simp] theorem Thread.set_vsFence (t : Thread) (n : Nat) (v : Word) : (t.set n v).vsFence = t.vsFence := by unfold Thread.set; split <;> simp
@[simp] theorem Thread.set_eeWait (t : Thread) (n : Nat) (v : Word) : (t.set n v).eeWait = t.eeWait := by unfold Thread.set; split <;> simp
@[simp] theorem Thread.set_tfWait (t : Thread) (n : Nat) (v : Word) : (t.set n v).tfWait = t.tfWait := by unfold Thread.set; split <;> simp
@[simp] theorem Thread.set_lockSeq (t : Thread) (n : Nat) (v : Word) : (t.set n v).lockSeq = t.lockSeq := by unfold Thread.set; split <;> simp
@[simp] theorem Thread.set_skipBrk (t : Thread) (n : Nat) (v : Word) : (t.set n v).skipBrk = t.skipBrk := by unfold Thread.set; split <;> simp
@[simp] theorem Thread.set_life (t : Thread) (n : Nat) (v : Word) : (t.set n v).life = t.life := by unfold Thread.set; split <;> simp

/-! ### Thread.mergeF -/

@[simp] theorem Thread.mergeF_idx (t : Thread) (f : FF) : (t.mergeF f).idx = t.idx := rfl
@[simp] theorem Thread.mergeF_role (t : Thread) (f : FF) : (t.mergeF f).role = t.role := rfl
@[simp] theorem Thread.mergeF_parent (t : Thread) (f : FF) : (t.mergeF f).parent = t.parent := rfl
@[simp] theorem Thread.mergeF_pc (t : Thread) (f : FF) : (t.mergeF f).pc = t.pc := rfl
@[simp] theorem Thread.mergeF_regs (t : Thread) (f : FF) : (t.mergeF f).regs = t.regs := rfl
@[simp] theorem Thread.mergeF_csr (t : Thread) (f : FF) : (t.mergeF f).csr = t.csr := rfl
@[simp] theorem Thread.mergeF_needVl (t : Thread) (f : FF) : (t.mergeF f).needVl = t.needVl := rfl
@[simp] theorem Thread.mergeF_fflags (t : Thread) (f : FF) : (t.mergeF f).fflags = t.fflags ||| f := rfl
@[simp] theorem Thread.mergeF_iflags (t : Thread) (f : FF) : (t.mergeF f).iflags = t.iflags := rfl
@[simp] theorem Thread.mergeF_seed (t : Thread) (f : FF) : (t.mergeF f).seed = t.seed := rfl
@[simp] theorem Thread.mergeF_scaleLen (t : Thread) (f : FF) : (t.mergeF f).scaleLen = t.scaleLen := rfl
@[simp] theorem Thread.mergeF_scaleSz (t : Thread) (f : FF) : (t.mergeF f).scaleSz = t.scaleSz := rfl
@[simp] theorem Thread.mergeF_lgBase (t : Thread) (f : FF) : (t.mergeF f).lgBase = t.lgBase := rfl
@[simp] theorem Thread.mergeF_lgCnt (t : Thread) (f : FF) : (t.mergeF f).lgCnt = t.lgCnt := rfl
@[simp] theorem Thread.mergeF_depth (t : Thread) (f : FF) : (t.mergeF f).depth = t.depth := rfl
@[simp] theorem Thread.mergeF_iv (t : Thread) (f : FF) : (t.mergeF f).iv = t.iv := rfl
@[simp] theorem Thread.mergeF_pr (t : Thread) (f : FF) : (t.mergeF f).pr = t.pr := rfl
@[simp] theorem Thread.mergeF_vq (t : Thread) (f : FF) : (t.mergeF f).vq = t.vq := rfl
@[simp] theorem Thread.mergeF_unperf (t : Thread) (f : FF) : (t.mergeF f).unperf = t.unperf := rfl
@[simp] theorem Thread.mergeF_held (t : Thread) (f : FF) : (t.mergeF f).held = t.held := rfl
@[simp] theorem Thread.mergeF_interval (t : Thread) (f : FF) : (t.mergeF f).interval = t.interval := rfl
@[simp] theorem Thread.mergeF_need (t : Thread) (f : FF) : (t.mergeF f).need = t.need := rfl
@[simp] theorem Thread.mergeF_strips (t : Thread) (f : FF) : (t.mergeF f).strips = t.strips := rfl
@[simp] theorem Thread.mergeF_pushes (t : Thread) (f : FF) : (t.mergeF f).pushes = t.pushes := rfl
@[simp] theorem Thread.mergeF_vseq (t : Thread) (f : FF) : (t.mergeF f).vseq = t.vseq := rfl
@[simp] theorem Thread.mergeF_cmask (t : Thread) (f : FF) : (t.mergeF f).cmask = t.cmask := rfl
@[simp] theorem Thread.mergeF_sleep (t : Thread) (f : FF) : (t.mergeF f).sleep = t.sleep := rfl
@[simp] theorem Thread.mergeF_cover (t : Thread) (f : FF) : (t.mergeF f).cover = t.cover := rfl
@[simp] theorem Thread.mergeF_vsFence (t : Thread) (f : FF) : (t.mergeF f).vsFence = t.vsFence := rfl
@[simp] theorem Thread.mergeF_eeWait (t : Thread) (f : FF) : (t.mergeF f).eeWait = t.eeWait := rfl
@[simp] theorem Thread.mergeF_tfWait (t : Thread) (f : FF) : (t.mergeF f).tfWait = t.tfWait := rfl
@[simp] theorem Thread.mergeF_lockSeq (t : Thread) (f : FF) : (t.mergeF f).lockSeq = t.lockSeq := rfl
@[simp] theorem Thread.mergeF_skipBrk (t : Thread) (f : FF) : (t.mergeF f).skipBrk = t.skipBrk := rfl
@[simp] theorem Thread.mergeF_life (t : Thread) (f : FF) : (t.mergeF f).life = t.life := rfl

/-! ### Thread.mergeI -/

@[simp] theorem Thread.mergeI_idx (t : Thread) (f : BitVec 3) : (t.mergeI f).idx = t.idx := rfl
@[simp] theorem Thread.mergeI_role (t : Thread) (f : BitVec 3) : (t.mergeI f).role = t.role := rfl
@[simp] theorem Thread.mergeI_parent (t : Thread) (f : BitVec 3) : (t.mergeI f).parent = t.parent := rfl
@[simp] theorem Thread.mergeI_pc (t : Thread) (f : BitVec 3) : (t.mergeI f).pc = t.pc := rfl
@[simp] theorem Thread.mergeI_regs (t : Thread) (f : BitVec 3) : (t.mergeI f).regs = t.regs := rfl
@[simp] theorem Thread.mergeI_csr (t : Thread) (f : BitVec 3) : (t.mergeI f).csr = t.csr := rfl
@[simp] theorem Thread.mergeI_needVl (t : Thread) (f : BitVec 3) : (t.mergeI f).needVl = t.needVl := rfl
@[simp] theorem Thread.mergeI_fflags (t : Thread) (f : BitVec 3) : (t.mergeI f).fflags = t.fflags := rfl
@[simp] theorem Thread.mergeI_iflags (t : Thread) (f : BitVec 3) : (t.mergeI f).iflags = t.iflags ||| f := rfl
@[simp] theorem Thread.mergeI_seed (t : Thread) (f : BitVec 3) : (t.mergeI f).seed = t.seed := rfl
@[simp] theorem Thread.mergeI_scaleLen (t : Thread) (f : BitVec 3) : (t.mergeI f).scaleLen = t.scaleLen := rfl
@[simp] theorem Thread.mergeI_scaleSz (t : Thread) (f : BitVec 3) : (t.mergeI f).scaleSz = t.scaleSz := rfl
@[simp] theorem Thread.mergeI_lgBase (t : Thread) (f : BitVec 3) : (t.mergeI f).lgBase = t.lgBase := rfl
@[simp] theorem Thread.mergeI_lgCnt (t : Thread) (f : BitVec 3) : (t.mergeI f).lgCnt = t.lgCnt := rfl
@[simp] theorem Thread.mergeI_depth (t : Thread) (f : BitVec 3) : (t.mergeI f).depth = t.depth := rfl
@[simp] theorem Thread.mergeI_iv (t : Thread) (f : BitVec 3) : (t.mergeI f).iv = t.iv := rfl
@[simp] theorem Thread.mergeI_pr (t : Thread) (f : BitVec 3) : (t.mergeI f).pr = t.pr := rfl
@[simp] theorem Thread.mergeI_vq (t : Thread) (f : BitVec 3) : (t.mergeI f).vq = t.vq := rfl
@[simp] theorem Thread.mergeI_unperf (t : Thread) (f : BitVec 3) : (t.mergeI f).unperf = t.unperf := rfl
@[simp] theorem Thread.mergeI_held (t : Thread) (f : BitVec 3) : (t.mergeI f).held = t.held := rfl
@[simp] theorem Thread.mergeI_interval (t : Thread) (f : BitVec 3) : (t.mergeI f).interval = t.interval := rfl
@[simp] theorem Thread.mergeI_need (t : Thread) (f : BitVec 3) : (t.mergeI f).need = t.need := rfl
@[simp] theorem Thread.mergeI_strips (t : Thread) (f : BitVec 3) : (t.mergeI f).strips = t.strips := rfl
@[simp] theorem Thread.mergeI_pushes (t : Thread) (f : BitVec 3) : (t.mergeI f).pushes = t.pushes := rfl
@[simp] theorem Thread.mergeI_vseq (t : Thread) (f : BitVec 3) : (t.mergeI f).vseq = t.vseq := rfl
@[simp] theorem Thread.mergeI_cmask (t : Thread) (f : BitVec 3) : (t.mergeI f).cmask = t.cmask := rfl
@[simp] theorem Thread.mergeI_sleep (t : Thread) (f : BitVec 3) : (t.mergeI f).sleep = t.sleep := rfl
@[simp] theorem Thread.mergeI_cover (t : Thread) (f : BitVec 3) : (t.mergeI f).cover = t.cover := rfl
@[simp] theorem Thread.mergeI_vsFence (t : Thread) (f : BitVec 3) : (t.mergeI f).vsFence = t.vsFence := rfl
@[simp] theorem Thread.mergeI_eeWait (t : Thread) (f : BitVec 3) : (t.mergeI f).eeWait = t.eeWait := rfl
@[simp] theorem Thread.mergeI_tfWait (t : Thread) (f : BitVec 3) : (t.mergeI f).tfWait = t.tfWait := rfl
@[simp] theorem Thread.mergeI_lockSeq (t : Thread) (f : BitVec 3) : (t.mergeI f).lockSeq = t.lockSeq := rfl
@[simp] theorem Thread.mergeI_skipBrk (t : Thread) (f : BitVec 3) : (t.mergeI f).skipBrk = t.skipBrk := rfl
@[simp] theorem Thread.mergeI_life (t : Thread) (f : BitVec 3) : (t.mergeI f).life = t.life := rfl

/-! ### Thread.commitFlags -/

@[simp] theorem Thread.commitFlags_idx (t : Thread) (f : FF) (i : BitVec 3) : (t.commitFlags f i).idx = t.idx := rfl
@[simp] theorem Thread.commitFlags_role (t : Thread) (f : FF) (i : BitVec 3) : (t.commitFlags f i).role = t.role := rfl
@[simp] theorem Thread.commitFlags_parent (t : Thread) (f : FF) (i : BitVec 3) : (t.commitFlags f i).parent = t.parent := rfl
@[simp] theorem Thread.commitFlags_pc (t : Thread) (f : FF) (i : BitVec 3) : (t.commitFlags f i).pc = t.pc := rfl
@[simp] theorem Thread.commitFlags_regs (t : Thread) (f : FF) (i : BitVec 3) : (t.commitFlags f i).regs = t.regs := rfl
@[simp] theorem Thread.commitFlags_csr (t : Thread) (f : FF) (i : BitVec 3) : (t.commitFlags f i).csr = t.csr := rfl
@[simp] theorem Thread.commitFlags_needVl (t : Thread) (f : FF) (i : BitVec 3) : (t.commitFlags f i).needVl = t.needVl := rfl
@[simp] theorem Thread.commitFlags_fflags (t : Thread) (f : FF) (i : BitVec 3) : (t.commitFlags f i).fflags = t.fflags ||| f := rfl
@[simp] theorem Thread.commitFlags_iflags (t : Thread) (f : FF) (i : BitVec 3) : (t.commitFlags f i).iflags = t.iflags ||| i := rfl
@[simp] theorem Thread.commitFlags_seed (t : Thread) (f : FF) (i : BitVec 3) : (t.commitFlags f i).seed = t.seed := rfl
@[simp] theorem Thread.commitFlags_scaleLen (t : Thread) (f : FF) (i : BitVec 3) : (t.commitFlags f i).scaleLen = t.scaleLen := rfl
@[simp] theorem Thread.commitFlags_scaleSz (t : Thread) (f : FF) (i : BitVec 3) : (t.commitFlags f i).scaleSz = t.scaleSz := rfl
@[simp] theorem Thread.commitFlags_lgBase (t : Thread) (f : FF) (i : BitVec 3) : (t.commitFlags f i).lgBase = t.lgBase := rfl
@[simp] theorem Thread.commitFlags_lgCnt (t : Thread) (f : FF) (i : BitVec 3) : (t.commitFlags f i).lgCnt = t.lgCnt := rfl
@[simp] theorem Thread.commitFlags_depth (t : Thread) (f : FF) (i : BitVec 3) : (t.commitFlags f i).depth = t.depth := rfl
@[simp] theorem Thread.commitFlags_iv (t : Thread) (f : FF) (i : BitVec 3) : (t.commitFlags f i).iv = t.iv := rfl
@[simp] theorem Thread.commitFlags_pr (t : Thread) (f : FF) (i : BitVec 3) : (t.commitFlags f i).pr = t.pr := rfl
@[simp] theorem Thread.commitFlags_vq (t : Thread) (f : FF) (i : BitVec 3) : (t.commitFlags f i).vq = t.vq := rfl
@[simp] theorem Thread.commitFlags_unperf (t : Thread) (f : FF) (i : BitVec 3) : (t.commitFlags f i).unperf = t.unperf := rfl
@[simp] theorem Thread.commitFlags_held (t : Thread) (f : FF) (i : BitVec 3) : (t.commitFlags f i).held = t.held := rfl
@[simp] theorem Thread.commitFlags_interval (t : Thread) (f : FF) (i : BitVec 3) : (t.commitFlags f i).interval = t.interval := rfl
@[simp] theorem Thread.commitFlags_need (t : Thread) (f : FF) (i : BitVec 3) : (t.commitFlags f i).need = t.need := rfl
@[simp] theorem Thread.commitFlags_strips (t : Thread) (f : FF) (i : BitVec 3) : (t.commitFlags f i).strips = t.strips := rfl
@[simp] theorem Thread.commitFlags_pushes (t : Thread) (f : FF) (i : BitVec 3) : (t.commitFlags f i).pushes = t.pushes := rfl
@[simp] theorem Thread.commitFlags_vseq (t : Thread) (f : FF) (i : BitVec 3) : (t.commitFlags f i).vseq = t.vseq := rfl
@[simp] theorem Thread.commitFlags_cmask (t : Thread) (f : FF) (i : BitVec 3) : (t.commitFlags f i).cmask = t.cmask := rfl
@[simp] theorem Thread.commitFlags_sleep (t : Thread) (f : FF) (i : BitVec 3) : (t.commitFlags f i).sleep = t.sleep := rfl
@[simp] theorem Thread.commitFlags_cover (t : Thread) (f : FF) (i : BitVec 3) : (t.commitFlags f i).cover = t.cover := rfl
@[simp] theorem Thread.commitFlags_vsFence (t : Thread) (f : FF) (i : BitVec 3) : (t.commitFlags f i).vsFence = t.vsFence := rfl
@[simp] theorem Thread.commitFlags_eeWait (t : Thread) (f : FF) (i : BitVec 3) : (t.commitFlags f i).eeWait = t.eeWait := rfl
@[simp] theorem Thread.commitFlags_tfWait (t : Thread) (f : FF) (i : BitVec 3) : (t.commitFlags f i).tfWait = t.tfWait := rfl
@[simp] theorem Thread.commitFlags_lockSeq (t : Thread) (f : FF) (i : BitVec 3) : (t.commitFlags f i).lockSeq = t.lockSeq := rfl
@[simp] theorem Thread.commitFlags_skipBrk (t : Thread) (f : FF) (i : BitVec 3) : (t.commitFlags f i).skipBrk = t.skipBrk := rfl
@[simp] theorem Thread.commitFlags_life (t : Thread) (f : FF) (i : BitVec 3) : (t.commitFlags f i).life = t.life := rfl

/-- With no vector instruction uncommitted nothing is recorded. -/
theorem Thread.record_nil (t : Thread) (u : Undo) (h : t.vq = []) : t.record u = t := by
  simp [Thread.record, h]

theorem Thread.set_zero (t : Thread) (v : Word) : t.set 0 v = t := by simp [Thread.set]

theorem Thread.get_zero (t : Thread) : t.get 0 = 0 := by simp [Thread.get]

@[simp] theorem Thread.next_get (t : Thread) (n : Nat) : t.next.get n = t.get n := rfl

end Sys2Proof.Machine
end

