-- ==== Sys2Proof/Laws/Ops.lean ====
section
/-! SUPPORT. What each shared operation can do, said once: the computations that may stop, the register accessors, the
ways a meaning ends, and the contexts. -/

namespace Sys2Proof.Machine

/-! ## Computations that may stop -/

/-- A sequence answers exactly where both its parts do. -/
theorem R.bind_ok {α β : Type} (x : R α) (f : α → R β) (b : β) :
    (x >>= f) = .ok b ↔ ∃ a, x = .ok a ∧ f a = .ok b := by
  cases x <;> simp [bind, Except.bind]

/-- A sequence stops where its first part does, or its second after it. -/
theorem R.bind_error {α β : Type} (x : R α) (f : α → R β) (e : Stop) :
    (x >>= f) = .error e ↔ x = .error e ∨ ∃ a, x = .ok a ∧ f a = .error e := by
  cases x <;> simp [bind, Except.bind]

@[simp] theorem need_true (c : Code) : need true c = .ok () := rfl
@[simp] theorem need_false (c : Code) : need false c = flt c := rfl
@[simp] theorem needObj_true (c : Code) (o : Word) : needObj true c o = .ok () := rfl
@[simp] theorem needObj_false (c : Code) (o : Word) : needObj false c o = .error (.trap { code := c, obj := o }) := rfl
@[simp] theorem await_true (w : Why) : await true w = .ok () := rfl
@[simp] theorem await_false (w : Why) : await false w = stall w := rfl

/-! ## How a meaning ends -/

@[simp] theorem finish_ok (s t : State) : finish s (.ok t) = .next t := rfl
@[simp] theorem finish_stall (s : State) (w : Why) : finish s (stall w) = .next ((s.missed w).mark w) := rfl

/-- Only the wait for a queue's segment is a queue miss. -/
theorem State.missed_of (s : State) (w : Why) (h : ∀ i, w ≠ .queueMiss i) : s.missed w = s := by
  cases w <;> first | rfl | exact absurd rfl (h _)

@[simp] theorem finish_flt (s : State) (c : Code) : finish s (flt c) = .next (s.raise { code := c }) := rfl
@[simp] theorem finish_trap (s : State) (t : Trap) : finish s (.error (.trap t)) = .next (s.raise t) := rfl
@[simp] theorem finish_fltAt (s : State) (c : Code) (a o : Word) :
    finish s (fltAt c a o) = .next (s.raise { code := c, addr := a, obj := o }) := rfl
@[simp] theorem finish_halt (s : State) (c n : Nat) : finish s (.error (.halt c n)) = .next (s.stopContext c n) := rfl
@[simp] theorem finish_watch (s : State) (e : Option Nat) :
    finish s (.error (.watch e)) = .next (s.whenDue fun s' => s'.stopWatch e) := rfl

/-- No meaning that ends so stops the machine. -/
theorem finish_next (s : State) (r : R State) : ∃ t, finish s r = .next t := by
  rcases r with (t | w | c | e) | t <;> exact ⟨_, rfl⟩

/-- R63: where a stop found at issue waits, and where it is taken. -/
theorem State.whenDue_queue (s : State) (f : State → State) (h : s.thr.vq ≠ []) : s.whenDue f = s.mark .vectorQueue := by
  simp [State.whenDue, h]

theorem State.whenDue_held (s : State) (f : State → State) (h : s.thr.vq = []) (h2 : s.thr.held ≠ none) :
    s.whenDue f = s.mark .performed := by
  simp [State.whenDue, h, Option.isSome_iff_ne_none.2 h2]

theorem State.whenDue_spec (s : State) (f : State → State) (h : s.thr.vq = []) (h2 : s.thr.held = none)
    (h3 : s.crew.speculating = true) : s.whenDue f = s.mark .oldest := by
  simp [State.whenDue, h, h2, h3]

theorem State.whenDue_now (s : State) (f : State → State) (h : s.thr.vq = []) (h2 : s.thr.held = none)
    (h3 : s.crew.speculating = false) : s.whenDue f = f s := by
  simp [State.whenDue, h, h2, h3]

/-! ## Scalar registers -/

open Sys2Proof.Spec

theorem State.rd_of (s : State) (o : Opd) (h : Readable s o) : s.rd o = .ok (val s o) := by
  obtain ⟨n, rfl, h⟩ := h
  simp only [State.rd, val, opdNum, Thread.get]
  by_cases h0 : n.val = 0
  · simp [h0]
  · rcases h with h | h
    · exact absurd h h0
    · simp [h0, h]

theorem State.wrOk_of (s : State) (o : Opd) (h : Writable s o) : s.wrOk o = .ok () := by
  obtain ⟨⟨n, rfl, h⟩, hr⟩ := h
  simp only [State.wrOk]
  by_cases h0 : n.val = 0
  · simp [h0]
  · rcases h with h | h
    · exact absurd h h0
    · simp [h0, h, hr]

theorem State.wr_of (s : State) (o : Opd) (v : Word) (h : Writable s o) : s.wr o v = .ok (s.put o v) := by
  simp [State.wr, State.wrOk_of s o h, bind, Except.bind]

/-- A register that can be read stays so when another instruction's result is written. -/
theorem Readable.put {s : State} {o p : Opd} {v : Word} (h : Readable s o) : Readable (s.put p v) o := by
  obtain ⟨n, rfl, h⟩ := h
  refine ⟨n, rfl, ?_⟩
  cases p <;> simp_all [State.put, State.pending, Thread.phys]

theorem State.setCsr_of (s : State) (c : Csrs) (h : s.thr.histRoom = true) :
    s.setCsr c = .ok { s with thr := { s.thr.record (.csr s.thr.csr) with csr := c } } := by
  simp [State.setCsr, h, bind, Except.bind]

/-- With no vector instruction uncommitted every scalar write may be made. -/
theorem Thread.histRoom_nil (t : Thread) (h : t.vq = []) : t.histRoom = true := by
  simp [Thread.histRoom, Thread.histSpace, h]

/-! ## Contexts -/

theorem ctx_find_map (l : List Ctx) (n m : BitVec 16) (f : Ctx → Ctx) (hf : ∀ c, (f c).ctx = c.ctx) :
    (l.map fun c => if c.ctx = n then f c else c).find? (fun c => c.ctx == m) =
      (l.find? fun c => c.ctx == m).map fun c => if c.ctx = n then f c else c := by
  induction l with
  | nil => rfl
  | cons c r ih =>
    have e : (if c.ctx = n then f c else c).ctx = c.ctx := by split <;> simp [hf]
    simp only [List.map_cons, List.find?_cons, e]
    split
    · rfl
    · exact ih

/-- A change of one context changes that context and no other. -/
theorem State.ctxOf_modCtx (s : State) (n m : BitVec 16) (f : Ctx → Ctx) (hf : ∀ c, (f c).ctx = c.ctx) :
    (s.modCtx n f).ctxOf m = (s.ctxOf m).map fun c => if c.ctx = n then f c else c :=
  ctx_find_map s.ctxs n m f hf

theorem State.ctxOf_ctx (s : State) (m : BitVec 16) (c : Ctx) (h : s.ctxOf m = some c) : c.ctx = m := by
  have := List.find?_some h
  simpa using this

/-- The entry of a keyed list after an update. -/
theorem kvGet_kvSet {α : Type} (l : List (Nat × α)) (k j : Nat) (v : α) :
    kvGet (kvSet l k v) j = if j = k then some v else kvGet l j := by
  induction l with
  | nil =>
    by_cases e : j = k
    · subst e; simp [kvSet, kvGet]
    · simp [kvSet, kvGet, e, Ne.symm e]
  | cons p r ih =>
    obtain ⟨a, w⟩ := p
    simp only [kvGet] at *
    simp only [kvSet]
    by_cases e : a = k
    · subst e
      by_cases e2 : j = a
      · subst e2; simp
      · simp [e2, Ne.symm e2]
    · rw [if_neg e]
      by_cases e2 : a = j
      · subst e2; simp [e]
      · simp [e2, ih]

end Sys2Proof.Machine
end

