-- ==== Sys2Proof/Tests/Slice0.lean ====
section
/-! SUPPORT. Tests: ill-formed terms that WellFormed refuses, words written out from the encodings of the specification,
single steps, and for every statement a state and operands that meet its hypotheses. -/

namespace Sys2Proof.Tests

set_option Elab.async false

open Sys2Proof.Machine Sys2Proof.Spec

/-! ## Ill-formed terms -/

theorem test_wf_scalar : (Instr.add (.v 1) (.s 2) (.s 3)).wf = false := by decide
theorem test_wf_nonzero : (Instr.ropenAcq (.s 0) (.s 2)).wf = false := by decide
theorem test_wf_vector : (Instr.cbload (.ring 1)).wf = false := by decide
theorem test_wf_vector_or_ring : (Instr.vabs (.s 4) (.v 1) false .f32).wf = false := by decide
theorem test_wf_even : (Instr.viadd (.v 3) (.v 4) (.v 6) false).wf = false := by decide
theorem test_wf_interval : (Instr.iadd (.s 32) (.s 1) (.s 2)).wf = false := by decide
theorem test_wf_interval_or_pair : (Instr.vcadd (.v 2) (.v 4) (.v 7) false).wf = false := by decide
theorem test_wf_predicate : (Instr.icmpLt (.s 8) (.s 1) (.s 2)).wf = false := by decide
theorem test_wf_block : (Instr.rsplice (.s 1) (.s 2) (.s 55)).wf = false := by decide
theorem test_wf_block_out : (Instr.rinfo (.s 53) (.s 2)).wf = false := by decide
theorem test_wf_float_only : (Instr.vsqrt (.v 1) (.v 2) false .i32).wf = false := by decide
theorem test_wf_integer_only : (Instr.vredAnd (.s 1) (.v 2) false .f32).wf = false := by decide
theorem test_wf_unsigned_float : (Instr.vcvt (.v 1) (.v 2) true (.el .f32) false .f32).wf = false := by decide
theorem test_wf_branch_register : (Instr.beq 56 (.s 1) 0).wf = false := by decide
theorem test_wf_strip_count : (Instr.strip (.s 0) (.s 1) 0 0).wf = false := by decide
theorem test_wf_strip_pointer : (Instr.strip (.s 1) (.s 0) 1 0).wf = false := by decide
theorem test_wf_control_register : (Instr.crd (.s 1) 21).wf = false := by decide
theorem test_wf_window : (Instr.wbase (.s 16) (.s 1)).wf = false := by decide
theorem test_wf_trap_code : (Instr.trap (.s 1) 56).wf = false := by decide
theorem test_wf_distinct : (Instr.fork (.s 1) (.s 1) (.s 2)).wf = false := by decide
theorem test_wf_split_same : (Instr.vsplit6 (.v 1) (.v 2) (.v 1) .e2m3).wf = false := by decide
theorem test_wf_isplit_same : (Instr.isplit (.s 1) (.s 1)).wf = false := by decide
theorem test_wf_group_base : (Instr.mma 0 0 (.v 1) (.v 4) .bf16).wf = false := by decide
theorem test_wf_scaled_integer : (Instr.mmas 0 0 (.v 1) (.v 8) .i8).wf = false := by decide
theorem test_wf_message_block : (Instr.xput 51 { leg0 := .null, leg1 := .null, leg2 := .null }).wf = false := by decide
theorem test_wf_route : (Instr.xsend 1 { leg0 := .null, leg1 := .hop 0 1, leg2 := .null }).wf = false := by decide

/-! ## Words written out from the encodings of R56 and R61 -/

theorem test_word_add : decodeWord 0x02408920 = .ok (.add (.s 16) (.s 17) (.s 18)) := by rfl
theorem test_word_addImm : decodeWord 0x08408FFD = .ok (.addImm (.s 16) (.s 17) 0x7FD) := by rfl
theorem test_word_limm : decodeWord 0x1C40278D = .ok (.limm (.s 16) 0x278D) := by rfl
theorem test_word_lhi : decodeWord 0x1E4379B9 = .ok (.lhi (.s 16) 0x379B9) := by rfl
theorem test_word_bne : decodeWord 0x3175200A = .ok (.bne 29 (.s 36) 10) := by rfl
theorem test_word_strip : decodeWord 0x380491FE = .ok (.strip (.s 1) (.s 18) 0 0x1FE) := by rfl
theorem test_word_bpu : decodeWord 0x3A440004 = .ok (.bpU 1 4) := by rfl
theorem test_word_crd : decodeWord 0x3E540071 = .ok (.crd (.s 21) 7) := by rfl
theorem test_word_wbase : decodeWord 0x3E000803 = .ok (.wbase (.s 0) (.s 1)) := by rfl
theorem test_word_eret : decodeWord 0x3E000005 = .ok .eret := by rfl
theorem test_word_yield : decodeWord 0x3E000006 = .ok .yield := by rfl
theorem test_word_trap : decodeWord 0x3E000014 = .ok (.trap (.s 0) 1) := by rfl
theorem test_word_ld : decodeWord 0x4040881B = .ok (.ld (.s 16) (.s 17) 3 .d) := by rfl
theorem test_word_st : decodeWord 0x4240880B = .ok (.st (.s 16) (.s 17) 1 .d) := by rfl
theorem test_word_amoadd : decodeWord 0x4450A968 = .ok (.amoAdd (.s 20) (.s 21) (.s 22) .d) := by rfl
theorem test_word_cas : decodeWord 0x4650A961 = .ok (.cas (.s 20) (.s 21) (.s 22) .d) := by rfl
theorem test_word_binc : decodeWord 0x4850A960 = .ok (.binc (.s 20) (.s 21) (.s 22)) := by rfl
theorem test_word_fence : decodeWord 0x50000031 = .ok (.fenceVs .die) := by rfl
theorem test_word_tfence : decodeWord 0x54000030 = .ok (.tfence .die) := by rfl
theorem test_word_waitc : decodeWord 0x5600A960 = .ok (.waitc (.s 0) (.s 21) (.s 22)) := by rfl
theorem test_word_bqpush : decodeWord 0x5A008000 = .ok (.bqpush (.s 16)) := by rfl
theorem test_word_vadd : decodeWord 0x6122490E = .ok (.vadd (.v 8) (.v 9) (.s 16) true .f32) := by rfl
theorem test_word_vcvt : decodeWord 0x7F121064 = .ok (.vcvt (.v 4) (.v 2) false (.el .f32) false .bf16) := by rfl
theorem test_word_vred : decodeWord 0x90464006 = .ok (.vredAdd (.s 17) (.v 8) false .f32) := by rfl
theorem test_word_vextr : decodeWord 0x9A4A1113 = .ok (.vextr (.s 18) (.v 2) (.s 17) .i64) := by rfl
theorem test_word_vidx : decodeWord 0x99140012 = .ok (.vidx (.v 5) false .i32) := by rfl
theorem test_word_vld : decodeWord 0xA0E08146 = .ok (.vld (.ring 0) (.s 16) (.s 20) false .f32) := by rfl
theorem test_word_vlds : decodeWord 0xA7093A86 = .ok (.vlds (.v 2) (.s 39) (.s 40) false .f32) := by rfl
theorem test_word_vscats : decodeWord 0xAD18D456 = .ok (.vscats (.v 6) (.s 26) (.v 5) false .f32) := by rfl
theorem test_word_mma : decodeWord 0xC03E4500 = .ok (.mma 0 15 (.v 8) (.v 16) .bf16) := by rfl
theorem test_word_mmas : decodeWord 0xC24E4D02 = .ok (.mmas 1 3 (.v 9) (.v 16) .e4m3) := by rfl
theorem test_word_mswap : decodeWord 0xC6000000 = .ok (.mswap 0) := by rfl
theorem test_word_mrd : decodeWord 0xC80E2000 = .ok (.mrd 0 3 (.v 4)) := by rfl
theorem test_word_mcfg : decodeWord 0xCC000000 = .ok (.mcfg 0 .f32) := by rfl
theorem test_word_iadd : decodeWord 0xD00C0820 = .ok (.iadd (.s 3) (.s 1) (.s 2)) := by rfl
theorem test_word_cmul : decodeWord 0xD2141842 = .ok (.cmul (.s 5) (.s 3) (.s 4)) := by rfl
theorem test_word_iclrp : decodeWord 0xD4400004 = .ok (.iclrp (.s 16)) := by rfl
theorem test_word_icmp : decodeWord 0xD6080070 = .ok (.icmpLt (.s 2) (.s 0) (.s 7)) := by rfl
theorem test_word_iset : decodeWord 0xD8048110 = .ok (.iset (.s 1) (.s 16) (.s 17)) := by rfl
theorem test_word_iget : decodeWord 0xDA4C2801 = .ok (.igetHi (.s 19) (.s 5)) := by rfl
theorem test_word_vcadd : decodeWord 0xE3225038 = .ok (.vcadd (.v 8) (.v 10) (.s 3) true) := by rfl
theorem test_word_ropen : decodeWord 0xE8508000 = .ok (.ropen (.s 20) (.s 16) (.s 0)) := by rfl
theorem test_word_rsort : decodeWord 0xEC60A140 = .ok (.rsortK (.s 24) (.s 20) (.s 20)) := by rfl
theorem test_word_rmerge : decodeWord 0xEE60A1A2 = .ok (.rmergeWadd (.s 24) (.s 20) (.s 26)) := by rfl
theorem test_word_rset : decodeWord 0xF260B1A0 = .ok (.rsetIsect (.s 24) (.s 22) (.s 26)) := by rfl
theorem test_word_qpush : decodeWord 0xF920A001 = .ok (.qpush (.v 8) (.s 20)) := by rfl
theorem test_word_qarm : decodeWord 0xF800A183 = .ok (.qarm (.s 20) (.s 24)) := by rfl
theorem test_word_fork : decodeWord 0xF8500958 = .ok (.fork (.s 20) (.s 1) (.s 21)) := by rfl
theorem test_word_xput : decodeWord 0xFBA01430 = .ok (.xput 40 { leg0 := .hop 0 1, leg1 := .hop 2 0, leg2 := .null }) := by rfl
theorem test_word_xput_relay : decodeWord 0xFBA38C30 = .ok (.xput 40 { leg0 := .relay, leg1 := .null, leg2 := .null }) := by rfl
theorem test_word_cpy : decodeWord 0xFC609140 = .ok (.cpy (.s 24) (.s 18) (.s 20)) := by rfl
theorem test_word_cpyd : decodeWord 0xFC649941 = .ok (.cpyd (.s 25) (.s 19) (.s 20)) := by rfl
theorem test_word_bdecl : decodeWord 0xFC588114 = .ok (.bdecl (.s 22) (.s 16) (.s 17)) := by rfl
theorem test_word_brel : decodeWord 0xFC004826 = .ok (.brelSeal (.s 9)) := by rfl
theorem test_word_none : decodeWord 0 = .error .unassignedOpcode := by rfl
/-- yield's word with a source, a field that it does not have; and the word of mul's family with the selector 15 of no instruction. -/
theorem test_word_reserved : decodeWord 0x3E000805 = .error .unassignedSelector := by rfl
theorem test_word_unlisted : decodeWord 0x0440892F = .error .unassignedSelector := by rfl

/-! ## States that meet the hypotheses of the statements -/

/-- A solo crew of context 1 at its first instruction, vl and grant 4. -/
def base : State := State.reset.withFetchWord 32 0

/-- A state with registers of the thread in front set. -/
def withR (s : State) (l : List (Nat × Word)) : State := l.foldl (fun s' p => s'.modThr fun t => t.set p.1 p.2) s

/-- A vector instruction as the queue holds it. -/
def queued : VEntry :=
  { ins := .ins (.vadd (.v 1) (.v 2) (.v 3) false .f32), pc := 0x40, seq := 1, vl := 4, frm := 0, la := false, prM := 4, prN := 2
    icfg := 0x1A, bank := false, seed0 := 1, seed := 1, sD := 0, sA := 0, sB := 0, ivB := { lo := 0, hi := 0 }, dst := none
    rin := [], rout := none, named := [], xmode := false, interval := 0, strip := 0, gen := 0, bufs := [], runBad := none }

/-- The base state with one vector instruction uncommitted. -/
def busy : State := { base with thr := { base.thr with vseq := 1, vq := [queued] } }

/-- The base state as a thread of a trio. -/
def inTrio (r : Role) (idx : Nat) : State :=
  { base with
    crew := { base.crew with trio := true, ldn := 2, stn := 2, count := 3 }
    thr := { base.thr with role := r, idx := idx } }

/-- The base state as a speculative timestamped task. -/
def speculative : State :=
  { base with crew := { base.crew with spec := some {
      task := 5, ts := 7, oldest := false, journal := [], reads := [], writes := [], bufs := [] } } }

/-- The base state in privileged mode. -/
def privileged : State := { base with crew := { base.crew with priv := true } }

theorem readable (s : State) (n : Fin 56) (h : (s.ops.isEmpty && s.thr.vq.isEmpty) = true) : Readable s (.s n) := by
  simp only [Bool.and_eq_true, List.isEmpty_iff] at h
  exact ⟨n, rfl, .inr (by simp [State.pending, h.1, h.2])⟩

theorem writable (s : State) (n : Fin 56) (h : (s.ops.isEmpty && s.thr.vq.isEmpty) = true) : Writable s (.s n) := by
  refine ⟨readable s n h, ?_⟩
  simp only [Bool.and_eq_true] at h
  simp [Thread.histRoom, Thread.histSpace, h.2]

theorem unwatched (s : State) (c : Ctx) (h : s.ctxOf s.crew.ctx = some c) (hd : c.dbg = none) : Unwatched s := by
  intro d e
  rw [h] at e
  cases e
  exact hd

/-! ### Registers and scalar instructions -/

theorem witness_ScalarRegisterWrite : { Thread.init.csr with wb := 27 }.wb.toNat ≤ 27 := by decide

theorem witness_IntegerResults : ∃ f, intForm (.add (.s 16) (.s 17) (.s 0)) = some (.s 16, .s 17, .s 0, f) ∧
    Readable base (.s 17) ∧ Readable base (.s 0) ∧ Writable base (.s 16) ∧ (1 : Word) ≠ 0 :=
  ⟨_, rfl, readable _ _ rfl, readable _ _ rfl, writable _ _ rfl, by decide⟩

/-- A destination that discards writes is no exception. -/
theorem witness_IntegerResults_zero : ∃ f, intForm (.mulh (.s 0) (.s 17) (.s 55)) = some (.s 0, .s 17, .s 55, f) ∧
    Readable base (.s 17) ∧ Readable base (.s 55) ∧ Writable base (.s 0) :=
  ⟨_, rfl, readable _ _ rfl, readable _ _ rfl, writable _ _ rfl⟩

theorem witness_FlaggedResults : ∃ f, flagForm (.div (.s 16) (.s 17) (.s 0)) = some (.s 16, .s 17, .s 0, f) ∧
    Readable base (.s 17) ∧ Readable base (.s 0) ∧ Writable base (.s 16) :=
  ⟨_, rfl, readable _ _ rfl, readable _ _ rfl, writable _ _ rfl⟩

/-- A history buffer with 64 writes recorded behind a queued instruction, and with one too many. -/
def recorded (n : Nat) : State := { busy with thr := { busy.thr with hist := List.replicate n { seq := 1, undo := .reg 1 0 } } }

theorem witness_FlaggedResults_room : base.thr.histSpace 0 = true ∧ (recorded 64).thr.histSpace 0 = true ∧
    (recorded 65).thr.histSpace 0 = false ∧ (recorded 64).thr.vq ≠ [] := by decide

theorem witness_ControlTransfer : ∃ c, branchForm (.beq 55 (.s 17) 0x400) = some (55, .s 17, 0x400, c) ∧ (55 : BitVec 6).toNat < 56 ∧
    Readable base (regOf6 55) ∧ Readable base (.s 17) :=
  ⟨_, rfl, by decide, readable _ _ rfl, readable _ _ rfl⟩

/-- A predicate at reset holds 0b11; one that a compare wrote does not. -/
theorem witness_ControlTransfer_predicate : predForm (.bpU 7 1) = some (7, 1, 2) ∧ base.thr.pr[(7 : Fin 8)] = 3 ∧
    (base.thr.pr.set 7 2)[(7 : Fin 8)] ≠ 3 := by decide

theorem witness_ControlRegisterReads : Writable base (.s 16) ∧ VlSettled base ∧ base.thr.vq = [] ∧ (20 : BitVec 7).toNat ≤ 20 ∧
    20 < (21 : BitVec 7).toNat :=
  ⟨writable _ _ rfl, by unfold VlSettled; decide, rfl, by decide, by decide⟩

theorem witness_ControlRegisterReads_wait : busy.thr.vq ≠ [] ∧ Readable busy (.s 16) ∧ busy.crew.trio = false ∧ busy.unforked = true :=
  ⟨by decide, ⟨16, rfl, .inr (by decide +kernel)⟩, rfl, by decide +kernel⟩

theorem witness_ControlRegisterWrites_fault : cwrFault base 21 = some fltIllegal ∧ cwrFault (inTrio .computer 1) 1 = some fltCrewMode ∧
    cwrFault (inTrio .loader 0) 9 = some fltCrewMode ∧ cwrFault base 19 = some fltPriv ∧ base.thr.vq = [] := by decide +kernel

theorem witness_ControlRegisterWrites : cwrFault base 0 = none ∧ cwrFault privileged 19 = none ∧ cwrFault (inTrio .computer 1) 17 = none ∧
    Readable base (.s 16) ∧ base.thr.needVl = false ∧ base.crew.pend = false ∧ base.rplOf base.crew.ctx = none :=
  ⟨by decide +kernel, by decide +kernel, by decide +kernel, readable _ _ rfl, rfl, rfl, rfl⟩

/-- The last value in range and the first out of it. -/
theorem witness_ControlRegisterWrites_range : cregFits base 0 4 ∧ ¬cregFits base 0 5 ∧ cregFits base 4 27 ∧ ¬cregFits base 4 28 ∧
    cregFits base 6 4 ∧ ¬cregFits base 6 5 ∧ cregFits base 9 0x100000000 ∧ ¬cregFits base 9 0 :=
  ⟨(by decide : (4 : Word).toNat % 2 ^ 18 ≤ 4), (by decide : ¬(5 : Word).toNat % 2 ^ 18 ≤ 4), (by decide : (27 : Word).toNat % 2 ^ 5 ≤ 27),
    (by decide : ¬(28 : Word).toNat % 2 ^ 5 ≤ 27), (by decide : (4 : Word).toNat % 2 ^ 3 ≤ 4), (by decide : ¬(5 : Word).toNat % 2 ^ 3 ≤ 4),
    (by decide : (0x100000000 : Word).toNat / 2 ^ 32 ≠ 0), (by decide : ¬(0 : Word).toNat / 2 ^ 32 ≠ 0)⟩

theorem witness_WindowMove : Writable base (.s 15) ∧ Readable base (.s 16) ∧ base.thr.histSpace 2 = true ∧ opdNum (.s 15) < 16 ∧
    16 ≤ opdNum (.s 16) ∧ (0 : Int) ≤ (base.thr.csr.wb.toNat : Int) + (27 : Word).toInt ∧
    ¬(base.thr.csr.wb.toNat : Int) + (28 : Word).toInt ≤ 27 ∧ ¬0 ≤ (base.thr.csr.wb.toNat : Int) + (-1 : Word).toInt :=
  ⟨writable _ _ rfl, readable _ _ rfl, rfl, by decide, by decide, by decide, by decide, by decide⟩

/-- A strip of four elements, the last one and one with elements left. -/
theorem witness_StripAndSetvl : opdNum (.s 1) ≠ 0 ∧ opdNum (.s 52) + (3 : BitVec 2).toNat ≤ 55 ∧ VlSettled base ∧
    base.thr.histSpace 8 = true ∧ base.rplOf base.crew.ctx = none ∧ Readable base (.s 1) ∧
    (∀ k, k ≤ 3 → Readable base (reg (52 + k))) ∧
    base.thr.csr.vl.toNat ≤ (val (withR base [(1, 4)]) (.s 1)).toNat ∧
    base.thr.csr.vl.toNat ≤ (val (withR base [(1, 5)]) (.s 1)).toNat ∧
    (val (withR base [(1, 3)]) (.s 1)).toNat < base.thr.csr.vl.toNat :=
  ⟨by decide, by decide, by unfold VlSettled; decide, rfl, rfl, readable _ _ rfl, fun _ _ => readable _ _ rfl, by decide +kernel,
    by decide +kernel, by decide +kernel⟩

/-- A computer that has not consumed its first strip, outside a step and in one whose next length has come. -/
theorem witness_StripAndSetvl_trio : (inTrio .computer 1).thr.role = .computer ∧ VlSettled (inTrio .computer 1) ∧
    (inTrio .computer 1).thr.histSpace 5 = true ∧ (inTrio .computer 1).crew.stepping = none ∧
    ({ (inTrio .computer 1).crew with stepping := some 13, consumed := [64, 32] } : Crew).consumed[0 + 1]? ≠ none ∧
    (inTrio .computer 1).thr.strips = 0 :=
  ⟨rfl, by unfold VlSettled; decide, rfl, rfl, by decide, rfl⟩

theorem witness_StripAndSetvl_setvl : base.crew.trio = false ∧ VlSettled base ∧ Readable base (.s 17) ∧ Writable base (.s 16) ∧
    base.thr.histSpace 2 = true ∧ (inTrio .computer 1).crew.trio = true :=
  ⟨rfl, by unfold VlSettled; decide, readable _ _ rfl, writable _ _ rfl, rfl, rfl⟩

/-! ### Faults, traps and the end of a task -/

theorem witness_GrantBounds : 64 ≤ 64 * 4 / 4 ∧ 64 ≤ 32768 * 4 / 8 := by decide

theorem witness_FaultsAtIssue : (55 : BitVec 7).toNat < 56 ∧ 56 ≤ (56 : BitVec 7).toNat ∧ Readable base (.s 0) ∧ Due base ∧
    busy.thr.vq ≠ [] ∧ speculative.crew.speculating = true ∧ speculative.thr.vq = [] ∧ speculative.thr.held = none ∧
    ({ base.thr with held := some { addr := 0, bytes := [1], seq := 0, fenced := false } } : Thread).held ≠ none :=
  ⟨by decide, by decide, readable _ _ rfl, ⟨rfl, rfl, rfl⟩, by decide, rfl, rfl, rfl, by decide⟩

/-- The bytes of a code object at 0 (R297, R298): its header and configuration, eight registers, one crew, solo. -/
def codeMem : Mem := (Mem.put base.dram 0x20000 (leBytes 8 0x159444E47)).put 0x20038 (leBytes 8 0)

/-- Contexts 1, trapped into driver context 2, and 2 with a pool of 16 MiB as run 3. -/
def pool : CabEntry :=
  { live := true, gen := 1, len := 0, cap := 0x200000, ext := some 9, ver := 1, owner := 2, pgsz := 1, die := 0, home := 0
    place := false, tol := false, comp := false, sort := .unsorted, st := .opened, kmode := 0, ksz := false, rsz := 0, tval := 0
    tabs := false, etype := .i8, esz := 0, roots := [], spillOf := none, shared := none }

def trapped : Ctx := { probeCtx with trap := some { entry := 0x40, drv := 2, pool := 0x10003, wdog := 0 } }

def trapBase : State :=
  { base with
    dram := codeMem, ctxs := [trapped, { probeCtx with ctx := 2, owner := 2, cab := [(3, pool)] }]
    exts := [{ id := 9, ctx := 2, slot := 2, epoch := 0, beats := [], va := 0, parts := [(0x40000000, 0x1000000)], bytes := 0x1000000,
                die := 0, home := 0, place := false, data := [(0, 1)] }] }

theorem witness_HandlerStarts : base.thr.idx < 4 ∧ trapBase.codeObj 2 0x40 = .good 0 ∧ trapBase.codeBad 2 0x40 = none ∧ (0 : Word).getLsbD 24 = false ∧
    mvlOf (trapBase.capOf base.crew.coreIx) base.crew.crews ((0 : Word).extractLsb' 0 2) ≠ 0 ∧ trapBase.rplOf 2 = none := by
  decide +kernel

theorem witness_TrapSavesCrew : Due trapBase ∧ trapBase.live = true ∧ trapBase.thr.idx = 0 ∧ trapBase.thr.unperf = [] ∧
    trapBase.mates = [] ∧ trapBase.others = [] ∧ trapBase.ops = [] ∧ trapBase.crew.handler = none ∧ trapBase.crew.lend = none ∧
    trapBase.crew.poison = [] ∧ trapBase.crew.stop = none ∧ trapBase.ctxOf trapBase.crew.ctx = some trapped ∧ trapped.dbg = none ∧
    trapped.trc = none ∧ trapped.trap ≠ none ∧ trapBase.poolExt trapBase.crew.ctx = some (9, pool) ∧ trapBase.tolerant? 9 = none ∧
    trapBase.poolTop trapBase.crew.ctx + areaBytes trapBase.crew + imageArea ≤
      trapBase.poolFloor trapBase.crew.ctx (pool.cap * pool.recSize) :=
  ⟨⟨rfl, rfl, rfl⟩, by decide +kernel⟩

theorem witness_ThreadSaveRestore : 3 < 4 := by decide

/-- An operation of the crew in front with a token to write. -/
def handlerOp : Op :=
  { id := 7, kind := .run .splice [4] [] 0 [] none, tok := .live 1 0 24, crew := 1, thread := 0, ctx := 1, owner := 1, core := 0
    translate := false, pages := [], ts := 0, slot := 0, pc := 0x40 }

/-- The handler of context 1 in its slot, and the crew it stands for saved at the pool's start. -/
def handling : State :=
  { trapBase with crew := { base.crew with
      priv := true, ctx := 2, handler := some { ctx := 1, area := 0, fault := bareFault 31 } } }

theorem witness_EretResumes : handling.crew.handler = some { ctx := 1, area := 0, fault := bareFault 31 } ∧ handling.crew.priv = true ∧
    handling.thr.vq = [] ∧ handling.thr.idx = 0 ∧ handling.thr.unperf = [] ∧ handling.thr.held = none ∧ handling.mates = [] ∧
    handling.handlerAwaits = false ∧ base.crew.handler = none ∧ handling.repin 1 ≠ none ∧
    handling.dropCrew.restoreCrew 1 0 0 0 true = .error .incomplete ∧
    { handling with ops := [{ handlerOp with crew := handling.crew.id }] }.handlerAwaits = true := by decide +kernel

/-- The state whose context has the saved crew, which the eret restores. -/
def saved : State :=
  { handling with ctxs := [{ trapped with st := .saved, saved := [{
      area := 0, die := 0, core := 0, slot := 0, crewId := 1, resume := false, kept := base.crew, threads := [base.thr], need := 0
      complete := true }] }, { probeCtx with ctx := 2, owner := 2, cab := [(3, pool)] }] }

theorem witness_EretResumes_restored : saved.handlerAwaits = false ∧ saved.repin 1 ≠ none ∧
    (match saved.dropCrew.restoreCrew 1 0 0 0 true with | .ok _ => true | .error _ => false) = true := by
  decide +kernel

/-- The same crew with its saved area in a bad sub-beat. -/
def badArea : State := { saved with dramBad := [0x40000000 / 64] }

theorem witness_EretResumes_bad : badArea.handlerAwaits = false ∧ badArea.repin 1 ≠ none ∧
    (match badArea.dropCrew.restoreCrew 1 0 0 0 true with | .error (.uncorr d) => d == 0x40000000 / 64 | _ => false) = true := by
  decide +kernel

theorem witness_YieldAndHalt : base.crew.prq = false ∧ ({ base.crew with prq := true } : Crew).prq = true ∧ base.thr.vq = [] ∧
    busy.thr.vq ≠ [] := by decide

theorem witness_YieldAndHalt_halt : base.unforked = true ∧ base.thr.vq = [] ∧ base.thr.role ≠ .computer ∧ base.awaitsToken = false ∧
    base.thr.unperf = [] ∧ base.thr.held = none ∧ base.mates = [] ∧ base.crew.handler = none ∧ base.crew.spec = none ∧
    base.crew.launch = none := by decide +kernel

/-- A forked context has no task to end, and a task of a launch of two leaves one behind. -/
def ofLaunch : State :=
  { base with
    crew := { base.crew with launch := some 3 }
    launches := [{ id := 3, queue := none, ctx := 1, done := 0, left := 2, dies := 1, idle := [], cfg := 0, prio := 0 }] }

theorem witness_YieldAndHalt_launch : { base with thr := { base.thr with parent := some 0 } }.unforked = false ∧
    ofLaunch.crew.launch = some 3 ∧ (ofLaunch.launches.find? fun x => x.id == 3) = some {
      id := 3, queue := none, ctx := 1, done := 0, left := 2, dies := 1, idle := [], cfg := 0, prio := 0 } := by decide +kernel

/-! ### Scalar memory -/

theorem witness_ScalarLoads : Readable base (.s 17) ∧ Writable base (.s 16) ∧ base.thr.held = none ∧ base.crew.spec = none ∧
    Unwatched base ∧ Reachable base .load 0x2FFFF8 8 :=
  ⟨readable _ _ rfl, writable _ _ rfl, rfl, rfl, unwatched _ _ rfl rfl, by unfold Reachable; decide +kernel⟩

/-- The owner's signal line and host memory, and a package of the fabric. -/
def signals : State := { base with sigOwn := [(0, 1)], fabric := [0, 5] }

theorem witness_ScalarLoads_spaces : Reachable signals .load 0x4000000000000000 8 ∧
    signals.hostRefuses (hostAddr signals.crew.ctx 0x8000000000000000) 8 = false ∧ (0x4000000002800000 : Word).toNat / 2 ^ 32 = 2 ^ 30 ∧ (0x4000000002800000 : Word).extractLsb' 23 9 ≠ signals.pkg ∧
    signals.sigReach 0x4000000002800000 = true ∧ ScalarFree base := by
  unfold Reachable ScalarFree; decide +kernel

theorem witness_ScalarStores : Readable base (.s 16) ∧ Unwatched base ∧ ScalarFree base ∧ ScalarFree busy ∧ Reachable base .store 0 1 ∧
    Reachable signals .store 0x4000000000000000 8 ∧ Reachable busy .store 0x2FFFFF 1 ∧ busy.thr.vq ≠ [] := by
  refine ⟨readable _ _ rfl, unwatched _ _ rfl rfl, ?_⟩
  unfold Reachable ScalarFree; decide +kernel

/-- Host memory is reachable wherever PCIe gives no error at the step, which nothing in the model decides. -/
theorem witness_ScalarStores_host (h : Config.pcieError signals.stepNo = false) : ∀ k, Reachable signals k 0x8000000000000000 8 := by
  intro k
  refine ⟨by decide +kernel, .inr (.inr ⟨by decide +kernel, ?_, rfl, rfl⟩)⟩
  rw [State.hostBad, h]
  decide +kernel

theorem witness_ScratchpadStoreFrame : 127 < 128 ∧ 0x2FFFFC + [1, 2, 3, 4].length ≤ 0x300000 := by decide

theorem witness_AtomicResults : (∃ f, atomicForm (w := 64) (.cas (.s 1) (.s 2) (.s 3) .d) = some (.s 1, .s 2, .s 3, .d, f)) ∧
    Readable base (.s 2) ∧ Readable base (.s 3) ∧ Writable base (.s 1) ∧ Unwatched base ∧ ScalarFree base ∧
    Reachable base .atomic 8 8 ∧ hostAtomic (.cas (.s 1) (.s 2) (.s 3) .d) = true :=
  ⟨⟨_, rfl⟩, readable _ _ rfl, readable _ _ rfl, writable _ _ rfl, unwatched _ _ rfl rfl,
    by unfold ScalarFree; decide +kernel, by unfold Reachable; decide +kernel, rfl⟩

theorem witness_AtomicResults_word : (∃ f, atomicForm (w := 32) (.amoMin (.s 1) (.s 2) (.s 3) .w) = some (.s 1, .s 2, .s 3, .w, f)) ∧
    Reachable base .atomic 4 4 ∧ hostAtomic (.amoMin (.s 1) (.s 2) (.s 3) .w) = false ∧ (0x8000000000000000 : Word).toNat / 2 ^ 62 = 2 :=
  ⟨⟨_, rfl⟩, by unfold Reachable; decide +kernel, rfl, by decide⟩

/-- One address for each fault: an illegal space, a misaligned byte, an unreachable package and another owner's line. -/
theorem witness_ScalarAccessFaults : accessOf (withR base [(17, 0xC000000000000000)]) (.st (.s 1) (.s 17) 0 .d) =
      some (.s 17, 0xC000000000000000, 8, .store) ∧ addrOk 0xC000000000000000 = false ∧ addrOk 4 = true ∧ 4 % 8 ≠ 0 ∧
    base.sigReach 0x4000000002800000 = false ∧ (0x4000000000000000 : Word).extractLsb' 23 9 = base.pkg ∧
    base.sigMine base.owner 0x4000000000000000 = false ∧ (0x8000000000000000 : Word).toNat / 2 ^ 56 = 2 ^ 7 ∧
    { base with hostDenied := [(0, 2 ^ 80)] }.hostBad 0x8000000000000000 8 = true ∧
    (∀ o ∈ accessReads (.st (.s 1) (.s 17) 0 .d), Readable base o) :=
  ⟨by decide +kernel, by decide +kernel, by decide +kernel, by decide, by decide +kernel, by decide +kernel, by decide +kernel,
    by decide +kernel, by decide +kernel, by
    intro o h
    simp only [accessReads, List.mem_singleton] at h
    subst h
    exact readable _ _ rfl⟩

theorem witness_Fences : base.thr.held = none ∧ base.thr.unperf = [] ∧ busy.thr.vq ≠ [] ∧ privileged.crew.priv = true ∧
    base.crew.priv = false ∧ (∀ h e, ({ base.thr with held := some { addr := 0, bytes := [1], seq := 0, fenced := true } } : Thread).held = some h →
      e = queued → h.fenced = true ∧ h.seq < e.seq) ∧ privileged.thr.tfWait = none ∧ privileged.transfersLeft = [] := by
  refine ⟨rfl, rfl, by decide, rfl, rfl, ?_, rfl, by decide +kernel⟩
  rintro _ _ ⟨⟩ rfl
  decide

/-- A tfence that has nothing left to await, one that awaits a transfer, and one that awaits a committed store of another
crew that has bound pages. -/
def tfencing (l : TfWait) : State := { privileged with thr := { privileged.thr with tfWait := some l } }
def boundStore : Unperf :=
  { target := .run 1 3, ext := some 9, va := 0, pages := [(0, 0x40000000)], lo := 0, hi := 1, cells := [(0, [1])], interval := 0, seq := 4 }

theorem witness_Fences_tfence : (tfencing { ops := [3], stores := [(9, 0, 4)] }).crew.priv = true ∧
    (∀ o ∈ (tfencing { ops := [3], stores := [(9, 0, 4)] }).ops, o.id ∉ [3]) ∧
    (∀ p ∈ (tfencing { ops := [3], stores := [(9, 0, 4)] }).crews, ∀ t ∈ p.2, t.unperf = []) ∧
    (∃ o ∈ ({ tfencing { ops := [7], stores := [] } with ops := [handlerOp] } : State).ops, o.id ∈ [7]) ∧
    (∃ p ∈ ({ tfencing { ops := [], stores := [(9, 0, 4)] } with
        others := [({ base.crew with id := 9 }, [{ base.thr with unperf := [boundStore] }])] } : State).crews,
      ∃ t ∈ p.2, ∃ u ∈ t.unperf, (p.1.id, t.idx, u.seq) ∈ [(9, 0, 4)]) := by
  refine ⟨rfl, by decide, by decide +kernel, by decide +kernel, ?_⟩
  exact ⟨({ base.crew with id := 9 }, [{ base.thr with unperf := [boundStore] }]), by decide +kernel, _, List.mem_singleton.2 rfl, _,
    List.mem_singleton.2 rfl, by decide⟩

theorem witness_WaitsAtIssue : Reachable signals .atomic 0x4000000000000000 8 ∧ ScalarFree signals ∧
    signals.crew.spec = none ∧ seen signals 0x4000000000000000 8 = 0 ∧ (0 : Word).toNat ≤ 0 ∧ 0 < (1 : Word).toNat := by
  unfold Reachable ScalarFree; decide +kernel

/-- A table of two entries, each on the zero word of the owner's line, with targets 0 and 1. -/
def table : State :=
  { signals with spad := Mem.put [] 0 (leBytes 8 0x4000000000000000 ++ leBytes 8 0 ++ leBytes 8 0x4000000000000000 ++ leBytes 8 1)
                 spadTag := [(0, 1)] }

theorem table_entries : table.waitTable 0 2 = [(0x4000000000000000, 0), (0x4000000000000000, 1)] := by decide +kernel

theorem witness_WaitsAtIssue_table : 1 ≤ 2 ∧ 2 ≤ 64 ∧ 0 % 8 = 0 ∧ 0 + 16 * 2 ≤ 0x300000 ∧
    table.bufBad table.crew.coreIx table.crew.ctx 0 (16 * 2) false = none ∧
    (∀ e ∈ table.waitTable 0 2, Reachable table .atomic e.1 8) ∧ Writable table (.s 1) ∧
    maskWord ((table.waitTable 0 2).map fun e => decide (e.2.toNat ≤ seen table e.1 8)) = 1 := by
  refine ⟨by decide, by decide, by decide, by decide, by decide +kernel, ?_, writable _ _ rfl, ?_⟩
  · intro e he
    rw [table_entries] at he
    rcases List.mem_cons.1 he with rfl | he
    · unfold Reachable; decide +kernel
    · rcases List.mem_singleton.1 he with rfl
      unfold Reachable; decide +kernel
  · rw [table_entries]; decide +kernel

theorem witness_BranchQueue : (inTrio .loader 0).crew.trio = true ∧ (inTrio .loader 0).thr.role = .loader ∧
    Readable (inTrio .loader 0) (.s 1) ∧ (inTrio .loader 0).thr.vq = [] ∧ (inTrio .loader 0).crew.bq.length < 16 ∧
    (inTrio .loader 0).roleRetired .computer = true ∧ (inTrio .computer 1).thr.role = .computer ∧ Writable (inTrio .computer 1) (.s 1) ∧
    (inTrio .computer 1).crew.bq = [] ∧ ({ (inTrio .computer 1).crew with bq := [7] } : Crew).bq = 7 :: [] ∧
    base.crew.trio = false ∧ 16 ≤ (List.replicate 16 (0 : Word)).length ∧
    { inTrio .loader 0 with mates := [{ base.thr with role := .computer, idx := 1 }] }.roleRetired .computer = false :=
  ⟨rfl, rfl, readable _ _ rfl, rfl, by decide, by decide +kernel, rfl, writable _ _ rfl, rfl, rfl, rfl, by decide, by decide +kernel⟩

/-! ### Vector instructions -/

/-- Whether an operand is a scalar register, and whether it is a ring. -/
def isScal : Opd → Bool
  | .s _ => true
  | _ => false
def isRing : Opd → Bool
  | .ring _ => true
  | _ => false

/-- A thread with nothing queued or pending can use operands that are no rings. -/
theorem vready (s : State) (v : VShape) (h : (s.ops.isEmpty && s.thr.vq.isEmpty && !s.thr.needVl && v.legal s &&
    decide (s.mvl ≤ 32768) && decide (s.crew.poison = []) && v.sD.all isScal && v.sA.all isScal && v.sB.all isScal &&
    v.sdst.all isScal && decide (s.thr.csr.vl.toNat * v.size ≤ s.mvl * 4) && v.srcs.all (fun o => !isRing o) &&
    v.dst.all (fun o => !isRing o)) = true) : VReady s v := by
  simp only [Bool.and_eq_true, decide_eq_true_eq, Bool.not_eq_true'] at h
  obtain ⟨⟨⟨⟨⟨⟨⟨⟨⟨⟨⟨⟨ho, hq⟩, hv⟩, hl⟩, hm⟩, hp⟩, h1⟩, h2⟩, h3⟩, h4⟩, h5⟩, h6⟩, h7⟩ := h
  have hh : (s.ops.isEmpty && s.thr.vq.isEmpty) = true := by simp [ho, hq]
  have hr : ∀ o, isScal o = true → Readable s o ∧ Writable s o := by
    intro o e
    cases o with
    | s n => exact ⟨readable s n hh, writable s n hh⟩
    | ring k => cases e
    | v n => cases e
  have hs : ∀ k, Opd.ring k ∉ v.srcs := by
    intro k hk
    have := List.all_eq_true.1 h6 _ hk
    simp [isRing] at this
  have hd : ∀ k, v.dst ≠ some (Opd.ring k) := by
    intro k hk
    rw [hk] at h7
    simp [isRing] at h7
  refine ⟨hl, ⟨hv, by simp [List.isEmpty_iff.1 hq]⟩, hm, hp, ?_, ?_, h5, fun k e => ?_,
    fun _ => ⟨fun k hk => absurd hk (hs k), fun k hk => absurd hk (hd k)⟩⟩
  · rintro o (e | e | e)
    · rw [e] at h1; exact (hr o h1).1
    · rw [e] at h2; exact (hr o h2).1
    · rw [e] at h3; exact (hr o h3).1
  · intro o e
    rw [e] at h4; exact (hr o h4).2
  · exact e.elim (fun h => absurd h (hs k)) (fun h => absurd h (hd k))

theorem witness_VectorResults : ∃ v, vShape (.vadd (.v 1) (.v 2) (.v 7) false .f32) = some v ∧ VReady base v ∧ base.thr.vq = [] ∧
    base.lag = 0 ∧ VGood (captured base (.vadd (.v 1) (.v 2) (.v 7) false .f32) v) base (.vadd (.v 1) (.v 2) (.v 7) false .f32) :=
  ⟨_, rfl, vready _ _ (by decide +kernel), rfl, rfl, trivial⟩

/-- A masked scatter to the last bytes of the scratchpad. -/
def scatter : State := withR base [(16, 0x2FFFFC)]

theorem witness_VectorResults_memory : ∃ v, vShape (.vscats (.v 1) (.s 16) (.v 2) false .f32) = some v ∧ VReady scatter v ∧
    VGood (captured scatter (.vscats (.v 1) (.s 16) (.v 2) false .f32) v)
      (entered scatter (captured scatter (.vscats (.v 1) (.s 16) (.v 2) false .f32) v)) (.vscats (.v 1) (.s 16) (.v 2) false .f32) := by
  refine ⟨_, rfl, vready _ _ (by decide +kernel), ⟨rfl, ?_, by decide +kernel⟩, by decide +kernel, rfl⟩
  intro i hi
  have h4 : i < 4 := by
    rcases Nat.lt_or_ge i 4 with h | h
    · exact h
    · rw [List.getD_eq_default _ _ (by exact h)] at hi
      cases hi
  have all : ∀ j : Fin 4, elemAddr (captured scatter (.vscats (.v 1) (.s 16) (.v 2) false .f32)
        { srcs := [.v 1], vdst := [.v 2], sA := some (.s 16), size := 4 }) scatter j.val < 2 ^ 22 ∧
      elemAddr (captured scatter (.vscats (.v 1) (.s 16) (.v 2) false .f32)
        { srcs := [.v 1], vdst := [.v 2], sA := some (.s 16), size := 4 }) scatter j.val % 4 = 0 ∧
      scatter.spadStop [] (elemAddr (captured scatter (.vscats (.v 1) (.s 16) (.v 2) false .f32)
        { srcs := [.v 1], vdst := [.v 2], sA := some (.s 16), size := 4 }) scatter j.val) 4 true = none := by
    decide +kernel
  exact all ⟨i, h4⟩

/-- A scalar store that a fence.sv has put before a ring write, which the write performs. -/
def ringWriter : State :=
  { inTrio .computer 1 with thr := { (inTrio .computer 1).thr with held := some { addr := 0, bytes := [1], seq := 0, fenced := true } } }

theorem witness_VectorResults_released : ringWriter.crew.rings[(4 : Fin 8)].length < 4 ∧ ringWriter.dstOk (.ring 4) = true ∧
    ringWriter.thr.vq = [] ∧ ringWriter.released.thr.held = none := by decide +kernel

/-- A full ring entry read and an empty ring written. -/
def rings : State :=
  { inTrio .computer 1 with crew := { (inTrio .computer 1).crew with
      mvl := 4096, rings := (Vector.replicate 8 []).set 0 [{ count := 4, esz := 4, unit := 4, per := 1, strip := 0, bytes := List.replicate 16 1 }] } }

theorem witness_VectorResults_rings : (∃ r l, rings.crew.rings[(0 : Fin 8)] = r :: l ∧ r.count = rings.thr.csr.vl.toNat) ∧
    rings.crew.rings[(4 : Fin 8)].length < 4 ∧ rings.srcOk (.ring 0) = true ∧ rings.dstOk (.ring 4) = true :=
  ⟨⟨_, [], rfl, rfl⟩, by decide, by decide +kernel, by decide +kernel⟩

theorem witness_VectorQueued : busy.thr.vq ≠ [] ∧ busy.thr.vq.length < 64 ∧ (List.replicate 64 queued).length ≥ 64 ∧
    ∃ v, vShape (.vneg (.v 1) (.v 2) false .i8) = some v ∧ v.legal busy = true ∧ VlSettled busy ∧ busy.mvl ≤ 32768 ∧
      busy.crew.poison = [] ∧ busy.thr.csr.vl.toNat * v.size ≤ busy.mvl * 4 :=
  ⟨by decide, by decide, by decide, _, rfl, by decide +kernel, by unfold VlSettled; decide +kernel, by decide +kernel, rfl,
    by decide +kernel⟩

theorem witness_VectorCommits : busy.focus { crew := 1, idx := 0 } = some busy ∧ busy.thr.vq = queued :: [] ∧
    busy.headPart = none ∧ queued.ins = .ins (.vadd (.v 1) (.v 2) (.v 3) false .f32) ∧ (∃ v, vShape (.vadd (.v 1) (.v 2) (.v 3) false .f32) = some v ∧
      v.legal busy = true ∧ queued.vl * v.size ≤ busy.mvl * 4 ∧ queued.rin = (if queued.vl = 0 then [] else ringsOf v.srcs)) ∧ busy.mvl ≤ 32768 ∧
    busy.crew.poison = [] ∧ (∀ x ∈ queued.rin, ∃ h l, busy.crew.rings[x] = h :: l ∧ h.count = queued.vl) :=
  ⟨rfl, rfl, rfl, rfl, ⟨_, rfl, by decide +kernel, by decide +kernel, by decide⟩, by decide +kernel, rfl, by simp [queued]⟩

/-- A register beyond the eight configured, and a vl of one element more than the register holds. -/
def long : State := { base with thr := { base.thr with csr := { base.thr.csr with vl := 32769 } } }

theorem witness_VectorOperandFaults : (∃ v, vShape (.vabs (.v 8) (.v 1) false .f32) = some v ∧ v.legal base = false) ∧
    ∃ v, vShape (.vabs (.v 7) (.v 1) false .f32) = some v ∧ v.legal long = true ∧ VlSettled long ∧
      long.mvl * 4 < long.thr.csr.vl.toNat * v.size :=
  ⟨⟨_, rfl, by decide +kernel⟩, _, rfl, by decide +kernel, by unfold VlSettled; decide, by decide +kernel⟩

theorem witness_CodeTableLoad : (7 : Fin 64).val < (partOf base.crew base.thr.role).2 ∧ base.crew.poison = [] ∧ VlSettled base ∧
    base.crew.trio = false ∧ base.thr.parent = none ∧ base.thr.vq = [] ∧ base.lag = 0 ∧ busy.thr.vq ≠ [] ∧ busy.thr.vq.length < 64 ∧
    (∀ u ∈ base.mates, ∀ x ∈ u.vq, x.bank = base.crew.act ∨ base.crew.cbGen < x.gen) ∧
    (∃ u ∈ [{ base.thr with vq := [{ queued with bank := true }] }], ∃ x ∈ u.vq, x.bank ≠ base.crew.act ∧ x.gen ≤ base.crew.cbGen) :=
  ⟨by decide +kernel, rfl, by unfold VlSettled; decide, rfl, rfl, rfl, rfl, by decide, by decide, by decide +kernel, by decide +kernel⟩

theorem witness_MatrixElements : 16 ≤ 16 ∧ ({ queued with vl := 1024 } : VEntry).vl ≤ 1024 := by decide

theorem witness_AccumulatorBanks : SMap.wf (n := 8) base.acc = true ∧ EngineOk base 3 ∧ queued.vl ≤ 1024 :=
  ⟨rfl, by unfold EngineOk; decide, by decide⟩

/-- The base state with an OPEN run of 8 records of 8 bytes, handle 0x10003 in s20. -/
def run : CabEntry := { pool with owner := 1, len := 8, cap := 8192, pgsz := 0 }

def runBase : State :=
  withR { base with
    ctxs := [{ probeCtx with cab := [(3, run), (4, { run with len := 0, ext := none, cap := 0 })] }]
    exts := [{ id := 9, ctx := 1, slot := 1, epoch := 0, beats := [], va := 0, parts := [(0x40000000, 65536)], bytes := 65536,
                die := 0, home := 0, place := false, data := [(0, 1)] }] }
    [(20, 0x10003), (21, 0x10004), (22, 0x10003)]

theorem runNamed : RunNamed runBase (val runBase (.s 20)) 3 run :=
  ⟨rfl, rfl, rfl, by decide +kernel, by decide, by decide, rfl, _, rfl, rfl⟩

/-- The same run with an uncorrectable sub-beat at its start. -/
def badBeat : State := { runBase with dramBad := [0x40000000 / 64] }

theorem witness_RunStreams : (.s 20 : Opd) ≠ .s 0 ∧ runBase.thr.vq = [] ∧ runBase.lag = 0 ∧ RunNamed runBase (val runBase (.s 20)) 3 run ∧
    (val runBase (.s 16)).toNat % elSize .f32 = 0 ∧ runBase.vecRoom queued [(.run runBase.crew.ctx 3, 0, 64, true)] = .ok () ∧
    (∀ j, j < 4 → runBase.extBad run.ext (j * elSize .f32) (elSize .f32) = none) ∧
    (badBeat.extBad run.ext 0 (elSize .f32)).isSome = true ∧
    (∃ v, vShape (.vld (.v 1) (.s 16) (.s 20) false .f32) = some v ∧ VReady runBase v) ∧
    (∃ v, vShape (.vst (.v 1) (.s 16) (.s 20) false .f32) = some v ∧ VReady runBase v) ∧ MayRead runBase run ∧ MayWrite runBase run ∧
    (val runBase (.s 16)).toNat + runBase.thr.csr.vl.toNat * elSize .f32 ≤ run.len * run.recSize ∧
    runBase.slack = 0 ∧ runBase.thr.unperf = [] ∧ run.tol = false :=
  ⟨by decide, rfl, rfl, runNamed, by decide +kernel, by decide +kernel, by decide +kernel, by decide +kernel,
    ⟨_, rfl, vready _ _ (by decide +kernel)⟩,
    ⟨_, rfl, vready _ _ (by decide +kernel)⟩, .inr ⟨rfl, rfl, rfl⟩, ⟨rfl, rfl, rfl, rfl⟩, by decide +kernel, rfl, rfl, rfl⟩

/-- Four elements from 0x2FFFF8: the third is the first beyond the scratchpad. -/
def atEdge : State := withR base [(16, 0x2FFFF8)]

theorem witness_FirstFaultTruncates : (∃ v, vShape (.vldff (.v 1) (.s 16) (.s 0) false .f32) = some v ∧ VReady atEdge v) ∧
    atEdge.thr.vq = [] ∧ atEdge.lag = 0 ∧ atEdge.crew.spec = none ∧ atEdge.rplOf atEdge.crew.ctx = none ∧ Unwatched atEdge ∧
    (val atEdge (.s 16)).toNat < 2 ^ 22 ∧ (val atEdge (.s 16)).toNat % elSize .f32 = 0 ∧ 2 < atEdge.thr.csr.vl.toNat ∧
    (∀ i, i < 2 → atEdge.spadStop [] ((val atEdge (.s 16)).toNat + i * elSize .f32) (elSize .f32) false = none) ∧
    atEdge.spadStop [] ((val atEdge (.s 16)).toNat + 2 * elSize .f32) (elSize .f32) false =
      some (.trap { code := fltSpadRange, addr := 0x300000 }) ∧
    atEdge.vecRoom queued [(.spad atEdge.crew.coreIx, 0x2FFFF8, 0x300000, false)] = .ok () ∧ (∀ c, atEdge.ctxOf atEdge.crew.ctx = some c → c.trc = none) ∧
    (captured atEdge (.vldff (.v 1) (.s 16) (.s 0) false .f32) { sA := some (.s 16), sB := some (.s 0), dst := some (.v 1), size := 4 }).bufs = [] ∧
    base.spadStop [] 0x300000 4 false ≠ none := by
  refine ⟨⟨_, rfl, vready _ _ (by decide +kernel)⟩, rfl, rfl, rfl, rfl, unwatched _ probeCtx rfl rfl, by decide +kernel, by decide +kernel,
    by decide +kernel, ?_, by decide +kernel, by decide +kernel, by decide +kernel⟩
  intro i hi
  have : ∀ j : Fin 2, atEdge.spadStop [] ((val atEdge (.s 16)).toNat + j.val * elSize .f32) (elSize .f32) false = none := by
    decide +kernel
  exact this ⟨i, hi⟩

/-- The same load with only its third element active. -/
def atEdgeMasked : State := { atEdge with crew := { atEdge.crew with vregs := [(0, 4)] } }

theorem witness_FirstFaultTruncates_masked : ∃ v, vShape (.vldff (.v 1) (.s 16) (.s 0) true .f32) = some v ∧ VReady atEdgeMasked v ∧
    (let e := captured atEdgeMasked (.vldff (.v 1) (.s 16) (.s 0) true .f32) v
     active e atEdgeMasked true = [false, false, true, false] ∧ e.bufs = [] ∧
       atEdgeMasked.spadStop [] ((val atEdgeMasked (.s 16)).toNat + 2 * elSize .f32) (elSize .f32) false =
         some (.trap { code := fltSpadRange, addr := 0x300000 }) ∧
       atEdgeMasked.vecRoom e [(.spad atEdgeMasked.crew.coreIx, e.sA.toNat, e.sA.toNat + 2 * elSize .f32, false)] = .ok ()) :=
  ⟨_, rfl, vready _ _ (by decide +kernel), by decide +kernel⟩

/-- A load of four elements of a run of 64 bytes, from 56, from 64 on, and over a bad sub-beat at 64 in a longer run. -/
def atRunEnd (a : Word) : State := withR runBase [(16, a)]

theorem witness_FirstFaultTruncates_run : ∃ v, vShape (.vld (.v 1) (.s 16) (.s 20) false .f32) = some v ∧ VReady (atRunEnd 56) v ∧
    VReady (atRunEnd 64) v ∧ RunNamed (atRunEnd 56) (val (atRunEnd 56) (.s 20)) 3 run ∧ MayRead (atRunEnd 56) run ∧
    (∀ x, (atRunEnd 56).ctxOf (atRunEnd 56).crew.ctx = some x → x.trc = none) ∧ 2 < (atRunEnd 56).thr.csr.vl.toNat ∧
    (let e := captured (atRunEnd 56) (.vld (.v 1) (.s 16) (.s 20) false .f32) v
     (active e (atRunEnd 56) false).getD 2 false = true ∧ run.len * run.recSize < 56 + (2 + 1) * elSize .f32 ∧
       (∀ j, j < 2 → 56 + (j + 1) * elSize .f32 ≤ run.len * run.recSize ∧
         (atRunEnd 56).extBad run.ext (56 + j * elSize .f32) (elSize .f32) = none) ∧
       (atRunEnd 56).vecRoom e [(.run (atRunEnd 56).crew.ctx 3, 56, 56 + 2 * elSize .f32, false)] = .ok ()) ∧
    run.len * run.recSize < 64 + 1 * elSize .f32 ∧
    ({ atRunEnd 56 with dramBad := [0x40000000 / 64 + 1] } : State).extBad run.ext (56 + 2 * elSize .f32) (elSize .f32) ≠ none := by
  refine ⟨_, rfl, vready _ _ (by decide +kernel), vready _ _ (by decide +kernel),
    ⟨rfl, rfl, rfl, by decide +kernel, by decide, by decide, rfl, _, rfl, rfl⟩, .inr ⟨rfl, rfl, rfl⟩, ?_, by decide +kernel,
    by decide +kernel, by decide, by decide +kernel⟩
  intro x e
  cases e
  rfl

/-- A gather whose every element is one byte too far, tried first and tried again. -/
def farGather : State := withR base [(16, 0x300000)]

theorem witness_CompletionMask : ∃ v, vShape (.vgaths (.v 1) (.s 16) (.v 2) false .f32) = some v ∧ VReady farGather v ∧
    farGather.thr.vq = [] ∧ farGather.lag = 0 ∧ farGather.crew.spec = none ∧ Unwatched farGather ∧
    farGather.thr.csr.vl.toNat ≤ farGather.mvl ∧ farGather.slack = 0 ∧ farGather.thr.unperf = [] ∧ farGather.thr.cover = false ∧
    (let e := captured farGather (.vgaths (.v 1) (.s 16) (.v 2) false .f32) v
     0 < e.vl ∧ (active e farGather false).getD 0 false = true ∧ farGather.thr.cmask.getLsbD 0 = false ∧
       farGather.farStop e.bufs true (elemAddr e farGather 0) (elSize .f32) false ≠ none ∧
       farGather.vecRoom e [(.spad farGather.crew.coreIx, 0x300000, 0x300004, false)] = .ok ()) ∧
    ((Opd.v 1) ≠ .v 2 ∨ elSize .f32 = 4) ∧ ¬((Opd.v 1) ≠ .v 1 ∨ elSize .f16 = 4) :=
  ⟨_, rfl, vready _ _ (by decide +kernel), rfl, rfl, rfl, unwatched _ probeCtx rfl rfl, by decide +kernel, rfl, rfl, rfl, by decide +kernel,
    by decide, by decide⟩

theorem witness_GatherWindow : runBase.thr.vq = [] ∧ runBase.lag = 0 ∧ VlSettled runBase ∧ runBase.mvl * 4 ≥ runBase.thr.csr.vl.toNat ∧
    Readable runBase (.s 1) ∧ Readable runBase (.s 2) ∧ Readable runBase (.s 20) ∧ RunNamed runBase (val runBase (.s 20)) 3 run ∧
    MayRead runBase run ∧ (val runBase (.s 1)).toNat % 256 = 0 ∧ (val runBase (.s 1)).toNat + runBase.thr.csr.vl.toNat ≤ 0x300000 ∧
    (val runBase (.s 2)).toNat + runBase.thr.csr.vl.toNat ≤ run.len * run.recSize ∧
    runBase.windowBuf (val runBase (.s 1)).toNat runBase.thr.csr.vl.toNat = none ∧
    runBase.extBad run.ext 0 4 = none ∧ Unwatched runBase ∧ (val runBase (.s 1)).toNat < 2 ^ 22 ∧ (val atEdge (.s 16)).toNat % 256 ≠ 0 ∧
    runBase.vecRoom queued [(.run runBase.crew.ctx 3, 0, 4, false), (.spad runBase.crew.coreIx, 0, 4, true)] = .ok () :=
  ⟨rfl, rfl, by unfold VlSettled; decide +kernel, by decide +kernel, readable _ _ rfl, readable _ _ rfl, readable _ _ rfl, runNamed,
    .inr ⟨rfl, rfl, rfl⟩, by decide +kernel, by decide +kernel, by decide +kernel, by decide +kernel, by decide +kernel,
    unwatched _ _ rfl rfl, by decide +kernel, by decide +kernel, by decide +kernel⟩

theorem witness_VectorFrames : ([1] : List Byte) ≠ [] ∧ 0x2FFFFF + [1].length ≤ 0x300000 ∧ base.crew.coreIx < 128 ∧ base.slack = 0 ∧
    base.thr.unperf = [] ∧ base.crew.speculating = false ∧ (∃ sp, speculative.crew.spec = some sp ∧ sp.oldest = false) ∧
    0 < 8 ∧ ({ base with slack := 1 } : State).slack ≠ 0 :=
  ⟨by decide, by decide, by decide +kernel, rfl, rfl, rfl, ⟨_, rfl, rfl⟩, by decide, by decide⟩

/-! ### Interval instructions -/

theorem witness_IntervalResults : (∃ op p, forwardForm (.iadd (iv 3) (iv 1) (iv 31)) = some (iv 3, iv 1, iv 31, op, p)) ∧
    (∃ x, contractForm (.csqr (iv 5) (iv 3)) = some (iv 5, iv 3, iv 3, x)) ∧
    (∃ f, compareForm (.icmpCz (pr 7) (iv 0)) = some (pr 7, iv 0, iv 0, f)) ∧ base.thr.histSpace 4 = true :=
  ⟨⟨_, _, rfl⟩, ⟨_, rfl⟩, ⟨_, rfl⟩, rfl⟩

theorem witness_IntervalMovesAndSets : base.thr.histSpace 3 = true ∧ Readable base (.s 16) ∧ Writable base (.s 16) ∧
    (base.thr.ivGet 0).1 = false ∧ (3 : Fin 32) ≠ 4 ∧ base.thr.vq = [] :=
  ⟨rfl, readable _ _ rfl, writable _ _ rfl, by decide +kernel, by decide, rfl⟩

theorem witness_IntervalMovesAndSets_sets : ∀ p, p ∈ [some (FVal.fin false 1 0, FVal.fin false 2 0), (none : IvV)] →
    ∀ l h, p = some (l, h) → l.isNan = false ∧ h.isNan = false := by
  intro p hp l h e
  subst e
  simp only [List.mem_cons, List.not_mem_nil, or_false, Option.some.injEq, Prod.mk.injEq, reduceCtorEq] at hp
  obtain ⟨rfl, rfl⟩ := hp
  exact ⟨rfl, rfl⟩

/-! ### Runs and the run engine -/

/-- Runs 3 (8 records), 4 and 5 (empty) of context 1, their handles in s20 to s23. -/
def runs : State :=
  withR { base with
    ctxs := [{ probeCtx with cab := [(3, run), (4, { run with len := 0, ext := none, cap := 0 }), (5, { run with len := 0, ext := none, cap := 0 })] }]
    exts := [{ id := 9, ctx := 1, slot := 1, epoch := 0, beats := [], va := 0, parts := [(0x40000000, 65536)], bytes := 65536,
                die := 0, home := 0, place := false, data := [(0, 1)] }] }
    [(20, 0x10003), (21, 0x10004), (22, 0x10005), (26, 0x10003), (27, 2), (28, 0), (30, 0x11000), (31, 0x10004)]

def emptyRun : CabEntry := { run with len := 0, ext := none, cap := 0 }

/-- Extents are found, whichever pages are taken, where the pools of the context have one free stretch. -/
theorem newExt_one (s : State) (ctx : BitVec 16) (e : CabEntry) (n : Nat) (p : Nat × Nat) (m : Mem) (l : List (Nat × Nat))
    (hf : s.poolFree ctx e.pageBytes = [p]) (ht : takeParts n [p] = some l) (hl : n ≤ s.poolLeft ctx)
    (hc : ∀ x : Extent, x.die = e.die → x.home = e.home → x.place = e.place → x.bytes = n → s.channelsHold x = true) :
    (s.newExt ctx e n m).isSome = true := by
  unfold State.newExt
  split
  · rfl
  · have hr : ([p].drop ((Config.extentPa s.fresh).toNat % ([p].length + 1)) ++
        [p].take ((Config.extentPa s.fresh).toNat % ([p].length + 1))) = [p] := by
      have h : (Config.extentPa s.fresh).toNat % 2 = 0 ∨ (Config.extentPa s.fresh).toNat % 2 = 1 := by omega
      rcases h with h | h <;> simp [h]
    simp only [hf, hr, ht]
    rw [if_pos ⟨hl, hc _ rfl rfl rfl rfl⟩]
    rfl

theorem runs_room (x : Extent) (hd : x.die = run.die) (hh : x.home = run.home) (hp : x.place = run.place) (hb : x.bytes = 65536) :
    runs.channelsHold x = true := by
  have h : ∀ die ch, x.inChannel die ch = (if run.die ≠ die then 0 else if run.home.toNat = ch then 65536 else 0) := by
    intro die ch
    unfold Extent.inChannel
    rw [hd, hh, hp, hb]
    rfl
  unfold State.channelsHold
  simp only [List.map_cons, List.sum_cons, h, hd]
  decide +kernel

theorem names3 : RunNamed runs (val runs (.s 20)) 3 run := ⟨rfl, rfl, rfl, by decide +kernel, by decide, by decide, rfl, _, rfl, rfl⟩
theorem names4 : RunNamed runs (val runs (.s 21)) 4 emptyRun := ⟨rfl, rfl, rfl, by decide +kernel, by decide, by decide, rfl, _, rfl, rfl⟩
theorem names5 : RunNamed runs (val runs (.s 22)) 5 emptyRun := ⟨rfl, rfl, rfl, by decide +kernel, by decide, by decide, rfl, _, rfl, rfl⟩

theorem tokenReady (s : State) (n : Fin 56) (rs : Ranges)
    (h : (s.ops.isEmpty && s.thr.vq.isEmpty && s.thr.held.isNone) = true) (h0 : n ≠ 0)
    (hr : s.ilockRoom rs = .ok ()) : TokenReady s (.s n) rs := by
  simp only [Bool.and_eq_true, List.isEmpty_iff, Option.isNone_iff_eq_none] at h
  have hw := writable s n (by simp [h.1.1, h.1.2])
  refine ⟨hw, ?_, h.1.2, by simp [h.1.1], by simp [h.2], by simp [h.1.1], hr⟩
  intro e
  exact h0 (Fin.ext e)

theorem witness_RunOperationIssue : ∃ v, runShape (.rsplice (.s 24) (.s 22) (.s 20)) = some v ∧
    RunNames v runs (5, emptyRun) [(3, run), (4, emptyRun)] ∧ v.ok (v.ctl runs) emptyRun [run, emptyRun] ∧ RunEngineFree runs ∧
    TokenReady runs v.tok (runRs runs [(5, emptyRun)] [(3, run), (4, emptyRun)]) := by
  refine ⟨_, rfl, ⟨by decide, readable _ _ rfl, readable _ _ rfl, fun _ _ => readable _ _ rfl, names5, ⟨rfl, rfl, rfl, rfl⟩, ?_⟩, ?_,
    by unfold RunEngineFree; decide, tokenReady _ _ _ rfl (by decide) (by decide +kernel)⟩
  · exact .cons ⟨names3, .inr ⟨rfl, rfl, rfl⟩⟩ (.cons ⟨names4, .inr ⟨rfl, rfl, rfl⟩⟩ .nil)
  · intro x hx
    rcases List.mem_cons.1 hx with rfl | hx
    · exact ⟨rfl, rfl, rfl⟩
    · rcases List.mem_singleton.1 hx with rfl
      exact ⟨rfl, rfl, rfl⟩

/-- The same thread as the computer of a trio, whose rings ka3 and kb3 are empty. -/
def merging : State :=
  { runs with crew := { runs.crew with trio := true, ldn := 2, stn := 2, count := 3, mvl := 4096 }
              thr := { runs.thr with role := .computer, idx := 1 } }

theorem witness_RunOperationIssue_user : MergeOk 7 (val merging (.s 30)) emptyRun.keySize emptyRun.recSize ∧ InOrder false emptyRun ∧
    merging.crew.trio = true ∧ merging.thr.role = .computer ∧ VlSettled merging ∧ merging.thr.csr.vl ≠ 0 ∧ merging.crew.lend = none ∧
    merging.crew.rings[(3 : Fin 8)] = [] ∧ merging.crew.rings[(7 : Fin 8)] = [] ∧
    (∀ t ∈ merging.mates, ∀ e ∈ t.vq, 3 ∉ e.named ∧ 7 ∉ e.named) ∧
    TokenReady merging (.s 24) (runRs merging [(5, emptyRun)] [(4, emptyRun)]) :=
  ⟨by unfold MergeOk; decide +kernel, .inl rfl, rfl, rfl, by unfold VlSettled; decide +kernel, by decide +kernel, rfl, rfl, rfl,
    by decide, tokenReady _ _ _ rfl (by decide) (by decide +kernel)⟩

theorem witness_RunOperationIssue_rpart : opdNum (.s 26) + 2 ≤ 55 ∧ (val runs (reg 27)).toNat = 2 ∧ opdNum (.s 21) + 2 ≤ 56 ∧
    RunNamed runs (val runs (reg (21 + 0))) 4 emptyRun ∧ RunNamed runs (val runs (reg (21 + 1))) 5 emptyRun ∧ [4, 5].Nodup ∧
    SameFmt run emptyRun ∧ (val runs (reg 28)).toNat % 8 = 0 ∧ (val runs (reg 28)).toNat + 8 * (2 - 1) ≤ 0x300000 ∧ Unwatched runs ∧
    runs.bufBad runs.crew.coreIx runs.crew.ctx 0 8 false = none :=
  ⟨by decide, by decide +kernel, by decide, names4, names5, by decide, ⟨rfl, rfl, rfl⟩, by decide +kernel, by decide +kernel,
    unwatched _ _ rfl rfl, by decide +kernel⟩

/-- Two records of eight bytes, in key order. -/
def recs : List (List Byte) := [[1, 0, 0, 0, 9, 0, 0, 0], [2, 0, 0, 0, 8, 0, 0, 0]]

theorem witness_RunOperationResults : (0 : Word).getLsbD 32 = false ∧ (∀ x ∈ recs, x.length = run.recSize) ∧ run.keySize + 4 ≤ run.recSize ∧
    [4, 5].length = [(7 : Word)].length + 1 ∧ recs.Pairwise (fun x y => recLe run false x y = true) ∧ run.ksz = run.ksz ∧
    (∀ x ∈ recs, x.length = run.recSize ∧ run.keySize ≤ run.recSize) ∧ recs.length < 2 ^ 32 := by decide +kernel

/-- The control words of rtag with SWAP, and of a combining merge with one value lane beside a key of four bytes. -/
theorem witness_RunOperationResults_combine : (0x100000000 : Word).getLsbD 32 = true ∧
    MergeOk 4 0x11000 ({ run with rsz := 1 } : CabEntry).keySize ({ run with rsz := 1 } : CabEntry).recSize ∧
    MergeOk 1 0x11000 run.keySize run.recSize ∧ MergeOk 6 0 run.keySize run.recSize ∧
    MergeOk 2 0x8011000 ({ run with rsz := 1 } : CabEntry).keySize ({ run with rsz := 1 } : CabEntry).recSize ∧
    SameFmt run emptyRun ∧ run.ksz = emptyRun.ksz ∧ run.keySize + 4 ≤ emptyRun.recSize := by
  refine ⟨by decide, by unfold MergeOk; decide +kernel, by unfold MergeOk; decide +kernel, by unfold MergeOk; decide +kernel,
    by unfold MergeOk; decide +kernel, ⟨rfl, rfl, rfl⟩, rfl, by decide⟩

/-- A splice of run 3 alone into run 4, pending. -/
def splice : Op :=
  { id := 7, kind := .run .splice [4] [{ idx := 3, ver := 1, ext := some 9, len := 8 }] 0 [] none, tok := .live 1 0 24
    crew := 1, thread := 0, ctx := 1, owner := 1, core := 0, translate := false, pages := [], ts := 0, slot := 0, pc := 0x40 }

def splicing : State := { runs with ops := [splice] }

theorem witness_RunOperationEnd : splicing.ops.find? (fun x => x.id == splice.id) = some splice ∧ splice.translate = false ∧
    splicing.live = true ∧ splicing.crew.id = splice.crew ∧ splicing.crew.ctx = splice.ctx ∧ splicing.crew.spec = none ∧
    (∃ m, splicing.globalRun splice.ctx 4 = some (emptyRun, m)) ∧ (∃ m, splicing.globalRun splice.ctx 3 = some (run, m)) ∧
    emptyRun.st = .opened ∧ splicing.extBad (some 9) 0 64 = none ∧
    ({ splicing with dramBad := [0x40000000 / 64] } : State).extBad (some 9) 0 64 ≠ none ∧
    (∀ m, (splicing.publish splice.ctx 4 8 .unsorted m).isSome = true) := by
  refine ⟨by decide +kernel, rfl, rfl, rfl, rfl, rfl, ⟨_, rfl⟩, ⟨_, rfl⟩, rfl, by decide +kernel, by decide +kernel, fun m => ?_⟩
  have h := newExt_one splicing 1 emptyRun 65536 (0x40010000, 0x50000000) m [(0x40010000, 65536)] (by decide +kernel) (by decide +kernel)
    (by decide +kernel) runs_room
  have hg : splicing.globalRun splice.ctx 4 = some (emptyRun, []) := by decide +kernel
  have hb : emptyRun.capFor 8 * emptyRun.recSize = 65536 := by decide +kernel
  unfold State.publish
  rw [hg]
  simp only [hb]
  obtain ⟨⟨x, t⟩, he⟩ := Option.isSome_iff_exists.1 h
  rw [show splice.ctx = (1 : BitVec 16) from rfl, he]
  rfl

/-- A sort of run 3 into itself, in order already. -/
theorem witness_RunOperationEnd_inPlace :
    let o : Op := { splice with kind := .run (.sort false) [3] [{ idx := 3, ver := 1, ext := some 9, len := 8 }] 0 [1] none }
    ({ runs with ops := [o] } : State).ops.find? (fun x => x.id == o.id) = some o ∧ o.translate = false ∧
      (∃ kt, RunFn.sort false = .sort kt ∧ [(1 : Word)] = [1]) ∧ ({ run with st := .published } : CabEntry).st ≠ .opened := by
  refine ⟨by decide +kernel, rfl, ⟨_, rfl, rfl⟩, by decide⟩

/-- Entry 6 was closed and is free; its index is not yet used again. -/
def freedEntry : State :=
  withR { runs with ctxs := [{ probeCtx with cab := [(6, { emptyRun with live := false, st := .closed })] }] } [(1, 0x10006)]

theorem witness_CabinetInstructions_closed : freedEntry.crew.spec = none ∧
    (val freedEntry (.s 1)).toNat = ({ emptyRun with live := false, st := .closed } : CabEntry).gen.toNat * 2 ^ 16 + 6 ∧
    ∃ x, freedEntry.ctxOf freedEntry.crew.ctx = some x ∧ kvGet x.cab 6 = some { emptyRun with live := false, st := .closed } :=
  ⟨rfl, by decide +kernel, _, rfl, rfl⟩

theorem witness_CabinetInstructions : runs.thr.vq = [] ∧ Readable runs (.s 1) ∧ Writable runs (.s 2) ∧ runs.crew.spec = none ∧
    (val runs (.s 1)).extractLsb' 43 21 = 0 ∧ (val runs (.s 1)).getLsbD 3 = false ∧ (val runs (.s 0)).toNat < 2 ^ 36 ∧
    runs.freeIndex runs.crew.ctx = some 1 ∧ (runs.newExt runs.crew.ctx run 0 []).isSome = true ∧
    (runs.newExt runs.crew.ctx run 65536 []).isSome = true :=
  ⟨rfl, readable _ _ rfl, writable _ _ rfl, rfl, by decide +kernel, by decide +kernel, by decide +kernel, by decide +kernel,
    by decide +kernel, newExt_one runs 1 run 65536 (0x40010000, 0x50000000) [] [(0x40010000, 65536)] (by decide +kernel) (by decide +kernel)
      (by decide +kernel) runs_room⟩

theorem witness_CabinetInstructions_named : RunNamed runs (val runs (.s 20)) 3 run ∧ run.st = .opened ∧ runs.thr.unperf = [] ∧
    runs.thr.held = none ∧ (∀ o ∈ runs.ops, o.ctx ≠ runs.crew.ctx) ∧ { run with st := .published }.st = .published ∧
    { run with st := .closed }.st = .closed ∧ opdNum (.s 52) + 3 ≤ 55 ∧ (∀ k, k ≤ 3 → Writable runs (reg (52 + k))) ∧
    attrOk 0 = true ∧ emptyRun.len = 0 ∧ MayWrite runs emptyRun :=
  ⟨names3, rfl, rfl, rfl, by decide, rfl, rfl, by decide, fun _ _ => writable _ _ rfl, by decide +kernel, rfl, rfl, rfl, rfl, rfl⟩

/-! ### Queues and tasks -/

/-- A stream of 1 KiB in SRAM with one record, and a Settle armed at 64 records. -/
def stream : BEntry :=
  { live := true, gen := 1, kind := .stream, rsz := 0, res := false, home := 0, die := 0, quota := 1, inSram := true, spill := none
    closed := false, recs := [{ data := List.replicate 8 1, arrival := 0, origin := 5, spilled := false }], arm := none
    eligible := false, promoted := false, claims := [], fired := 0, seq := 0, touched := 0, launchQ := none }

def expert : BEntry :=
  { stream with kind := .expert, rsz := 1, eligible := true
                arm := some { age := 9, cls := 1, thr := 1, entry := 0x40, arg := 0, ddl := 0 } }

/-- Queues 2 (stream), 3 (expert) and 4 (task) of context 1, their handles in s20 to s22. -/
def queues : State :=
  withR { base with dram := codeMem, ctxs := [{ probeCtx with
    bureau := [(2, stream), (3, expert), (4, { stream with kind := .task, recs := [] })] }] }
    [(20, 0x10002), (21, 0x10003), (22, 0x10004), (24, 0x100000003), (32, 1), (33, 0x40)]

theorem names_stream : QueueNamed queues (val queues (.s 20)) 2 stream :=
  ⟨by decide +kernel, by decide, by decide, rfl, .inr rfl, _, rfl, rfl⟩

theorem names_expert : QueueNamed queues (val queues (.s 21)) 3 expert :=
  ⟨by decide +kernel, by decide, by decide, rfl, .inr rfl, _, rfl, rfl⟩

theorem witness_QueueInstructions : queues.thr.vq = [] ∧ queues.crew.spec = none ∧ Readable queues (.s 24) ∧
    (∀ c, queues.ctxOf queues.crew.ctx = some c → c.trc = none ∧ c.rpl = none) ∧ Writable queues (.s 25) ∧ opdNum (.s 25) ≠ 0 ∧
    DescOk queues (val queues (.s 24)) ∧ queues.freeQueueIndex queues.crew.ctx = some 1 ∧ (val queues (.s 24)).getLsbD 21 = false ∧
    (newQueue queues (val queues (.s 24)) 1 none).quota.toNat * 1024 ≤ queues.poolLeft queues.crew.ctx := by
  refine ⟨rfl, rfl, readable _ _ rfl, ?_, writable _ _ rfl, by decide, by unfold DescOk; decide +kernel, by decide +kernel,
    by decide +kernel, by decide +kernel⟩
  intro c e
  cases e
  exact ⟨rfl, rfl⟩

/-- The stream with its record in a spill run whose first sub-beat is bad. -/
def spilledStream : BEntry := { stream with spill := some 3, recs := [{ data := List.replicate 8 1, arrival := 0, origin := 5, spilled := true }] }
def badSpill : State := { badBeat with ctxs := [{ probeCtx with cab := [(3, run)], bureau := [(2, spilledStream)] }] }

theorem witness_QueueInstructions_bad : queues.takeBad (qref queues 2) stream none 4 = none ∧
    badSpill.takeBad (qref badSpill 2) spilledStream none 4 = some (0x40000000 / 64) ∧ spilledStream.recs ≠ [] ∧
    QueueNamed (withR badSpill [(20, 0x10002)]) (val (withR badSpill [(20, 0x10002)]) (.s 20)) 2 spilledStream ∧
    (newQueue queues (val (withR queues [(24, 0x100200003)]) (.s 24)) 1 none).pinned = true ∧
    queues.sramUsed queues.crew.die 0 (fun x => x.2.pinned) + 1 ≤ 256 ∧
    ((queues.setQueue 1 1 (newQueue queues 0x100200003 1 none)).swapIn (qref queues 1) (newQueue queues 0x100200003 1 none)).isSome = true :=
  ⟨by decide +kernel, by decide +kernel, by decide, ⟨by decide +kernel, by decide, by decide, rfl, .inr rfl, _, rfl, rfl⟩, by decide +kernel,
    by decide +kernel, by decide +kernel⟩

theorem witness_QueueInstructions_named : QueueNamed queues (val queues (.s 20)) 2 stream ∧ VReady queues (pushShape (.v 1) (.s 20)) ∧
    VReady queues (takeShape (.v 1) (.s 20)) ∧ queues.lag = 0 ∧ stream.closed = false ∧ Resident stream ∧
    queues.thr.csr.vl.toNat * (8 * 2 ^ stream.rsz.toNat) ≤ queues.mvl * 4 ∧
    0 < Nat.min (pushEntry queues (.v 1) (.s 20)).vl (queues.queueRoom (qref queues 2) stream) ∧ stream.recs ≠ [] ∧ stream.arm = none ∧
    stream.launchQ = none ∧ stream.inSram = true ∧ Writable queues (reg 54) ∧ Writable queues (reg 55) :=
  ⟨names_stream, vready _ _ (by decide +kernel), vready _ _ (by decide +kernel), rfl, rfl, .inl rfl, by decide +kernel, by decide +kernel,
    by decide, rfl, rfl, rfl, writable _ _ rfl, writable _ _ rfl⟩

theorem witness_QueueInstructions_arm : QueueNamed queues (val queues (.s 21)) 3 expert ∧ expert.kind = .expert ∧ opdNum (.s 32) + 2 ≤ 55 ∧
    (val queues (.s 32)).extractLsb' 16 16 = 0 ∧ (val queues (.s 32)).extractLsb' 10 4 = 0 ∧ (val queues (.s 32)).extractLsb' 0 10 ≠ 0 ∧
    (val (withR queues [(32, 0x500000001)]) (.s 32)).extractLsb' 32 32 ≠ 0 ∧ (val queues (.s 33)).toNat % 4 = 0 ∧
    (∃ g, queues.codeObj queues.crew.ctx (val queues (.s 33)) = .good g) ∧
    ((val queues (.s 32)).extractLsb' 0 10).toNat ≤ expert.quota.toNat ∧ expert.inSram = true ∧ expert.arm ≠ none ∧
    queues.codeBad queues.crew.ctx (val queues (.s 33)) = none ∧ expert.pinned = true :=
  ⟨names_expert, rfl, by decide, by decide +kernel, by decide +kernel, by decide +kernel, by decide +kernel, by decide +kernel,
    ⟨0, by decide +kernel⟩, by decide +kernel, rfl, by decide, by decide +kernel, by decide +kernel⟩

/-- One record on its way to the stream. -/
def pushing : State :=
  { queues with pushes := [{ id := 6, q := { ctx := 1, idx := 2 }, recs := [List.replicate 8 3], origin := 0, thread := 4, slot := 0
                             ordinal := 0 }] }

theorem witness_QueueEvents : pushing.queueAt { ctx := 1, idx := 2 } = some stream ∧ stream.live = true ∧
    (∀ c ∈ pushing.ctxs, c.trc = none ∧ c.rpl = none) ∧ pushing.pushes ≠ [] ∧ stream.inSram = true := by decide +kernel

/-- Spilled records that can be read, and one in a bad sub-beat. -/
theorem witness_QueueEvents_spill : pushing.spillBad { ctx := 1, idx := 2 } stream 0 (Nat.min 127 (stream.recs.countP QRec.spilled)) = none ∧
    badSpill.queueAt { ctx := 1, idx := 2 } = some spilledStream ∧ spilledStream.live = true ∧
    (∀ c ∈ badSpill.ctxs, c.trc = none ∧ c.rpl = none) ∧
    badSpill.spillBad { ctx := 1, idx := 2 } spilledStream 0 (Nat.min 127 (spilledStream.recs.countP QRec.spilled)) = some (0x40000000 / 64) := by
  decide +kernel

/-- The stream's segment in its backing, with a thread that has missed it. -/
def swapped : BEntry := { stream with inSram := false }
def missing : State := { base with ctxs := [{ probeCtx with bureau := [(2, swapped)] }], misses := [(1, 2)] }

theorem witness_QueueEvents_miss : missing.queueAt { ctx := 1, idx := 2 } = some swapped ∧ swapped.live = true ∧
    (∀ c ∈ missing.ctxs, c.trc = none ∧ c.rpl = none) ∧ swapped.inSram = false ∧
    (missing.missesOn swapped.die).head? = some { ctx := 1, idx := 2 } ∧
    (missing.swapIn { ctx := 1, idx := 2 } swapped).isSome = true := by decide +kernel

theorem witness_QueueEvents_settle : queues.queueAt { ctx := 1, idx := 3 } = some expert ∧ expert.live = true ∧ expert.arm ≠ none ∧
    expert.recs ≠ [] ∧ causeOf expert = some 1 ∧ queues.settleNext 0 = some { ctx := 1, idx := 3 } ∧ expert.spill = none ∧
    ({ ctx := 1, idx := 3 }, expert) ∈ queues.segments ∧ (queues.segments.map Prod.fst).Nodup := by decide +kernel

theorem witness_TimestampedTasks_tspawn : queues.thr.vq = [] ∧ Readable queues (.s 22) ∧ Readable queues (.s 32) ∧ Writable queues (.s 25) ∧
    opdNum (.s 32) + 3 ≤ 55 ∧ (∀ k, k ≤ 3 → Readable queues (reg (32 + k))) ∧
    QueueNamed queues (val queues (.s 22)) 4 { stream with kind := .task, recs := [] } ∧ (val queues (reg 33)).toNat % 4 = 0 ∧
    queues.codeBad queues.crew.ctx (val queues (reg 33)) = none ∧
    (∃ g, queues.codeObj queues.crew.ctx (val queues (reg 33)) = .good g) :=
  ⟨rfl, readable _ _ rfl, readable _ _ rfl, writable _ _ rfl, by decide, fun _ _ => readable _ _ rfl,
    ⟨by decide +kernel, by decide, by decide, rfl, .inr rfl, _, rfl, rfl⟩, by decide +kernel, by decide +kernel, 0, by decide +kernel⟩

/-- A task waiting on die 0, and the speculative task in front. -/
def task : TTask :=
  { id := 5, ctx := 1, die := 0, ts := 7, qno := 4, seq := 0, entry := 0x40, count := 4, regs := [(1, 4), (3, 9)], claim := none
    spawner := none, core := 0, slot := 0, kept := none, ddl := 0, placed := false, oldest := false, st := .waiting }

def tasks : State := { queues with live := false, crew := Crew.init, thr := Thread.init, tasks := [task] }

theorem witness_TimestampedTasks_dispatch : tasks.taskNext 0 = some task ∧ tasks.taskCfg task = some 0 ∧
    tasks.slotTakes 0 0 0 0 = true ∧ tasks.rplOf task.ctx = none ∧ task.regs = [(1, BitVec.ofNat 64 task.count), (3, 9)] := by
  decide +kernel

theorem witness_TimestampedTasks_order : (∀ x ∈ [task], x.oldest = false) ∧ [task].Pairwise (fun x y => taskKeyLt y x = false) ∧
    { task with oldest := true }.oldest = true ∧ taskKeyLt { task with ts := 6 } task = true := by decide

/-- The task in front is the first of its die: it becomes the oldest, and commits once it has retired. -/
def running : State := { speculative with tasks := [{ task with st := .running }] }

theorem witness_TimestampedTasks_commit : running.frontTask 0 = some { task with st := .running } ∧ task.oldest = false ∧
    running.live = true ∧ (∃ sp, running.crew.spec = some sp ∧ sp.task = task.id) ∧ running.others = [] ∧
    (∀ c ∈ running.ctxs, c.trc = none ∧ c.rpl = none) ∧ Readable running (.s 1) ∧ val (withR running [(1, 3)]) (.s 1) ≠ 0 ∧
    (∀ x ∈ running.tasks, x.spawner = none) ∧ running.taskSaved 5 = false ∧ running.rplOf task.ctx = none ∧
    { task with st := .retired }.st = .retired :=
  ⟨by decide +kernel, rfl, rfl, ⟨_, rfl, rfl⟩, rfl, by decide, readable _ _ rfl, by decide +kernel, by decide, by decide +kernel,
    by decide +kernel, rfl⟩

/-- The first task of its die, whose crew is saved. -/
def savedTask : State := { tasks with
  tasks := [{ task with st := .running }]
  ctxs := [{ probeCtx with st := .saved, saved := [{
    area := 0, die := 0, core := 0, slot := 0, crewId := 1, resume := true, kept := speculative.crew, threads := [base.thr], need := 0
    complete := true }] }] }

theorem witness_TimestampedTasks_saved : savedTask.frontTask 0 = some { task with st := .running } ∧ savedTask.rplOf task.ctx = none ∧
    task.oldest = false ∧ savedTask.taskSaved task.id = true := by decide +kernel

/-- A task placed behind an irrevocable one that is not yet its place, and one that stands there already. -/
theorem witness_TimestampedTasks_placed : { task with oldest := true, ts := 9 }.oldest = true ∧
    taskKeyLt task { task with oldest := true, ts := 9 } = true ∧ (∀ y ∈ [{ task with placed := true, ts := 6 }], y.placed = true) ∧
    (∀ y z, [task] = y :: z → y.placed = false) := by
  refine ⟨rfl, by decide, by decide, fun y z h => ?_⟩
  cases h
  rfl

/-- A task that has retired before it is the oldest, with what its crew held back. -/
def heldTask : State := { tasks with tasks := [{ task with st := .retired, kept := some speculative.crew }] }

theorem witness_TimestampedTasks_kept : heldTask.frontTask 0 = some { task with st := .retired, kept := some speculative.crew } ∧
    (∃ sp, speculative.crew.spec = some sp ∧ sp.task = task.id) ∧ (∀ d ∈ heldTask.crewsHeld, d.runs task.id = true → d = speculative.crew) ∧
    (∀ p ∈ heldTask.crews, p.1.id ≠ speculative.crew.id) ∧ heldTask.taskSaved task.id = false :=
  ⟨by decide +kernel, ⟨_, rfl, rfl⟩, by decide +kernel, by decide +kernel, by decide +kernel⟩

theorem witness_ForkAndJoin : (20 : Fin 56) ≠ 0 ∧ (1 : Fin 56) ≠ 0 ∧ (20 : Fin 56) ≠ 1 ∧ base.crew.trio = false ∧ base.thr.lgCnt = 16 ∧
    Readable base (.s 1) ∧ Writable base (.s 20) ∧ Writable base (.s 21) ∧ base.thr.vq = [] ∧ base.thr.role = .solo ∧
    base.rplOf base.crew.ctx = none ∧ base.thr.csr.wb.toNat ≤ 27 ∧ (∀ m ∈ base.mates, m.idx ≠ base.thr.idx) ∧
    (∀ m ∈ base.thr :: base.mates, m.idx ≠ 1) ∧ (4 : BitVec 5).toNat < 8 :=
  ⟨by decide, by decide, by decide, rfl, rfl, readable _ _ rfl, writable _ _ rfl, writable _ _ rfl, rfl, rfl, rfl, by decide, by decide,
    by decide +kernel, by decide⟩

/-- A parent whose child has joined, and the child itself. -/
def parent : State :=
  { base with thr := { base.thr with lgCnt := 8 }
              mates := [{ base.thr with idx := 1, parent := some 0, depth := 1, lgBase := 8, lgCnt := 8, life := .atJoin }] }
def child : State := { base with thr := { base.thr with idx := 1, parent := some 0, depth := 1 }, mates := [base.thr] }

theorem witness_ForkAndJoin_join : parent.crew.trio = false ∧ (match parent.lastChild with | some k => k.life == .atJoin | none => false) = true ∧ parent.thr.vq = [] ∧
    child.lastChild = none ∧ child.thr.parent ≠ none ∧ child.thr.unperf = [] ∧ child.thr.held = none ∧ child.awaitsToken = false ∧
    base.lastChild = none ∧ base.thr.parent = none :=
  ⟨rfl, by decide +kernel, rfl, by decide +kernel, by decide, rfl, rfl, by decide +kernel, by decide +kernel, rfl⟩

/-! ### Engines, buffers, storage and the fabric -/

/-- A buffer of 256 bytes at 0, id 2, in a state. -/
def buf (st : BufSt) : Buf := { core := 0, ctx := 1, id := 2, base := 0, size := 256, comp := false, st := st, outs := 1, keep := true }

/-- Runs and one buffer; s32 to s34 hold run 3, offset 0 and buffer id 2, s36 a copy of 64 bytes in, s37 out. -/
def copying (st : BufSt) : State :=
  withR { runs with bufs := [buf st] } [(32, 0x10003), (33, 0), (34, 2), (36, 64), (37, 0x8000000000000040)]

theorem tripleRead (s : State) (a b : Fin 56) (h : (s.ops.isEmpty && s.thr.vq.isEmpty) = true) (hb : b.val + 2 ≤ 55) :
    TripleRead s (.s a) (.s b) :=
  ⟨hb, readable s a h, readable s b h, fun _ _ => readable s _ h⟩

theorem witness_TransferIssue_cpy : TripleRead (copying .empty) (.s 36) (.s 32) ∧ Unwatched (copying .empty) ∧
    RunNamed (copying .empty) (val (copying .empty) (reg 32)) 3 run ∧ BufferNamed (copying .empty) (val (copying .empty) (reg 34)) (buf .empty) ∧
    CpyOk (val (copying .empty) (.s 36)) run (buf .empty) 0 ∧ CpyOk (val (copying .full) (.s 37)) run (buf .full) 0 ∧
    (val (copying .full) (.s 37)).getLsbD 63 = true ∧ (val (copying .empty) (.s 36)).getLsbD 63 = false ∧ MayWrite (copying .full) run ∧
    MayRead (copying .empty) run ∧ (buf .full).st = .full ∧ (buf .empty).st = .empty ∧
    TokenReady (copying .empty) (.s 24) [(.run 1 3, 0, 64, false), (.spad 0, 0, 64, true)] :=
  ⟨tripleRead _ _ _ rfl (by decide), unwatched _ _ rfl rfl, ⟨rfl, rfl, rfl, by decide +kernel, by decide, by decide, rfl, _, rfl, rfl⟩,
    ⟨by decide +kernel, by decide +kernel⟩, by unfold CpyOk; decide +kernel, by unfold CpyOk; decide +kernel, by decide +kernel,
    by decide +kernel, ⟨rfl, rfl, rfl, rfl⟩, .inr ⟨rfl, rfl, rfl⟩, rfl, rfl, tokenReady _ _ _ rfl (by decide) (by decide +kernel)⟩

theorem witness_TransferIssue_cpyd : (val (copying .empty) (.s 36)).extractLsb' 61 3 = 0 ∧ (val (copying .empty) (.s 36)).extractLsb' 32 26 = 0 ∧
    ((val (copying .empty) (.s 36)).extractLsb' 58 3).toNat ≤ 2 ∧ 0 + 64 ≤ run.len * run.recSize ∧
    TokenReady (copying .empty) (.s 24) [(.run 1 3, 0, 64, false), (.spad 0, 0, 256, true)] :=
  ⟨by decide +kernel, by decide +kernel, by decide +kernel, by decide +kernel, tokenReady _ _ _ rfl (by decide) (by decide +kernel)⟩

/-- A transposition of 128 bytes at 0 to 256, and a fill of one byte at the scratchpad's last line. -/
theorem witness_TransferIssue_bxform : XformOk 0x8000000002 0 256 ∧ XformOk 0x100000000 0 0x2FFFC0 ∧ xCmd 0x100000000 < 2 ∧
    TokenReady base (.s 24) [(.spad 0, 0, 128, false), (.spad 0, 256, 384, true)] ∧ base.bufBad 0 1 0 128 false = none ∧
    base.bufBad 0 1 256 128 true = none :=
  ⟨by unfold XformOk; decide +kernel, by unfold XformOk; decide +kernel, by decide, tokenReady _ _ _ rfl (by decide) (by decide +kernel),
    by decide +kernel, by decide +kernel⟩

/-- A queue pair of depth 2, the least, of 4 KiB blocks, and a buffer of one block. -/
def pair : NvmeQp :=
  { drive := 0, qp := 0, ctx := 1, die := 0, core := 0, depth := 2, sq := 0x100000, nsid := 1, lba := 512, sqDb := 0, cqDb := 0, tail := 0, head := 0, phase := true
    out := [], err := 0 }

def storing (st : BufSt) : State :=
  withR { base with bufs := [{ buf st with size := 512 }], nvme := [pair] } [(32, 0x100000000), (33, 5), (34, 2), (36, 1), (37, 0x4000000000000001)]

theorem witness_TransferIssue_storage : TripleRead (storing .empty) (.s 36) (.s 32) ∧
    BufferNamed (storing .empty) (val (storing .empty) (reg 34)) { buf .empty with size := 512 } ∧
    (storing .empty).qpOf (val (storing .empty) (reg 32)) = some pair ∧ (val (storing .empty) (.s 36)).extractLsb' 57 7 = 0 ∧
    (val (storing .full) (.s 37)).extractLsb' 58 3 = 0 ∧ (val (storing .full) (.s 37)).extractLsb' 32 25 = 0 ∧ 1 * pair.lba ≤ 512 ∧
    (storing .empty).storageOverlap (val (storing .empty) (reg 32)) 5 1 = false ∧ pair.out.length + 1 < pair.depth ∧
    TokenReady (storing .empty) (.s 24) [(.spad 0, 0, 512, true)] :=
  ⟨tripleRead _ _ _ rfl (by decide), ⟨by decide +kernel, by decide +kernel⟩, by decide +kernel, by decide +kernel, by decide +kernel,
    by decide +kernel, by decide, by decide +kernel, by decide, tokenReady _ _ _ rfl (by decide) (by decide +kernel)⟩

theorem witness_Buffers : Readable base (.s 16) ∧ Writable base (.s 22) ∧ (256 : Word).extractLsb' 32 32 = 0 ∧ (256 : Word).extractLsb' 22 9 = 0 ∧
    256 ≤ (256 : Word).toNat % 2 ^ 22 ∧ 0x2FFF00 % 256 = 0 ∧ 0x2FFF00 + 256 ≤ 0x300000 ∧ 0x300000 < 0x300000 + 256 ∧ 0x40 % 256 ≠ 0 ∧
    (255 : Word).toNat % 2 ^ 22 % 256 ≠ 0 ∧ (∀ y ∈ base.bufs, y.core ≠ 0) ∧ base.crew.spec = none ∧
    base.buf? base.crew.coreIx base.crew.ctx 255 = none ∧ base.thr.unperf = [] ∧ base.thr.held = none ∧
    (∃ y ∈ (copying .empty).bufs, y.core = (copying .empty).crew.coreIx ∧ 0 < y.base + y.size ∧ y.base < 256) :=
  ⟨readable _ _ rfl, writable _ _ rfl, by decide, by decide, by decide, by decide, by decide, by decide, by decide, by decide,
    by decide, rfl, by decide +kernel, rfl, rfl, buf .empty, by decide, by decide +kernel, by decide, by decide⟩

theorem witness_Buffers_table : ∀ id, id < 256 → ∃ y ∈ (List.range 256).map fun i => { buf .empty with id := i, base := 256 * i },
    y.core = 0 ∧ y.id = id := by
  intro id h
  exact ⟨_, List.mem_map.2 ⟨id, List.mem_range.2 h, rfl⟩, rfl, rfl⟩

/-- A pending copy in, a pending copy out, a bxform and a storage read. -/
def pendingOp (k : OpKind) : Op :=
  { id := 7, kind := k, tok := .live 1 0 24, crew := 1, thread := 0, ctx := 1, owner := 1, core := 0, translate := false, pages := [], ts := 0, slot := 0, pc := 0x40 }

def bound3 : Bound := { idx := 3, ver := 1, ext := some 9, len := 8 }

def ending (st : BufSt) (k : OpKind) : State := { copying st with ops := [pendingOp k] }

theorem witness_TransferEnd : (ending .filling (.cpy 64 bound3 0 2)).ops.find? (fun y => y.id == 7) = some (pendingOp (.cpy 64 bound3 0 2)) ∧
    (ending .filling (.cpy 64 bound3 0 2)).buf? 0 1 2 = some (buf .filling) ∧ (64 : Word).getLsbD 63 = false ∧
    (ending .filling (.cpy 64 bound3 0 2)).fillFree (pendingOp (.cpy 64 bound3 0 2)) 0 256 = true ∧ (buf .filling).comp = false ∧
    (ending .filling (.cpy 64 bound3 0 2)).extBad bound3.ext 0 64 = none ∧
    ({ ending .filling (.cpy 64 bound3 0 2) with dramBad := [0x40000000 / 64] } : State).extBad bound3.ext 0 64 ≠ none ∧
    (∀ c, (ending .filling (.cpy 64 bound3 0 2)).opCrew (pendingOp (.cpy 64 bound3 0 2)) = some c →
      c.speculating = false ∧ c.heldBack = [] ∧ c.coreIx = 0 ∧ c.ctx = 1) := by
  refine ⟨by decide +kernel, by decide +kernel, by decide, by decide +kernel, rfl, by decide +kernel, by decide +kernel, ?_⟩
  intro c h
  have e : (ending .filling (.cpy 64 bound3 0 2)).opCrew (pendingOp (.cpy 64 bound3 0 2)) = some (copying .filling).crew := by decide +kernel
  rw [e] at h
  cases h
  decide +kernel

/-- The fill of a speculative task, and one that must wait for a copy-out of its bytes. -/
theorem witness_TransferEnd_waits :
    (∃ sp, speculative.crew.spec = some sp ∧ sp.oldest = false) ∧ speculative.live = true ∧ speculative.crew.id = 1 ∧
      (∀ p ∈ speculative.others, p.1.id ≠ 1) ∧ ((ending .filling (.cpy 64 bound3 0 2)).ext? bound3.ext).isSome = true ∧
      ({ ending .filling (.cpy 64 bound3 0 2) with
        ops := [{ pendingOp (.bxform 0x8000000002 0 256 0 { todo := [], kept := [], fl := 0 }) with id := 6 },
          pendingOp (.cpy 64 bound3 0 2)] } : State).fillFree (pendingOp (.cpy 64 bound3 0 2)) 0 256 = false :=
  ⟨⟨_, rfl, rfl⟩, rfl, rfl, by decide, by decide +kernel, by decide +kernel⟩

theorem witness_TransferEnd_out : (0x8000000000000040 : Word).getLsbD 63 = true ∧ 0 < (0x8000000000000040 : Word).toNat % 2 ^ 32 ∧
    logical (ending .draining (.cpy 0x8000000000000040 bound3 0 2)) 0 1 (buf .draining) 64 = some (List.replicate 64 0) ∧
    List.replicate 64 (0 : Byte) ≠ [] ∧ ((ending .draining (.cpy 0x8000000000000040 bound3 0 2)).ext? bound3.ext).isSome = true ∧
    (((ending .draining (.cpy 0x8000000000000040 bound3 0 2)).extPut 9 0 (List.replicate 64 0)).globalRun 1 3).isSome = true := by
  decide +kernel

/-- R221: an empty DEFLATE stream expands, and one that ends before its final block does not. -/
theorem witness_TransferEnd_cpyd : (expandStream 1 [3, 0] 256).2 = true ∧ (expandStream 1 [] 256).2 = false ∧ XformOk 0x8000000002 0 256 ∧
    (∀ i ∈ [0, 1], 64 * i < xOut 0x8000000002) ∧ xCmd 0x8000000002 = 2 := by
  refine ⟨by decide +kernel, by decide +kernel, ?_, by decide +kernel, by decide⟩
  unfold XformOk; decide +kernel

/-- A storage read of one block, sent by the queue pair. -/
def reading : State := { ending .filling (.sread 1 0x100000000 5 2) with nvme := [{ pair with out := [7] }] }

theorem witness_TransferEnd_storage : (reading.nvme.find? fun y => y.out.contains 7) = some { pair with out := [7] } ∧
    (List.replicate 512 (0 : Byte)).length = (1 : Word).toNat % 2 ^ 32 * pair.lba ∧ reading.buf? 0 1 2 = some (buf .filling) ∧ (∀ y ∈ storing .empty |>.ops, y.id ≠ 7) := by
  decide +kernel

/-- A message of 64 bytes over one hop, one without data that rings a signal, and one of eight records. -/
def sending : State :=
  withR (copying .full) [(41, 64), (42, 2), (43, 0x10003), (44, 0), (45, 0x4000000000000000)]

theorem witness_FabricMessages_xput : 1 ≤ (40 : BitVec 6).toNat ∧ (40 : BitVec 6).toNat ≤ 50 ∧ sending.crew.spec = none ∧ Unwatched sending ∧
    FabricOk (val sending (reg 41)) { leg0 := .hop 0 1, leg1 := .null, leg2 := .null } ∧
    (∀ i, 1 ≤ i → i ≤ 5 → Readable sending (reg (40 + i))) ∧ (val sending (reg 41)).extractLsb' 30 2 = 0 ∧
    BufferNamed sending (val sending (reg 42)) (buf .full) ∧ 64 ≤ (buf .full).size ∧ (val sending (reg 45)).toNat / 2 ^ 32 = 2 ^ 30 ∧
    (val sending (reg 45)).toNat % 8 = 0 ∧ 64 * 8 ≤ 512 ∧
    TokenReady sending (regOf6 40) [(.spad 0, 0, 64, false)] :=
  ⟨by decide, by decide, by decide +kernel, unwatched _ _ rfl rfl, by unfold FabricOk; decide +kernel, fun _ _ _ => readable _ _ rfl,
    by decide +kernel, ⟨by decide +kernel, by decide +kernel⟩, by decide, by decide +kernel, by decide +kernel, by decide,
    tokenReady _ _ _ rfl (by decide) (by decide +kernel)⟩

/-- A message that has arrived, and one at a relay. -/
def message (r : Route) : Msg := { id := 8, op := 7, route := r, ridx := 0, relays := 3, link := none, data := List.replicate 64 5, delivered := none, ordinal := 0 }

def arrived : State :=
  { ending .draining (.xput 64 { leg0 := .null, leg1 := .null, leg2 := .null } (some 2) 0x10003 0 0) with
    stage := 2, msgs := [message { leg0 := .null, leg1 := .null, leg2 := .null }], relay := State.reset.relay.set 0 0x8000000000030C30 }

theorem witness_FabricMessages_deliver : arrived.msgs.find? (fun y => y.id == 8) = some (message { leg0 := .null, leg1 := .null, leg2 := .null }) ∧
    2 ≤ arrived.stage.toNat ∧ arrived.msgBehind (message { leg0 := .null, leg1 := .null, leg2 := .null })
      (pendingOp (.xput 64 { leg0 := .null, leg1 := .null, leg2 := .null } (some 2) 0x10003 0 0)) = false ∧
    (arrived.globalRun 1 3).isSome = true ∧ run.live = true ∧ run.mayWrite (arrived.ownerOf 1) = true ∧ 0 % run.recSize = 0 ∧
    64 % run.recSize = 0 ∧ 0 + 64 ≤ run.cap * run.recSize ∧ (∀ p ∈ arrived.pushes, p.id ≠ 8) := by decide +kernel

/-- Every package of the fabric in service. -/
@[irreducible] def allPkgs : List (BitVec 9) := (List.range 512).map (BitVec.ofNat 9)

theorem allPkgs_mem (c : BitVec 9) : c ∈ allPkgs := by
  unfold allPkgs
  exact List.mem_map.2 ⟨c.toNat, List.mem_range.2 c.isLt, BitVec.eq_of_toNat_eq (by simp)⟩

/-- A message that leaves in direction +X, whose second port is in service. -/
def outward : Route := { leg0 := .hop 0 0, leg1 := .null, leg2 := .null }
def leaving : State :=
  { ending .draining (.xput 64 outward (some 2) 0x10003 0 0) with
    stage := 2, fabric := allPkgs, msgs := [message outward], ports := State.reset.ports.set 1 { Port.init with trained := true } }

theorem leaving_way : leaving.noWay (message outward) = false := by
  have hf : leaving.fabric = allPkgs := rfl
  have h : leaving.fabric.contains (leaving.pkgOf (hopFrom leaving.xyz 0)) = true := by
    rw [hf]
    exact List.contains_iff_mem.2 (allPkgs_mem _)
  have hl : leaving.linkUp leaving.xyz 0 = true := by decide +kernel
  have hp : leaving.pathOk leaving.xyz [0] = true := by
    show (leaving.linkUp leaving.xyz 0 && leaving.fabric.contains (leaving.pkgOf (hopFrom leaving.xyz 0)) && true) = true
    rw [hl, h]
    rfl
  have hr : Route.hops (message outward).route = [0] := by decide +kernel
  unfold State.noWay
  rw [hr, hp]
  decide +kernel

theorem witness_FabricMessages_leave : leaving.msgBehind (message outward) (pendingOp (.xput 64 outward (some 2) 0x10003 0 0)) = false ∧
    leaving.badMsg (message outward) (pendingOp (.xput 64 outward (some 2) 0x10003 0 0)) = none ∧
    leaving.endsHere outward = false ∧ outward.leg0 = .hop 0 0 ∧ leaving.portFor 0 = some 1 ∧
    { leaving with stage := 1 }.noWay (message outward) = true := by
  refine ⟨by decide +kernel, ?_, by decide +kernel, rfl, by decide +kernel, by decide +kernel⟩
  unfold State.badMsg
  rw [if_neg (by rw [leaving_way]; decide)]
  decide +kernel

theorem witness_FabricMessages_pushed : (∃ p ∈ pushing.pushes, p.id = 6) ∧
    ({ message outward with delivered := some 0, link := some 1 } : Msg).delivered = some 0 ∧ (∀ p ∈ leaving.pushes, p.id ≠ 8) := by
  decide +kernel

theorem witness_FabricMessages_relay : (message { leg0 := .relay, leg1 := .null, leg2 := .null }).route.leg0 = .relay ∧
    (arrived.relay[Fin.ofNat 64 0]).getLsbD 63 = true ∧ (message { leg0 := .relay, leg1 := .null, leg2 := .null }).relays < 4 ∧
    Route.ofCode ((arrived.relay[Fin.ofNat 64 0]).extractLsb' 0 18) = some { leg0 := .null, leg1 := .null, leg2 := .null } ∧
    (State.reset.relay[Fin.ofNat 64 1]).getLsbD 63 = false := by decide +kernel

theorem witness_FabricMessages_xsend : pushing.queueAt { ctx := 1, idx := 2 } = some stream ∧ stream.kind = .stream ∧ stream.closed = false ∧
    (8 : Word).toNat % 2 ^ 22 * stream.recSize ≤ 256 ∧ 0 < Nat.min 8 (pushing.queueRoom { ctx := 1, idx := 2 } stream) ∧
    stream.die = (8 : Word).extractLsb' 30 2 := by decide +kernel

/-- Messages that another package sends: 64 bytes to run 3, two records to queue 2, whose room is that of their bytes. -/
def inbound (ctl h : Word) : Inbound := { ctx := 1, ctl := ctl, handle := h, off := 0, sig := 0, data := List.replicate 64 5, ts := 3 }
def receiving : State := { queues with stage := 2 }

theorem witness_FabricMessages_inbound : 2 ≤ arrived.stage.toNat ∧ State.reset.stage.toNat < 2 ∧ (64 : Word).toNat % 2 ^ 22 ≤ (inbound 64 0x10003).data.length ∧
    (arrived.globalRun 1 3).isSome = true ∧ arrived.opCrew (arrived.inboundOp (inbound 64 0x10003)) = none ∧
    (arrived.ext? run.ext).isSome = true ∧ (arrived.ctxs.all fun c => !c.translate) = true ∧
    2 ≤ receiving.stage.toNat ∧ ({ receiving with fresh := receiving.fresh + 1 } : State).queueAt { ctx := 1, idx := 2 } = some stream ∧
    (0x10002 : Word).toNat = stream.gen.toNat * 65536 + 2 ∧ stream.die = (2 : Word).extractLsb' 30 2 ∧
    (2 : Word).toNat % 2 ^ 22 * stream.recSize ≤ (inbound 2 0x10002).data.length ∧
    0 < Nat.min 2 (({ receiving with fresh := receiving.fresh + 1 } : State).queueRoom { ctx := 1, idx := 2 } stream) :=
  ⟨by decide +kernel, by decide +kernel, by decide +kernel, by decide +kernel, by decide +kernel, by decide +kernel, by decide +kernel, by decide +kernel, by decide +kernel, by decide +kernel, by decide +kernel, by decide +kernel, by decide +kernel⟩

/-- A message of eight records whose buffer could not be expanded to its end; one that rings a signal of this package, of
another package and of another context; and a run that may not be written. -/
theorem witness_FabricMessages_lost : ({ message outward with data := [] } : Msg).data.length < (8 : Word).toNat % 2 ^ 22 * stream.recSize ∧
    (0x800000 : Word).getLsbD 23 = true ∧ (0x4000000002800000 : Word).extractLsb' 23 9 ≠ signals.pkg ∧
    (0x4000000000000000 : Word).extractLsb' 23 9 = signals.pkg ∧ signals.sigMine 1 0x4000000000000000 = true ∧
    signals.sigMine 1 0x4000000000001000 = false ∧ ({ run with st := .published } : CabEntry).mayWrite 1 = false ∧
    run.cap * run.recSize < 0xFFC0 + 128 := by decide +kernel

/-! ### The front end, the scheduler and the package -/

/-- Host memory with one packet: ENTRY 0x40, 100 elements on die 0, DDL 1024, DONE a signal of the context. -/
def packet : List Byte :=
  leBytes 8 0x10000000000 ++ leBytes 8 0x40 ++ leBytes 8 100 ++ leBytes 8 1024 ++ leBytes 8 0 ++ leBytes 8 0x4000000000000000 ++
    List.replicate 208 0

def front : State :=
  { base with
    live := false, crew := Crew.init, thr := Thread.init, dram := codeMem, host := Mem.put [] (2 * 2 ^ 56) packet, sigOwn := [(0, 1)], ctxs := [probeCtx]
    queues := [{ State.reset.lq 0 with en := true, ctx := 1, tail := 1 }] }

theorem packet_words : packetWord packet 0 = 0x10000000000 ∧ packetWord packet 1 = 0x40 ∧ packetWord packet 2 = 100 ∧
    packetWord packet 5 = 0x4000000000000000 ∧ front.host.bytes (2 * 2 ^ 56) 256 = packet := by decide +kernel

theorem witness_LaunchEvents_read : front.stage ≠ 0 ∧ (front.lq 0).en = true ∧ (front.lq 0).head ≠ (front.lq 0).tail ∧ (front.lq 0).pending = none ∧
    ¬badHeader front (packetWord packet 0) (packetWord packet 2) ∧ badHeader front 0 0 ∧ addressesOk front 1 packet ∧
    front.codeObj 1 (packetWord packet 1) = .good 0 ∧ (0x100000 : BitVec 21).toNat = 0x100000 + 32 * (0 : BitVec 12).toNat := by
  obtain ⟨w0, w1, w2, w5, -⟩ := packet_words
  refine ⟨by decide +kernel, by decide +kernel, by decide +kernel, by decide +kernel, ?_, ?_, ?_, ?_, by decide⟩
  · rw [w0, w2]; unfold badHeader; decide +kernel
  · unfold badHeader; decide +kernel
  · refine ⟨by decide +kernel, by rw [w1]; decide, by rw [w1]; decide +kernel, by rw [w1]; decide +kernel, by rw [w5]; decide +kernel, ?_⟩
    rw [packetPrqs, w0]
    intro x hx
    exact absurd hx (by simp)
  · rw [w1]; decide +kernel

/-- The packet as the queue holds it. -/
def waiting : Packet :=
  { slot := 0, ctx := 1, entry := 0x40, n := 100, ddl := 1024, ts := 0, done := 0x4000000000000000, args := List.replicate 12 0, prqs := []
    dies := 1, prio := 0, crews := 0, trio := false, count := 0, cfg := 0 }

def headed : State := { front with queues := [{ State.reset.lq 0 with en := true, ctx := 1, tail := 1, head := 1, pending := some waiting }] }

theorem witness_LaunchEvents_start : (headed.lq 0).pending = some waiting ∧ headed.isFirstHead 0 = true ∧
    headed.canStart waiting = true ∧ 0 < waiting.n ∧ waiting.slots ≠ [] ∧ headed.rplOf waiting.ctx = none ∧ waiting.entry.toNat < 2 ^ 56 ∧
    { headed with dieRdy := 0 }.canStart waiting = false ∧ (∀ c ∈ headed.crews, c.1.spec = none) ∧ (headed.crews.map fun c => c.1.id).Nodup ∧
    0 < 1 ∧ 0 < crewsOf waiting.crews ∧ (diesOf waiting.dies)[0]? = some 0 := by decide +kernel

theorem witness_LaunchEvents_resume : saved.ctxOf 1 ≠ none ∧ (match saved.ctxOf 1 with
    | some c => c.saved.any fun x => x.area == 0
    | none => false) = true := by decide +kernel

/-- The saved crew as one that has yielded, its slot free. -/
def resumable : State :=
  { saved with
    live := false, crew := Crew.init, thr := Thread.init
    ctxs := [{ trapped with st := .saved, saved := [{
      area := 0, die := 0, core := 0, slot := 0, crewId := 1, resume := true, kept := base.crew, threads := [base.thr], need := 0
      complete := true }] }, { probeCtx with ctx := 2, owner := 2, cab := [(3, pool)] }] }

def resumed (s : State) : Option (Ctx × SavedCrew) :=
  (s.ctxOf 1).bind fun c => (c.saved.find? fun x => x.area == 0).map fun a => (c, a)

theorem witness_LaunchEvents_resumes : (resumed resumable).isSome = true ∧
    ((resumed resumable).any fun p => resumable.canResume p.2 { die := 0, core := 0, slot := 0 }) = true ∧
    ((resumed resumable).any fun p => resumable.canResume p.2 { die := 1, core := 0, slot := 0 }) = false ∧
    (match resumable.restoreCrew 1 0 0 0 with | .ok _ => true | .error _ => false) = true ∧
    (match ({ resumable with dramBad := [0x40000000 / 64] } : State).restoreCrew 1 0 0 0 with | .error (.uncorr _) => true | _ => false) = true ∧
    front.codeBad 1 0x40 = none ∧ ({ front with dramBad := [0x20000 / 64] } : State).codeBad 1 0x40 ≠ none := by decide +kernel

/-- A crew that must yield: its thread ready, its vector queue not empty, before its save begins and once it has. -/
def yielding : State :=
  { busy with crew := { busy.crew with prq := true, ddl := 9 }, thr := { busy.thr with life := .ready } }
def yielded : State :=
  { yielding with crew := { yielding.crew with ddl := 0, stop := some { reason := 0, fault := none, dbg := false, area := none } } }

theorem witness_CrewEvents_yield : yielding.focusCrew 1 = some yielding ∧ yielding.crew.stop = none ∧
    (∀ t ∈ yielding.team, t.sleep ≠ none ∨ t.life ≠ .run) ∧ yielding.crew.prq = true ∧ (∃ t ∈ yielding.team, t.vq ≠ []) ∧
    yielded.focusCrew 1 = some yielded ∧ (∃ st, yielded.crew.stop = some st ∧ st.reason = 0) ∧ (∃ t ∈ yielded.team, t.vq ≠ []) ∧
    yielded.crew.ddl = 0 ∧ ({ yielded with thr := base.thr } : State).team.all (fun t => t.vq.isEmpty) = true ∧
    ({ yielded.crew with stop := some { reason := 1, fault := none, dbg := false, area := none } } : Crew).stop ≠ none := by
  refine ⟨rfl, rfl, ?_, rfl, ⟨_, List.mem_cons_self, by decide⟩, rfl, ⟨_, rfl, rfl⟩, ⟨_, List.mem_cons_self, by decide⟩, rfl,
    by decide +kernel, by decide⟩
  intro t ht
  rcases List.mem_cons.1 ht with rfl | ht
  · exact .inr (by decide)
  · cases ht

theorem witness_CrewEvents : base.focusCrew 1 = some base ∧ base.crew.stop = none ∧ (base.team.any fun t => t.sleep == none && t.life == .run) = true ∧
    base.crew.prq = false ∧ base.crew.stepping = none ∧ ({ base.crew with stepping := some 4 } : Crew).stepping = some 4 ∧ base.mates = [] ∧
    base.ops = [] ∧ base.pushes = [] :=
  ⟨rfl, rfl, by decide +kernel, rfl, rfl, rfl, rfl, rfl, rfl⟩

theorem witness_CrewEvents_save : Savable trapBase trapped :=
  ⟨rfl, rfl, rfl, rfl, rfl, rfl, rfl, rfl, rfl, rfl, rfl, by decide +kernel, rfl, 9, pool, by decide +kernel, by decide +kernel,
    by decide +kernel⟩

/-- A thread that sleeps on a zero word, one with a held store, one with a committed store, one at a breakpoint. -/
def sleeper : State := { signals with thr := { signals.thr with sleep := some (.waitc 0x4000000000000000 1 16 none) } }
def watched : State :=
  { base with ctxs := [{ probeCtx with dbg := some false, brks := [{ slot := 0, kind := 1, addr := 0x40, len := 0 }] }] }

theorem witness_CrewEvents_threads : sleeper.focus { crew := 1, idx := 0 } = some sleeper ∧ sleeper.thr.sleep ≠ none ∧
    sleeper.crew.heldBack = [] ∧ sleeper.ctxOf sleeper.crew.ctx ≠ none ∧
    (0x4000000000000000 : Word).extractLsb' 23 9 = sleeper.pkg ∧ watched.breaks watched.crew.ctx watched.thr = true ∧ watched.thr.sleep = none ∧
    watched.thr.life = .run ∧ watched.crew.stop = none ∧ Due watched ∧ base.breaks base.crew.ctx base.thr = false :=
  ⟨rfl, by decide, rfl, by decide +kernel, by decide, by decide +kernel, rfl, rfl, rfl, ⟨rfl, rfl, rfl⟩, by decide +kernel⟩

/-- A thread that sleeps on a word of host memory, and on a table. -/
theorem witness_CrewEvents_sleeps : (Sleep.waitc 0x8000000000000000 1 16 none).words = [0x8000000000000000] ∧
    (0x8000000000000000 : Word).toNat / 2 ^ 62 = 2 ∧ (table.waitTable 0 2).length ≤ 64 ∧
    (∀ e ∈ table.waitTable 0 2, e.1.toNat / 2 ^ 62 = 1 → e.1.extractLsb' 23 9 = table.pkg) := by
  rw [table_entries]
  refine ⟨rfl, by decide, by decide, fun e he _ => ?_⟩
  rcases List.mem_cons.1 he with rfl | he
  · decide +kernel
  · rcases List.mem_singleton.1 he with rfl
    decide +kernel

def storePending : State := { base with thr := { base.thr with unperf := [{ target := .spad 0, ext := none, va := 0, pages := [], lo := 0, hi := 1, cells := [(0, [1])], interval := 0, seq := 0 }] } }

theorem witness_CrewEvents_stores : storePending.focus { crew := 1, idx := 0 } = some storePending ∧ storePending.thr.held = none ∧
    (∀ x ∈ storePending.thr.unperf, x.cells ≠ []) ∧ storePending.thr.unperf ≠ [] :=
  ⟨rfl, rfl, by decide, by decide⟩

theorem witness_PackageEvents : 1 ≤ base.stage.toNat ∧ base.deadDies.getLsbD (0 : BitVec 2).toNat = false ∧ ({ base with stage := 1 } : State).stage = 1 ∧
    (23 : BitVec 5).toNat < 24 ∧ (base.ports[0]).retired = false ∧ (base.ports[0]).trained = false ∧
    ({ Port.init with trained := true } : Port).trained = true ∧ (∀ k, k < 6 → temp 0 k < 115) ∧ 115 ≤ temp 115 0 ∧
    (∀ k, k < 6 → temp 0 k < 95) ∧ base.spad.wf = true := by decide +kernel

theorem witness_PackageEvents_scrub : 5 < 2 ^ 29 ∧ base.spadTag.get (5 / 64) = 0 ∧ table.spadTag.get (5 / 64) ≠ 0 ∧
    (table.ctxs.find? fun x => x.owner == table.spadTag.get (5 / 64) && x.st != .killed) = some probeCtx ∧
    probeCtx.st = .running ∧ ({ probeCtx with st := .saved } : Ctx).st ≠ .killed ∧
    ((runBase.extAt (0x1000000 * 64) 64).any fun p => p.1.ctx == 1 && p.2 == 0) = true ∧ runBase.ctxOf 1 ≠ none ∧
    (trapBase.exts.find? fun y => y.parts.any fun p => decide (p.1 < (0x4000 + 1) * 65536) && decide (0x4000 * 65536 < p.1 + p.2)).isSome =
      true := by
  decide +kernel

/-- A vector register word of the crew in front, the registers of its core, and a signal line of its context. -/
theorem witness_PackageEvents_words : (∃ p ∈ base.crews, p.1.coreIx = 0 ∧ p.1.slot.toNat = 0 ∧ 7 < countOf p.1.count ∧ 32767 < p.1.mvl.toNat ∧
      (∀ q ∈ base.crews, q.1.coreIx = 0 → q.1.slot.toNat = 0 → q = p) ∧ ∀ w ∈ p.1.poison, ¬(w.reg = 7 ∧ w.elem = 32767)) ∧
    base.crewIn 0 0 = some base.crew ∧ base.ctxOf base.crew.ctx = some probeCtx ∧ kvGet signals.sigOwn 0 = some 1 ∧
    signals.ctxOf 1 = some probeCtx := by
  refine ⟨⟨(base.crew, base.thr :: base.mates), by decide +kernel, rfl, rfl, by decide +kernel, by decide +kernel, ?_, by decide +kernel⟩,
    by decide +kernel, by decide +kernel, by decide +kernel, by decide +kernel⟩
  intro q hq _ _
  exact List.mem_singleton.1 hq

/-- A command and its effect, and a port with a flit in its retry buffer. -/
def linked : Port := { Port.init with trained := true, sent := [{ seq := 3, msg := some 8, bytes := [1] }] }

theorem witness_PackageEvents_replay : linked.trained = true ∧ linked.fails < 8 ∧ linked.txFails < 8 ∧ linked.retired = false ∧
    (linked.sent.dropWhile fun f => f.seq != 3) ≠ [] ∧ (linked.sent.dropWhile fun f => f.seq != 4) = [] ∧
    ({ base with hold := true } : State).hold = true := by decide

/-- Operands of a command: none set. -/
def noArgs : MbArgs := { tag := 0, rsv := 0, a0 := 0, a1 := 0, a2 := 0, a3 := 0, a4 := 0, a5 := 0, a6 := 0, a7 := 0 }

theorem accepts (s : State) (i : Instr) (op n : Nat) (a : MbArgs) (ms : List Word) (hc : cmdForm i = some (op, n, a, ms))
    (h : (!s.mbox.run && decide (n ≤ s.stage.toNat) && decide (s.dieRdy ≠ 0) && decide (a.rsv = 0) &&
      (List.range 8).all fun k => (mbWords a).getD k 0 &&& ~~~(ms.getD k 0) == 0) = true) : Accepts s i := by
  simp only [Bool.and_eq_true, decide_eq_true_eq, List.all_eq_true, List.mem_range, beq_iff_eq, Bool.not_eq_true'] at h
  exact ⟨op, n, a, ms, hc, h.1.1.1.1, ⟨h.1.1.1.2, .inr h.1.1.2⟩, h.1.2, h.2⟩

theorem witness_MailboxProtocol : cmdForm (.ctxkill noArgs) = some (0x102, 1, noArgs, [0xFFFF]) ∧ base.mbox.run = false ∧
    StageReached base 1 ∧ ¬StageReached State.reset 1 ∧ OperandsOk noArgs [0xFFFF] ∧ ¬OperandsOk { noArgs with a0 := 0x10000 } [0xFFFF] ∧
    (0x102 : Word).toNat % 65536 = 0x102 ∧ (8 : BitVec 21).toNat = 8 * 1 ∧ 0x48 ≤ (0x48 : BitVec 21).toNat ∧
    0x120000 ≤ (0x120000 : BitVec 21).toNat := by
  refine ⟨rfl, rfl, ⟨by decide, .inr (by decide)⟩, fun h => absurd h.1 (by decide), ⟨rfl, by decide⟩, fun h => ?_, by decide, by decide,
    by decide, by decide⟩
  have := h.2 0 (by decide)
  revert this
  decide

theorem witness_MailboxProtocol_unknown : ∀ i o n a ms, cmdForm i = some (o, n, a, ms) → o ≠ (0x7777 : BitVec 16).toNat := by
  intro i o n a ms h
  unfold cmdForm at h
  split at h <;> first | (cases h; decide) | cases h

theorem witness_ContextCommands : Accepts base (.resync noArgs) ∧ HostOk base 0 4096 4096 ∧ Accepts base (.fwload { noArgs with a1 := 64 }) ∧
    Accepts base (.ctxnew { noArgs with a0 := 0x10002 }) ∧ base.ctxOf 2 = none ∧ base.ctxs.length < 248 ∧ base.ctxOf 1 ≠ none ∧
    Accepts base (.xlate { noArgs with a0 := 1, a1 := 0x10000 }) ∧ 0x10000 % 2048 = 0 ∧
    Accepts base (.keyload { noArgs with a0 := 1, a1 := 64 }) ∧ HostOk base 64 64 64 ∧ (base.keySlot 1).retired = false ∧
    Accepts front (.purge { noArgs with a0 := 1 }) ∧ (∀ p ∈ front.crews, front.ownerOf p.1.ctx ≠ 1) :=
  ⟨accepts _ _ _ _ _ _ rfl (by decide +kernel), ⟨by decide, by decide, by decide +kernel⟩, accepts _ _ _ _ _ _ rfl (by decide +kernel),
    accepts _ _ _ _ _ _ rfl (by decide +kernel), by decide +kernel, by decide, by decide +kernel,
    accepts _ _ _ _ _ _ rfl (by decide +kernel), by decide, accepts _ _ _ _ _ _ rfl (by decide +kernel),
    ⟨by decide, by decide, by decide +kernel⟩, by decide +kernel, accepts _ _ _ _ _ _ rfl (by decide +kernel), by decide +kernel⟩

theorem witness_ContextCommands_save : Accepts trapBase (.trapset { noArgs with a0 := 0x20001, a1 := 0x40, a2 := 0x10003 }) ∧
    trapBase.driverRun 2 0x10003 ≠ none ∧ Accepts trapBase (.save { noArgs with a0 := 1, a1 := allBits }) ∧ trapBase.crew.ctx = 1 ∧
    trapBase.crew.stop = none ∧ Accepts saved (.restore { noArgs with a0 := 1 }) ∧ Accepts base (.bpool { noArgs with a0 := 1 }) ∧
    base.withdrawn = [] ∧ Accepts base (.evict { noArgs with a0 := 1 }) ∧ Accepts runs (.share { noArgs with a0 := 0x10001, a1 := 0x10003 }) ∧
    runs.driverRun 1 0x10003 = some run ∧ runs.freeIndex 1 = some 1 ∧ Accepts base (.ctxkill { noArgs with a0 := 1 }) ∧
    trapBase.codeBad 2 0x40 = none ∧ ({ trapBase with dramBad := [0x20000 / 64] } : State).codeBad 2 0x40 ≠ none ∧
    (∀ x ∈ trapped.saved, x.crewId ≠ trapBase.crew.id) ∧ trapBase.crew.spec = none :=
  ⟨accepts _ _ _ _ _ _ rfl (by decide +kernel), by decide +kernel, accepts _ _ _ _ _ _ rfl (by decide +kernel), rfl, rfl,
    accepts _ _ _ _ _ _ rfl (by decide +kernel), accepts _ _ _ _ _ _ rfl (by decide +kernel), rfl,
    accepts _ _ _ _ _ _ rfl (by decide +kernel), accepts _ _ _ _ _ _ rfl (by decide +kernel), by decide +kernel, by decide +kernel,
    accepts _ _ _ _ _ _ rfl (by decide +kernel), by decide +kernel, by decide +kernel, by decide, rfl⟩

/-- The saved crew with its slot free, in the image's absence; and the package once a firmware fault has killed the
context. -/
def freeSlot : State := { saved with live := false, crew := Crew.init, thr := Thread.init }
def killedAll : State := { base with ctxs := [{ probeCtx with st := .killed }] }

theorem witness_ContextCommands_restored : (∃ t, RestoredAs freeSlot t 1 0 0) ∧
    { freeSlot with exts := [] }.restoreCrew 1 0 0 0 = .error .incomplete ∧ saved.slotFree 0 0 = false ∧
    (∀ c ∈ killedAll.ctxs, c.st = .killed) ∧ Accepts killedAll (.fwload { noArgs with a1 := 64 }) ∧ HostOk killedAll 0 64 1 ∧
    probeCtx.owner ≠ 0 ∧ (∀ d ∈ base.ctxs, d.ctx ≠ 1 → d.owner ≠ probeCtx.owner) ∧ front.spadTag.wf = true := by
  refine ⟨?_, by decide +kernel, by decide +kernel, by decide, accepts _ _ _ _ _ _ rfl (by decide +kernel),
    ⟨by decide, by decide, by decide +kernel⟩, by decide, by decide, by decide +kernel⟩
  have h : (match freeSlot.restoreCrew 1 0 (BitVec.ofNat 2 (0 / 32)) (BitVec.ofNat 5 (0 % 32)) with
    | .ok _ => true | .error _ => false) = true := by decide +kernel
  split at h
  · rename_i t e
    exact ⟨t, _, _, rfl, rfl, rfl, by decide +kernel, by decide +kernel, by decide +kernel, e⟩
  · cases h

/-- At cycle 0 no slot has cycles to count. -/
theorem slipAll_start (s : State) (h : s.clk = 0) : s.slipAll = s := by
  have one : ∀ core slot, s.slipIdle core slot s.clk = s := by
    intro core slot
    simp [State.slipIdle, h]
  have slots : ∀ core (l : List Nat), l.foldl (fun s2 slot => s2.slipIdle core slot s2.clk) s = s := by
    intro core l
    induction l with
    | nil => rfl
    | cons a l ih => rw [List.foldl_cons, one, ih]
  have cores : ∀ l : List Nat, l.foldl (fun s' core => (List.range 16).foldl (fun s2 slot => s2.slipIdle core slot s2.clk) s') s = s := by
    intro l
    induction l with
    | nil => rfl
    | cons a l ih => rw [List.foldl_cons, slots, ih]
  exact cores _

/-- A stepped crew, and a state with one counter. -/
def stepped : State := { base with crew := { base.crew with stepping := some 0 } }
def counting : State := { base with counters := [Counter.init 0 169] }

theorem witness_DeviceCommands_stepping : stepped.crewAt 1 (0, 0, 0) = some stepped.crew ∧ stepped.focusCrew stepped.crew.id = some stepped ∧
    stepped.crew.stepping = some 0 ∧ stepped.focusIdx (0 % 4) = some stepped ∧ Accepts stepped (.dbgstop { noArgs with a0 := 1 }) ∧
    (counting.slipAll.counters.map fun c => (c.unit, c.ev)).Nodup ∧
    (∀ c ∈ counting.slipAll.counters, eventOk c.unit.toNat c.ev.toNat = true) := by
  rw [slipAll_start counting rfl]
  exact
  ⟨by decide +kernel, rfl, rfl, by decide +kernel, accepts _ _ _ _ _ _ rfl (by decide +kernel), by decide +kernel, by decide +kernel⟩

theorem witness_DeviceCommands_queues : Accepts base (.qbind { noArgs with a0 := 0x10000 }) ∧ base.boundAt 0 = none ∧
    base.freeQueueIndex 1 = some 1 ∧ Accepts base (.qunbind noArgs) ∧ (base.lq 0).head = (base.lq 0).tail ∧
    Accepts base (.nvmeqp { noArgs with a0 := 0x10000, a3 := 0x20000, a6 := 512 }) ∧ 0 + 80 * 2 ≤ 0x300000 ∧
    Accepts (storing .empty) (.nvmeunqp { noArgs with a0 := 0x10000 }) ∧ Accepts (storing .empty) (.nvmeerr { noArgs with a0 := 0x10000 }) ∧
    ((storing .empty).nvme.find? fun y => y.drive == 0 && y.qp == 0) = some pair ∧ pair.ctx = 1 :=
  ⟨accepts _ _ _ _ _ _ rfl (by decide +kernel), by decide +kernel, by decide +kernel, accepts _ _ _ _ _ _ rfl (by decide +kernel), rfl,
    accepts _ _ _ _ _ _ rfl (by decide +kernel), by decide, accepts _ _ _ _ _ _ rfl (by decide +kernel),
    accepts _ _ _ _ _ _ rfl (by decide +kernel), by decide +kernel, rfl⟩

theorem witness_DeviceCommands_counters : Accepts base (.cntcfg { noArgs with a0 := 50 }) ∧ CounterOk noArgs ∧ ¬CounterOk { noArgs with a0 := 255 } ∧
    Accepts base (.cntread noArgs) ∧ Accepts base (.cntclr noArgs) ∧ Accepts base (.cntprog noArgs) ∧ Accepts base (.cntdump noArgs) ∧
    HostOk base 0 552960 4096 ∧ 0 < 16 ∧ 16 ≤ 16 ∧ 16 < 17 ∧ eventOk 0 0 = true ∧ (base.counter 0 0).filt = false ∧
    (base.counters.map fun c => (c.unit, c.ev)).Nodup :=
  ⟨accepts _ _ _ _ _ _ rfl (by decide +kernel), by unfold CounterOk; decide +kernel, by unfold CounterOk; decide +kernel,
    accepts _ _ _ _ _ _ rfl (by decide +kernel), accepts _ _ _ _ _ _ rfl (by decide +kernel), accepts _ _ _ _ _ _ rfl (by decide +kernel),
    accepts _ _ _ _ _ _ rfl (by decide +kernel), ⟨by decide, by decide, by decide +kernel⟩, by decide, by decide, by decide,
    by decide +kernel, by decide +kernel, by decide⟩

theorem witness_DeviceCommands_debug : Accepts runs (.trccfg { noArgs with a0 := 1, a2 := 1, a3 := 0x10003 }) ∧ Accepts base (.dbgattach noArgs) ∧
    Accepts watched (.brkset { noArgs with a0 := 0x10010, a1 := 0x44 }) ∧ Accepts saved (.step { noArgs with a0 := 1 }) ∧
    Accepts base (.dbgstop { noArgs with a0 := 1 }) ∧ base.crewAt 1 (0, 0, 0) = some base.crew ∧ base.focusCrew base.crew.id = some base ∧
    Accepts base (.rplcfg { noArgs with a0 := 1 }) ∧ Accepts base (.pwrread noArgs) ∧ Accepts base (.pwrcap { noArgs with a0 := 1500 }) ∧
    Accepts base (.retire { noArgs with a0 := 23 }) :=
  ⟨accepts _ _ _ _ _ _ rfl (by decide +kernel), accepts _ _ _ _ _ _ rfl (by decide +kernel), accepts _ _ _ _ _ _ rfl (by decide +kernel),
    accepts _ _ _ _ _ _ rfl (by decide +kernel), accepts _ _ _ _ _ _ rfl (by decide +kernel), by decide +kernel, rfl,
    accepts _ _ _ _ _ _ rfl (by decide +kernel), accepts _ _ _ _ _ _ rfl (by decide +kernel), accepts _ _ _ _ _ _ rfl (by decide +kernel),
    accepts _ _ _ _ _ _ rfl (by decide +kernel)⟩

/-! ### Decoding, steps and reset -/

theorem witness_EncodeDecode : (Instr.strip (.s 1) (.s 18) 0 0x1FE).wf = true ∧ encode (.strip (.s 1) (.s 18) 0 0x1FE) = some 0x380491FE := by
  decide +kernel

/-- The first step of a thread placed by withFetchWord: it is the only agent that can move. -/
def adding : State := State.reset.withFetchWord 32 0x02408920

theorem witness_StepRunsDecoded : adding.inputs = [] ∧ (match adding.tick.agents with | [.issue r] => r == { crew := 1, idx := 0 } | _ => false) = true ∧
    adding.tick.focus { crew := 1, idx := 0 } = some adding.tick ∧ adding.tick.fetch.1.toOption = some 0x02408920 ∧
    (Instr.add (.s 16) (.s 17) (.s 18)).wf = true :=
  ⟨rfl, by decide +kernel, rfl, by decide +kernel, by decide⟩

/-- A package in which nothing can move, one with a push on its way alone, a queue whose head alone can commit, and a
thread whose page is not there. -/
def pushOnly : State :=
  { pushing with live := false, crew := Crew.init, thr := Thread.init, ctxs := [{ probeCtx with bureau := [(2, stream)] }] }
def headOnly : State := { busy with thr := { busy.thr with life := .retired } }
def noPage : State := { base with ctxs := [{ probeCtx with root := none }] }

theorem witness_StepRunsDecoded_clauses :
    State.reset.tick.agents.isEmpty = true ∧ State.reset.inputs = [] ∧
    (match pushOnly.tick.agents with | [.event (.qpushArrival n)] => n == 6 | _ => false) = true ∧
    (match headOnly.tick.agents with | [.event (.vectorCommit r)] => r == { crew := 1, idx := 0 } | _ => false) = true ∧
    (match noPage.tick.agents with | [.issue r] => r == { crew := 1, idx := 0 } | _ => false) = true ∧
    (match noPage.tick.fetch.1 with | .error t => t.code == fltPage | .ok _ => false) = true ∧
    (match ({ adding with dramBad := [0x20040 / 64] } : State).tick.fetch.1 with | .error t => t.code == fltUncorr | .ok _ => false) = true ∧
    base.tick.inputWaits .powerGood = false ∧ 64 ≤ (List.replicate 64 queued).length :=
  ⟨by decide +kernel, by decide +kernel, by decide +kernel, by decide +kernel, by decide +kernel, by decide +kernel, by decide +kernel, by decide +kernel, by decide +kernel⟩

theorem witness_MemoryForm : State.reset.memWf = true ∧ (State.reset.withFetchWord 32 0x02408920).memWf = true := by decide +kernel

end Sys2Proof.Tests
end

/-! # Scalar registers (R45) -/
section

namespace Sys2Proof.Machine

/-! ## Which register a name stands for -/

/-- R45: WB is at most 27, so a window never passes backing register 255 and the index does not wrap. -/
theorem Thread.phys_val (t : Thread) (n : Fin 56) (hwb : t.csr.wb.toNat ≤ 27) :
    (t.phys n.val).val = if n.val < 16 then n.val else n.val + 8 * t.csr.wb.toNat := by
  have hlt : (if n.val < 16 then n.val else n.val + 8 * t.csr.wb.toNat) < 272 := by split <;> omega
  exact Nat.mod_eq_of_lt hlt

theorem Thread.phys_inj (t : Thread) (n m : Fin 56) (hwb : t.csr.wb.toNat ≤ 27) :
    t.phys n.val = t.phys m.val ↔ n = m := by
  simp only [Fin.ext_iff, Thread.phys_val _ _ hwb]
  constructor
  · intro h
    split at h <;> split at h <;> omega
  · intro h
    rw [h]

/-! ## What a register reads -/

theorem Thread.get_of_ne_zero (t : Thread) {n : Nat} (h : n ≠ 0) : t.get n = t.regs[t.phys n] := if_neg h

/-- A global register is its own entry of the file; a register of the window is counted from backing register 0, which
stands after the 16 global ones. -/
theorem Thread.get_eq_backing (t : Thread) (n : Fin 56) (hn : 0 < n.val) (hwb : t.csr.wb.toNat ≤ 27) :
    t.get n.val = if n.val < 16 then t.regs.toList.getD n.val 0 else
      (t.regs.toList.drop 16).getD (8 * t.csr.wb.toNat + (n.val - 16)) 0 := by
  have hphys := t.phys_val n hwb
  rw [t.get_of_ne_zero hn.ne', Fin.getElem_fin]
  split at hphys
  case isTrue hglob =>
    rw [if_pos hglob]
    simp [hphys, List.getD_eq_getElem?_getD, show n.val < 272 by omega]
  case isFalse hwin =>
    have hpos : 16 + (8 * t.csr.wb.toNat + (n.val - 16)) = n.val + 8 * t.csr.wb.toNat := by omega
    rw [if_neg hwin]
    simp [hphys, hpos, List.getD_eq_getElem?_getD, show n.val + 8 * t.csr.wb.toNat < 272 by omega]

/-! ## What a write makes of the registers -/

theorem Thread.set_regs (t : Thread) {n : Nat} (v : Word) (h : n ≠ 0) :
    (t.set n v).regs = t.regs.set (t.phys n) v := by
  rw [Thread.set, if_neg h]

/-- A write does not move the window. -/
@[simp] theorem Thread.set_phys (t : Thread) (n m : Nat) (v : Word) : (t.set n v).phys m = t.phys m := by
  simp [Thread.phys]

/-- Distinct names stand for distinct registers, so a write is seen under its own name alone. -/
theorem Thread.get_set (t : Thread) (n m : Fin 56) (v : Word) (hn : n ≠ 0) (hwb : t.csr.wb.toNat ≤ 27) :
    (t.set n.val v).get m.val = if m = n then v else t.get m.val := by
  have hn0 : n.val ≠ 0 := fun h => hn (Fin.ext h)
  by_cases hm : m.val = 0
  · have hmn : m ≠ n := fun h => hn0 (h ▸ hm)
    rw [if_neg hmn, hm, Thread.get_zero, Thread.get_zero]
  · rw [Thread.get_of_ne_zero _ hm, Thread.get_of_ne_zero _ hm]
    simp only [Fin.getElem_fin, Thread.set_phys, Thread.set_regs _ _ hn0, Vector.getElem_set, Fin.val_inj,
      Thread.phys_inj _ _ _ hwb, eq_comm (a := n)]

/-! ## What a write, a merge of flags and the step to the next instruction leave unchanged -/

/-- Recording an undo touches the history buffer alone. -/
theorem Thread.record_frame (t : Thread) (u : Undo) : ∃ h, t.record u = { t with hist := h } := by
  rw [Thread.record]
  split
  · exact ⟨t.hist, rfl⟩
  · exact ⟨_, rfl⟩

theorem Thread.set_frame (t : Thread) (n : Nat) (v : Word) :
    ∃ r h, t.set n v = { t with regs := r, hist := h } := by
  by_cases hn : n = 0
  · exact ⟨t.regs, t.hist, if_pos hn⟩
  · obtain ⟨h, hrec⟩ := t.record_frame (.reg (t.phys n) t.regs[t.phys n])
    exact ⟨t.regs.set (t.phys n) v, h, by rw [Thread.set, if_neg hn, hrec]⟩

/-- A destination that is no scalar register writes nothing. -/
theorem State.put_frame (s : State) (o : Opd) (v : Word) :
    ∃ r h, s.put o v = { s with thr := { s.thr with regs := r, hist := h } } := by
  cases o with
  | s n =>
    obtain ⟨r, h, hset⟩ := s.thr.set_frame n.val v
    exact ⟨r, h, by rw [State.put, hset]⟩
  | ring k => exact ⟨s.thr.regs, s.thr.hist, rfl⟩
  | v n => exact ⟨s.thr.regs, s.thr.hist, rfl⟩

theorem Thread.mergeF_frame (t : Thread) (f : FF) :
    ∃ g, t.mergeF f = { t with fflags := t.fflags ||| f, hist := g } := ⟨_, rfl⟩

/-- Settles O1: the names s1 to s55 stand for distinct registers (`Thread.phys_inj`), which gives the reads after a
write, and each of the three updates has its frame lemma. -/
theorem scalarRegisterWrite : Obligations.ScalarRegisterWrite := by
  unfold Obligations.ScalarRegisterWrite
  refine ⟨fun t v hwb => ⟨t.get_zero, t.set_zero v, fun n hn => t.get_eq_backing n hn hwb,
    fun n m hn => t.get_set n m v hn hwb, fun _ _ => rfl⟩, fun _ _ _ => rfl, fun s o v f => ?_⟩
  obtain ⟨r, h, hput⟩ := s.put_frame o v
  obtain ⟨g, hmerge⟩ := s.thr.mergeF_frame f
  exact ⟨r, h, g, hput, rfl, hmerge⟩

end Sys2Proof.Machine
end

/-! # Integer instructions and the move of the window (R86-R89, R97) -/
section

namespace Sys2Proof.Machine

open Sys2Proof.Spec

/-! ## How the scalar meanings complete -/

/-- The first part of a sequence has answered. -/
theorem R.ok_bind {α β : Type} (x : α) (f : α → R β) : ((.ok x : R α) >>= f) = f x := rfl

/-- The first part of a sequence has faulted. -/
theorem R.flt_bind {α β : Type} (c : Code) (f : α → R β) : ((flt c : R α) >>= f) = flt c := rfl

/-- R86, R88, R89: an integer instruction has completed: the result `f` of its sources a and b in d, the pc at the next
instruction, nothing else changed. -/
def CompletesWith (s : State) (d a b : Opd) (f : Word → Word → Word) (r : Host.Outcome State Fault Refusal) : Prop :=
  r = .next ((s.put d (f (val s a) (val s b))).adv)

/-- `f` is the result as the rules' table writes it, `g` as the meaning does. -/
theorem scalar2_completes {s : State} {d a b : Opd} {f g : Word → Word → Word} (ha : Readable s a) (hb : Readable s b)
    (hd : Writable s d) (hgf : ∀ x y, g x y = f x y) : CompletesWith s d a b f (scalar2 s d a b g) := by
  rw [CompletesWith, scalar2, s.rd_of a ha, s.rd_of b hb, R.ok_bind, R.ok_bind, s.wr_of d _ hd, R.ok_bind, finish_ok, hgf]

/-- The result of one source does not depend on what stands for the other. -/
theorem scalar1_completes {s : State} {d a b : Opd} {f : Word → Word → Word} {g : Word → Word} (ha : Readable s a)
    (hd : Writable s d) (hgf : ∀ x y, g x = f x y) : CompletesWith s d a b f (scalar1 s d a g) := by
  rw [CompletesWith, scalar1, s.rd_of a ha, R.ok_bind, s.wr_of d _ hd, R.ok_bind, finish_ok, hgf]

/-- R89: limm reads no register. -/
theorem execLimm_completes {s : State} {d a b : Opd} (i : BitVec 18) (hd : Writable s d) :
    CompletesWith s d a b (fun _ _ => i.signExtend 64) (execLimm d i s) := by
  rw [CompletesWith, execLimm, s.wr_of d _ hd, R.ok_bind, finish_ok, sext64]

theorem execSel_completes {s : State} {d a b : Opd} (ha : Readable s a) (hb : Readable s b) (hd : Writable s d) :
    execSel d a b s = .next ((s.put d (if val s d = 0 then val s b else val s a)).adv) := by
  rw [execSel, s.rd_of a ha, s.rd_of b hb, s.rd_of d hd.1]
  simp only [R.ok_bind, s.wr_of d _ hd, finish_ok, ite_not]

/-! ## Results that the rules' table writes in other words (R86) -/

theorem ofBool64_of_iff {b : Bool} {p : Prop} [Decidable p] (h : b = true ↔ p) : ofBool64 b = if p then 1 else 0 :=
  if_congr h rfl rfl

/-- Choosing by < and by ≤ agree where equal operands give equal results: the minima and maxima. -/
theorem ite_lt_eq_ite_le {κ : Type} [LinearOrder κ] {key : Word → κ} (hkey : Function.Injective key) {x y u v : Word}
    {b : Bool} (hb : b = true ↔ key x < key y) (huv : x = y → u = v) :
    (if b then u else v) = if key x ≤ key y then u else v := by
  rw [if_congr hb rfl rfl]
  rcases lt_trichotomy (key x) (key y) with h | h | h
  · rw [if_pos h, if_pos h.le]
  · rw [huv (hkey h), ite_self, ite_self]
  · rw [if_neg h.not_gt, if_neg h.not_ge]

theorem toInt_injective : Function.Injective (BitVec.toInt : Word → Int) := fun _ _ => BitVec.eq_of_toInt_eq

/-- R86, R88, R89: each instruction of the rules' table completes with the table's result. -/
theorem exec_of_intForm {i : Instr} {d a b : Opd} {f : Word → Word → Word} {s : State}
    (hi : intForm i = some (d, a, b, f)) (ha : Readable s a) (hb : Readable s b) (hd : Writable s d) :
    CompletesWith s d a b f (exec i s) := by
  cases i with
  | add | sub | and | or | xor | andn | sll | srl | sra | rol | ror | mul | mulh | mulhu =>
    cases hi; exact scalar2_completes ha hb hd fun _ _ => rfl
  | min =>
    cases hi
    exact scalar2_completes ha hb hd fun _ _ => ite_lt_eq_ite_le toInt_injective BitVec.slt_iff_toInt_lt id
  | max =>
    cases hi
    exact scalar2_completes ha hb hd fun _ _ => ite_lt_eq_ite_le toInt_injective BitVec.slt_iff_toInt_lt Eq.symm
  | minu =>
    cases hi
    exact scalar2_completes ha hb hd fun _ _ => ite_lt_eq_ite_le BitVec.toNat_injective BitVec.ult_iff_toNat_lt id
  | maxu =>
    cases hi
    exact scalar2_completes ha hb hd fun _ _ => ite_lt_eq_ite_le BitVec.toNat_injective BitVec.ult_iff_toNat_lt Eq.symm
  | seq => cases hi; exact scalar2_completes ha hb hd fun _ _ => ofBool64_of_iff beq_iff_eq
  | slt => cases hi; exact scalar2_completes ha hb hd fun _ _ => ofBool64_of_iff BitVec.slt_iff_toInt_lt
  | sltu => cases hi; exact scalar2_completes ha hb hd fun _ _ => ofBool64_of_iff BitVec.ult_iff_toNat_lt
  | sle => cases hi; exact scalar2_completes ha hb hd fun _ _ => ofBool64_of_iff BitVec.sle_iff_toInt_le
  | sleu => cases hi; exact scalar2_completes ha hb hd fun _ _ => ofBool64_of_iff BitVec.ule_iff_toNat_le
  | clz | ctz | popc | addImm | andImm | orImm | xorImm | sllImm | srlImm | sraImm | rolImm | lhi =>
    cases hi; exact scalar1_completes ha hd fun _ _ => rfl
  | sltImm => cases hi; exact scalar1_completes ha hd fun _ _ => ofBool64_of_iff BitVec.slt_iff_toInt_lt
  | sltuImm => cases hi; exact scalar1_completes ha hd fun _ _ => ofBool64_of_iff BitVec.ult_iff_toNat_lt
  | limm => cases hi; exact execLimm_completes _ hd
  | _ => cases hi

/-! ## What the counts of bits compute (R86) -/

theorem lt_two_pow_bitLen (m : Nat) : m < 2 ^ bitLen m := by
  rw [bitLen]
  split
  case isTrue h => rw [h]; exact Nat.one_pos
  case isFalse => exact Nat.lt_log2_self

theorem bitLen_le {m k : Nat} (h : m < 2 ^ k) : bitLen m ≤ k := by
  rw [bitLen]
  split
  case isTrue => exact k.zero_le
  case isFalse hm => exact (Nat.log2_lt hm).2 h

theorem testBit_of_bitLen_le {m i : Nat} (h : bitLen m ≤ i) : m.testBit i = false :=
  Nat.testBit_lt_two_pow ((lt_two_pow_bitLen m).trans_le (Nat.pow_le_pow_right Nat.two_pos h))

theorem testBit_bitLen_pred {m : Nat} (h : 0 < bitLen m) : m.testBit (bitLen m - 1) = true := by
  have hm : m ≠ 0 := fun h0 => h.ne' (if_pos h0)
  rw [bitLen, if_neg hm]
  exact Nat.testBit_log2 hm

theorem clz64_toNat (x : Word) : (clz64 x).toNat = 64 - bitLen x.toNat := by
  rw [clz64, BitVec.toNat_ofNat]
  omega

theorem clz64_spec (x : Word) :
    (clz64 x).toNat ≤ 64 ∧ (∀ i, 64 ≤ i + (clz64 x).toNat → i < 64 → x.getLsbD i = false) ∧
      ((clz64 x).toNat < 64 → x.getLsbD (63 - (clz64 x).toNat) = true) := by
  have hlen : bitLen x.toNat ≤ 64 := bitLen_le x.isLt
  rw [clz64_toNat]
  refine ⟨Nat.sub_le _ _, fun i hi _ => testBit_of_bitLen_le (by omega), fun hlt => ?_⟩
  have hpos : 63 - (64 - bitLen x.toNat) = bitLen x.toNat - 1 := by omega
  rw [hpos]
  exact testBit_bitLen_pred (by omega)

theorem ctz64_spec (x : Word) :
    (ctz64 x).toNat ≤ 64 ∧ (∀ i, i < (ctz64 x).toNat → x.getLsbD i = false) ∧
      ((ctz64 x).toNat < 64 → x.getLsbD (ctz64 x).toNat = true) := by
  rw [ctz64]
  cases hfind : (List.range 64).find? fun i => x.getLsbD i with
  | none =>
    have hzero : ∀ i, i < 64 → x.getLsbD i = false := by simpa using hfind
    exact ⟨le_rfl, hzero, fun h => absurd h (lt_irrefl 64)⟩
  | some k =>
    obtain ⟨hk, hmem, hbelow⟩ := List.find?_range_eq_some.1 hfind
    have hlt : k < 64 := List.mem_range.1 hmem
    rw [Option.getD_some, BitVec.toNat_ofNat, Nat.mod_eq_of_lt (by omega)]
    exact ⟨hlt.le, fun i hi => by simpa using hbelow i hi, fun _ => hk⟩

/-- A count is the sum of the elements' marks. -/
theorem countP_eq_sum_map {α : Type} (p : α → Bool) (l : List α) :
    l.countP p = (l.map fun i => if p i then 1 else 0).sum := by
  induction l with
  | nil => rfl
  | cons a l ih => rw [List.countP_cons, List.map_cons, List.sum_cons, ih, Nat.add_comm]

theorem popc64_spec (x : Word) :
    (popc64 x).toNat = ((List.range 64).map fun i => if x.getLsbD i then 1 else 0).sum := by
  have hle : (List.range 64).countP (fun i => x.getLsbD i) ≤ 64 := by
    simpa using List.countP_le_length (l := List.range 64) (p := fun i => x.getLsbD i)
  rw [popc64, BitVec.toNat_ofNat, Nat.mod_eq_of_lt (by omega), countP_eq_sum_map]

/-! ## What the divisions compute (R87) -/

theorem divU_of_ne_zero (x : Word) {y : Word} (hy : y ≠ 0) : divU x y = (x / y, 0) := if_neg hy
theorem remU_of_ne_zero (x : Word) {y : Word} (hy : y ≠ 0) : remU x y = (x % y, 0) := if_neg hy
theorem divS_of_ne_zero (x : Word) {y : Word} (hy : y ≠ 0) : divS x y = (x.sdiv y, 0) := if_neg hy
theorem remS_of_ne_zero (x : Word) {y : Word} (hy : y ≠ 0) : remS x y = (x.srem y, 0) := if_neg hy

/-- The quotient is the truncated one of the integers, whose one overflow wraps. -/
theorem sdiv_eq_ofInt_tdiv (x y : Word) : x.sdiv y = BitVec.ofInt 64 (x.toInt.tdiv y.toInt) :=
  BitVec.eq_of_toInt_eq (by rw [BitVec.toInt_sdiv, BitVec.toInt_ofInt])

theorem srem_eq_ofInt_tmod (x y : Word) : x.srem y = BitVec.ofInt 64 (x.toInt.tmod y.toInt) := by
  rw [← BitVec.toInt_srem, BitVec.ofInt_toInt]

theorem sdiv_mul_add_srem (x y : Word) : x.sdiv y * y + x.srem y = x :=
  calc x.sdiv y * y + x.srem y
      = BitVec.ofInt 64 (x.toInt.tdiv y.toInt) * BitVec.ofInt 64 y.toInt + BitVec.ofInt 64 (x.toInt.tmod y.toInt) := by
        rw [sdiv_eq_ofInt_tdiv, srem_eq_ofInt_tmod, BitVec.ofInt_toInt]
    _ = BitVec.ofInt 64 (x.toInt.tdiv y.toInt * y.toInt + x.toInt.tmod y.toInt) := by
        rw [BitVec.ofInt_add, BitVec.ofInt_mul]
    _ = x := by rw [Int.tdiv_mul_add_tmod, BitVec.ofInt_toInt]

theorem unsigned_division_spec (x : Word) {y : Word} (hy : y ≠ 0) :
    (divU x y).1.toNat * y.toNat + (remU x y).1.toNat = x.toNat ∧ (remU x y).1.toNat < y.toNat := by
  have hpos : 0 < y.toNat := Nat.pos_of_ne_zero fun h => hy (BitVec.eq_of_toNat_eq h)
  simp only [divU_of_ne_zero x hy, remU_of_ne_zero x hy, BitVec.toNat_udiv, BitVec.toNat_umod]
  exact ⟨Nat.div_add_mod' _ _, Nat.mod_lt _ hpos⟩

theorem signed_division_spec (x : Word) {y : Word} (hy : y ≠ 0) :
    (divS x y).1 * y + (remS x y).1 = x ∧ (remS x y).1.toInt.natAbs < y.toInt.natAbs ∧
      (0 ≤ x.toInt → 0 ≤ (remS x y).1.toInt) ∧ (x.toInt ≤ 0 → (remS x y).1.toInt ≤ 0) := by
  have hpos : 0 < y.toInt.natAbs := Int.natAbs_pos.2 fun h => hy (BitVec.eq_of_toInt_eq h)
  simp only [divS_of_ne_zero x hy, remS_of_ne_zero x hy, BitVec.toInt_srem, Int.natAbs_tmod]
  refine ⟨sdiv_mul_add_srem x y, Nat.mod_lt _ hpos, Int.tmod_nonneg _, fun hx => ?_⟩
  have hneg : 0 ≤ (-x.toInt).tmod y.toInt := Int.tmod_nonneg _ (Int.neg_nonneg.2 hx)
  rwa [Int.neg_tmod, Int.neg_nonneg] at hneg

/-- -2^63 over -1 does not fit: the quotient wraps to -2^63. -/
theorem signed_division_overflow :
    (divS (BitVec.intMin 64) (-1)).1 = BitVec.intMin 64 ∧ (remS (BitVec.intMin 64) (-1)).1 = 0 := by decide

/-- Settles O2: `exec_of_intForm` runs through the rules' table; the counts and the divisions have a lemma each. -/
theorem integerResults : Obligations.IntegerResults := by
  unfold Obligations.IntegerResults
  exact ⟨fun _ _ _ _ _ _ hi ha hb hd => exec_of_intForm hi ha hb hd,
    fun _ _ _ _ ha hb hd => execSel_completes ha hb hd,
    fun x => ⟨clz64_spec x, ctz64_spec x, popc64_spec x⟩,
    fun x _ hy => ⟨unsigned_division_spec x hy, signed_division_spec x hy, signed_division_overflow⟩⟩

/-! ## Room in the history buffer (R291) -/

/-- A recorded write takes at most one entry. -/
theorem Thread.histUsed_record_le (t : Thread) (u : Undo) : (t.record u).histUsed ≤ t.histUsed + 1 := by
  rw [Thread.record]
  split
  · exact Nat.le_succ _
  · rw [Thread.histUsed, List.countP_cons]
    split <;> simp [Thread.histUsed]

theorem Thread.histSpace_record {t : Thread} {k : Nat} (u : Undo) (h : t.histSpace (k + 1) = true) :
    (t.record u).histSpace k = true := by
  have hused := t.histUsed_record_le u
  simp only [Thread.histSpace, Thread.record_vq, Bool.or_eq_true, decide_eq_true_eq] at h ⊢
  exact h.imp_right fun h => by omega

/-- A write of s0 discards and takes no entry; any other takes one, and leaves room for the write that follows it. -/
theorem Thread.histRoom_set {t : Thread} (n : Nat) (v : Word) (h : t.histSpace (if n = 0 then 1 else 2) = true) :
    (t.set n v).histRoom = true := by
  by_cases hn : n = 0
  · rw [hn, Thread.set_zero]
    rwa [if_pos hn] at h
  · rw [if_neg hn] at h
    rw [Thread.set, if_neg hn]
    exact Thread.histSpace_record _ h

/-! ## The move of the window (R97) -/

theorem execWbase_illegal {d : Opd} (a : Opd) (s : State) (hd : 16 ≤ opdNum d) :
    execWbase d a s = .next (s.raise { code := fltIllegal }) := by
  rw [execWbase, decide_eq_false hd.not_gt, need_false, R.flt_bind, finish_flt]

/-- R97: where a move by a takes the window. -/
def windowAfter (s : State) (a : Opd) : Int := s.thr.csr.wb.toNat + (val s a).toInt

section
variable {d a : Opd} {s : State} (hglobal : opdNum d < 16) (ha : Readable s a)
include hglobal ha

theorem execWbase_out_of_range (hn : ¬(0 ≤ windowAfter s a ∧ windowAfter s a ≤ 27)) :
    execWbase d a s = .next (s.raise { code := fltOperand }) := by
  rw [windowAfter] at hn
  rw [execWbase, decide_eq_true hglobal, s.rd_of a ha]
  simp only [need_true, R.ok_bind, ← Bool.decide_and, decide_eq_false hn, need_false, R.flt_bind, finish_flt]

/-- The link register is written first; it leaves the control registers as they were, and room to record them. -/
theorem execWbase_moves (hd : Writable s d) (hroom : s.thr.histSpace (if opdNum d = 0 then 1 else 2) = true)
    (hn : 0 ≤ windowAfter s a ∧ windowAfter s a ≤ 27) :
    execWbase d a s = .next ((putCsr (s.put d (s.thr.csr.wb.setWidth 64))
      { s.thr.csr with wb := BitVec.ofInt 5 (windowAfter s a) }).adv) := by
  obtain ⟨n, rfl, -⟩ := hd.1
  have hlink : (s.put (.s n) (s.thr.csr.wb.setWidth 64)).thr.histRoom = true := Thread.histRoom_set n.val _ hroom
  obtain ⟨r, h, hput⟩ := s.put_frame (.s n) (s.thr.csr.wb.setWidth 64)
  have hcsr : (s.put (.s n) (s.thr.csr.wb.setWidth 64)).thr.csr = s.thr.csr := by rw [hput]
  rw [windowAfter] at hn ⊢
  rw [execWbase, decide_eq_true hglobal, s.rd_of a ha]
  simp only [need_true, R.ok_bind, ← Bool.decide_and, decide_eq_true hn, s.wr_of _ _ hd, zext64,
    State.setCsr_of _ _ hlink, hcsr, finish_ok, putCsr]

end

/-- Settles O7: the destination's code decides first, then the range, then the two writes, each of which finds room. -/
theorem windowMove : Obligations.WindowMove := by
  unfold Obligations.WindowMove
  refine fun d a s hd => ⟨fun hglobal ha hroom => ?_, execWbase_illegal a s⟩
  exact ⟨execWbase_moves hglobal ha hd hroom, execWbase_out_of_range hglobal ha⟩

end Sys2Proof.Machine
end
